-- ==== Sys2Proof/Word.lean ====
section
/-!
DEFINITION. The widths of the Mirell 4 (R2, R107, R248): registers of 64 bits, f registers of 32 bits, instruction
words of 16 bits, bytes of 8 bits, and register fields of 5 bits.
-/
namespace Sys2Proof

/-- A g register, a system register or a global address (R107, R162). -/
abbrev Word := BitVec 64
/-- An f register: one FP32 value or two BF16 lanes (R107, R281). -/
abbrev Single := BitVec 32
/-- One 16-bit instruction word (R248). -/
abbrev Half := BitVec 16
/-- One byte of memory (R2). -/
abbrev Byte := BitVec 8
/-- A register field A, B or C of an instruction (R248, R249). -/
abbrev Reg := BitVec 5

end Sys2Proof
end

