-- ==== Sys2Proof/Data.lean ====
section
/-!
DEFINITION. Plain data that instructions and event steps carry: immediates and operands of an instruction word
(R253, R261), flits and packets of Edyth (R26, R29), inbox messages (R118), sensor readings (R71), start outcomes
(R80), update requests (R77) and the mailbox writes that system software makes.
-/
namespace Sys2Proof

/-- What the words of an instruction say beside its fields: the S bit (R105), and whether an RGX word is written.
Used by entries for which the RGX word is optional. -/
structure Hdr where
  s : Bool
  rgx : Bool
  deriving DecidableEq, Repr

/-- The payloads of the IMX words, most significant first (R250, R253). -/
abbrev Imx := List (BitVec 9)

/-- An immediate whose low bits are the B field (R253). -/
structure ImmB where
  hi : Imx
  lo : BitVec 5
  deriving DecidableEq, Repr

/-- The second operand of R261: a register in C, or an immediate in the IMX words. -/
inductive Src where
  | reg (c : Reg)
  | imm (ws : Imx)
  deriving DecidableEq, Repr

/-- One physical core and one of its slots. -/
structure SlotId where
  core : Nat
  slot : Nat
  deriving DecidableEq, Repr

/-- A queue-register endpoint: a core, a slot and a queue register (R331). -/
structure EndId where
  core : Nat
  slot : Nat
  q : Nat
  deriving DecidableEq, Repr

/-- The two ends of a channel inside the package: the RECV end and the slot of the SEND end
    (R115, R116, R331). -/
structure Channel where
  recv : EndId
  send : SlotId
  deriving DecidableEq, Repr

/-- A 32-byte inbox message as four little-endian words (R135, R146, R161, R308, R337). -/
structure Msg where
  w0 : Word
  w1 : Word
  w2 : Word
  w3 : Word
  deriving DecidableEq, Repr

/-- A group reference of R126 as its 48 bits. -/
abbrev GroupRef := BitVec 48

/-- A task named by context, launch number and ID.PATH (R86, R126, R138). -/
structure TaskRef where
  ctx : Nat
  lslot : Nat
  path : Word
  deriving DecidableEq, Repr

/-- To whom an inbox message goes (R118, R138): a slot of a core (its own engines), a task, the supervisor slot of a
die for a launch, or the holder group of a conveyance. -/
inductive Dest where
  | slot (i : SlotId)
  | task (t : TaskRef)
  | supervisor (ctx : Nat) (lslot : Nat) (die : Nat)
  | group (ref : GroupRef)
  deriving DecidableEq, Repr

/-- An Edyth packet (R28, R29). The header's fields by name; `inl` is the 32-byte inline field and `data` the bytes of
the data flits, 64 for each. -/
structure Packet where
  typ : BitVec 8
  len : BitVec 4
  cls : BitVec 2
  src : BitVec 8
  dst : BitVec 8
  seq : BitVec 24
  gen : BitVec 8
  floor : BitVec 24
  hops : BitVec 5
  rsel : BitVec 3
  dctx : BitVec 16
  cslot : BitVec 8
  opc : BitVec 8
  addr : BitVec 64
  aux : BitVec 32
  ecrc : BitVec 32
  inl : List Byte
  data : List Byte
  deriving DecidableEq, Repr

/-- A 68-byte flit (R26): the 32-bit header and the 64-byte body. -/
structure Flit where
  hdr : BitVec 32
  body : List Byte
  deriving DecidableEq, Repr

/-- One round of sensor readings (R71): the hot-spot temperature in m°C and the core-rail voltage in mV of each of the 520
islands, the 54 V input in mV, the power over 1 ms in W, the coolant inlet and outlet in m°C and the flow in mL/min. -/
structure Sensors where
  hot : Vector Nat 520
  rail : Vector Nat 520
  milliVolt : Nat
  watt : Nat
  inlet : Nat
  outlet : Nat
  flow : Nat
  deriving DecidableEq, Repr, Inhabited

/-- A leaky bucket of R75. -/
inductive Bucket where
  | bank (core : Nat) (bank : Nat)
  | lane (port : Nat) (lane : Nat)
  | cluster (octet : Nat)
  deriving DecidableEq, Repr

/-- A predictive-failure mark of R75 and R74. -/
inductive Mark where
  | core (c : Nat)
  | lane (port : Nat) (lane : Nat)
  deriving DecidableEq, Repr

/-- What the parts of a start do when they are attempted (R79, R80): the units for which an attempt of a step fails in
normal mode and in fallback mode. Unit 0 stands for steps without units; a step 2 unit is a die, a step 3 unit a die,
a step 4 unit a port. -/
structure BootInput where
  normalFails : List (Nat × Nat)
  fallbackFails : List (Nat × Nat)
  deriving DecidableEq, Repr

/-- One firmware image as the mailbox streams it (R77): its version, its floor field, whether it carries a clear
request (R76), and its bytes. -/
structure Image where
  version : BitVec 32
  floor : BitVec 32
  clear : Bool
  bytes : List Byte
  deriving DecidableEq, Repr

/-- The stages of an update that the mailbox drives (R77). -/
inductive UpdateOp where
  | begin
  | finish (img : Image)
  deriving DecidableEq, Repr

/-- A reduction group's configuration word of R46 (256 bits, low first). -/
abbrev GroupCfg := BitVec 256

/-- A mailbox write by system software. Each constructor cites the rule that gives the state to the mailbox. -/
inductive Mailbox where
  /-- R163: the package's number. -/
  | packageNumber (n : BitVec 8)
  /-- R14: one core-table entry of a context, by logical die and 32·y + x. -/
  | coreTable (ctx die idx : Nat) (entry : BitVec 32)
  /-- R12: a context's window on a die. -/
  | window (ctx die : Nat) (win : BitVec 32)
  /-- R56: a context's host window. -/
  | hostWindow (ctx : Nat) (base limit : Nat)
  /-- R163: a context's reach map. -/
  | reach (ctx : Nat) (map : BitVec 256)
  /-- R29: a context's domain identifier. -/
  | domain (ctx : Nat) (dctx : BitVec 16)
  /-- R108: PREEMPTDL and RECASTWAIT of a context. -/
  | contextWaits (ctx : Nat) (preemptdl recastwait : Word)
  /-- R149: the base and size of a fault ring; none is the tailings log. -/
  | faultRing (ctx : Option Nat) (base : Nat)
  /-- R157: the offset of a context's save area in each of its cores. -/
  | saveArea (ctx : Nat) (off : Nat)
  /-- R143: arm or disarm debug halt. -/
  | debugArm (ctx : Nat) (on : Bool)
  /-- R192: release-check mode. -/
  | releaseCheck (ctx : Nat) (on : Bool)
  /-- R164: a die's overflow area. -/
  | overflow (die : Nat) (base novf nmail : Nat)
  /-- R31: a route-table entry. -/
  | route (dst rsel : Nat) (port : BitVec 4) (valid : Bool)
  /-- R46: a reduction group's entry. -/
  | group (g : Nat) (cfg : GroupCfg)
  /-- R51: REDTO in nominal cycles. -/
  | redto (cycles : Nat)
  /-- R72: the n-th entry of the event log, read. -/
  | readLog (n : Nat)
  /-- R80: the n-th start of the journal, read. -/
  | readJournal (n : Nat)
  deriving DecidableEq, Repr

end Sys2Proof
end

