-- ==== Sys2Proof/Syntax.lean ====
section
/-!
DEFINITION. The steps of the Mirell 4: one constructor per row of spec/opcode_table.json. The first 134 are the
instructions of the opcode map (R258, R259) with the fields of R260, R280, R293, R313, R330, R348 and R370; the other
107 are the event steps of spec/95, each with the inputs that the step takes.
Field names: `s` is the S bit; `h` holds the S bit and whether an RGX word is written; `a`, `b`, `c` are the register
fields; `ws` are IMX payloads; `i` is an immediate with B.
-/
namespace Sys2Proof

/-- An instruction or an event step. -/
inductive Instr where
  -- page 0 (R260)
  | mov (h : Hdr) (a b : Reg) (sz : BitVec 2) (z : Bool)
  | add (h : Hdr) (a b : Reg) (y : Src) (w32 : Bool)
  | sub (h : Hdr) (a b : Reg) (y : Src) (w32 : Bool)
  | mul (h : Hdr) (a b : Reg) (y : Src) (w32 : Bool)
  | mulh (h : Hdr) (a b : Reg) (y : Src) (u : Bool)
  | div (h : Hdr) (a b : Reg) (y : Src) (u w32 : Bool)
  | rem (h : Hdr) (a b : Reg) (y : Src) (u w32 : Bool)
  | and (h : Hdr) (a b : Reg) (y : Src)
  | or (h : Hdr) (a b : Reg) (y : Src)
  | xor (h : Hdr) (a b : Reg) (y : Src)
  | shl (h : Hdr) (a b : Reg) (y : Src) (w32 : Bool)
  | shr (h : Hdr) (a b : Reg) (y : Src) (w32 ar : Bool)
  | set (h : Hdr) (a b : Reg) (y : Src) (cond : BitVec 3)
  | minmax (h : Hdr) (a b : Reg) (y : Src) (mx u : Bool)
  | bfx (h : Hdr) (a b : Reg) (y : Src) (sx ins : Bool)
  | cnt (h : Hdr) (a b : Reg) (op : BitVec 2) (w32 : Bool)
  | ldi (s : Bool) (a : Reg) (i : ImmB)
  | ld (h : Hdr) (a b : Reg) (wait clr : Bool) (sz : BitVec 2) (z rc : Bool) (ws : Imx)
  | st (h : Hdr) (a b : Reg) (wait full : Bool) (sz : BitVec 2) (rc : Bool) (ws : Imx)
  | addr (h : Hdr) (a b : Reg) (rc : Bool) (ws : Imx)
  | br (s : Bool) (i : ImmB)
  | bz (h : Hdr) (a : Reg) (cond : BitVec 2) (i : ImmB)
  | jal (s : Bool) (a : Reg) (i : ImmB)
  | jr (s : Bool) (a b : Reg)
  | loop (s : Bool) (a : Reg) (i : ImmB)
  | srd (s : Bool) (a : Reg) (i : ImmB)
  | swr (s : Bool) (a : Reg) (i : ImmB)
  | qop (h : Hdr) (a : Reg) (q : BitVec 4) (pop : Bool)
  | fence (h : Hdr) (scope : BitVec 3) (kind : BitVec 2)
  | nop (s : Bool)
  | tend (s : Bool)
  | chunk (s : Bool)
  | brk (s : Bool)
  -- page 1 (R280)
  | fmov (h : Hdr) (a b : Reg) (dir : BitVec 2)
  | fadd (h : Hdr) (a b c : Reg) (bf : Bool) (rm : BitVec 2)
  | fsub (h : Hdr) (a b c : Reg) (bf : Bool) (rm : BitVec 2)
  | fmul (h : Hdr) (a b c : Reg) (bf : Bool) (rm : BitVec 2)
  | fma (s : Bool) (a b c : Reg) (neg bf : Bool) (rm : BitVec 2)
  | fdiv (h : Hdr) (a b c : Reg) (rm : BitVec 2)
  | fsqrt (h : Hdr) (a b : Reg) (rm : BitVec 2)
  | fmin (h : Hdr) (a b c : Reg) (bf : Bool)
  | fmax (h : Hdr) (a b c : Reg) (bf : Bool)
  | fcmp (h : Hdr) (a b c : Reg) (cond : BitVec 3)
  | fcvt (h : Hdr) (a b : Reg) (code : BitVec 5) (rm : BitVec 2)
  | fclass (h : Hdr) (a b : Reg) (bf : Bool)
  | fsgn (h : Hdr) (a b c : Reg) (op : BitVec 2) (bf : Bool)
  | frcp (h : Hdr) (a b : Reg) (rm : BitVec 2)
  | frsq (h : Hdr) (a b : Reg) (rm : BitVec 2)
  | fexp2 (h : Hdr) (a b : Reg) (rm : BitVec 2)
  | flog2 (h : Hdr) (a b : Reg) (rm : BitVec 2)
  | ftanh (h : Hdr) (a b : Reg) (rm : BitVec 2)
  | fldi (s : Bool) (a : Reg) (i : ImmB)
  | fld (h : Hdr) (a b : Reg) (wait clr bf rc : Bool) (ws : Imx)
  | fst (h : Hdr) (a b : Reg) (wait full bf rc : Bool) (ws : Imx)
  -- page 2 (R293)
  | vadd (s : Bool) (a b : Reg)
  | vsub (s : Bool) (a b : Reg)
  | vmul (s : Bool) (a b : Reg)
  | vfma (s : Bool) (a b : Reg)
  | vmax (s : Bool) (a b : Reg)
  | vmin (s : Bool) (a b : Reg)
  | vscl (s : Bool) (a b : Reg)
  | vcvt (s : Bool) (a b : Reg)
  | vexp2 (s : Bool) (a b : Reg)
  | vtanh (s : Bool) (a b : Reg)
  | vrsum (s : Bool) (a b : Reg)
  | vrmax (s : Bool) (a b : Reg)
  | vcmp (s : Bool) (a b : Reg)
  | vsel (s : Bool) (a b : Reg)
  | vcopy (s : Bool) (a b : Reg)
  | vgath (s : Bool) (a b : Reg)
  | vscat (s : Bool) (a b : Reg)
  | vtran (s : Bool) (a b : Reg)
  | vfence (s : Bool) (a : Reg)
  -- page 3 (R313)
  | mmI8P (h : Hdr) (a b c : Reg) (pl : BitVec 3) (k : Option (BitVec 2))
  | mmI4P (h : Hdr) (a b c : Reg) (pl : BitVec 3) (k : Option (BitVec 2))
  | mmBFB (h : Hdr) (a b c : Reg) (pl : BitVec 3) (k : Option (BitVec 2))
  | mmBFP (h : Hdr) (a b c : Reg) (pl : BitVec 3) (k : Option (BitVec 2))
  | msetx (h : Hdr) (a : Reg) (id : Bool)
  | msetc (s : Bool) (a : Reg)
  | mzero (s : Bool)
  | mskip (s : Bool) (k : BitVec 2) (b : Reg)
  | moutl (s : Bool) (a b : Reg)
  | mcks (h : Hdr) (off : Bool)
  | mchk (s : Bool) (a : Reg)
  | mrel (h : Hdr) (a b : Reg) (bf zr : Bool)
  | mwait (s : Bool)
  -- page 4 (R330)
  | qbind (s : Bool) (q : BitVec 4) (b : Reg)
  | qunb (s : Bool) (q : BitVec 4)
  | qgrant (h : Hdr) (a : Reg) (q : BitVec 4) (y : Src)
  | qalt (s : Bool) (a b : Reg)
  | qstat (s : Bool) (a : Reg) (q : BitVec 4)
  | cpy (s : Bool) (a b : Reg)
  | inb (h : Hdr) (a b : Reg) (m nb : Bool)
  | putsg (s : Bool) (a b : Reg)
  | getr (s : Bool) (a b : Reg)
  | jig (s : Bool) (a : Reg)
  | recast (s : Bool) (a b c : Reg)
  | role (s : Bool) (a : Reg)
  | dgst (s : Bool) (a b : Reg)
  | dgx (s : Bool) (a b c : Reg)
  -- page 5 (R348)
  | lrw (h : Hdr) (a b : Reg) (lvl : BitVec 3)
  | sch (h : Hdr) (a b c : Reg)
  | rls (s : Bool) (a b : Reg)
  | amo (h : Hdr) (a b c : Reg) (op : BitVec 4)
  | cas (h : Hdr) (a b c : Reg)
  | famo (h : Hdr) (a b c : Reg) (fop : BitVec 2)
  | red (h : Hdr) (b c : Reg) (op : BitVec 4)
  | fred (h : Hdr) (b c : Reg) (fop : BitVec 2)
  | barr (s : Bool) (a b : Reg)
  | bara (s : Bool) (a b : Reg)
  | barw (h : Hdr) (a b c : Reg)
  | symg (h : Hdr) (a b c : Reg) (mode : BitVec 2)
  | prom (h : Hdr) (a b : Reg) (lvl : BitVec 3)
  | fulf (s : Bool) (a b : Reg)
  | pwait (s : Bool) (a b : Reg)
  | heir (h : Hdr) (a b c : Reg)
  | estq (h : Hdr) (a b c : Reg) (idx : Bool)
  | capgv (h : Hdr) (a b c : Reg)
  | captk (s : Bool) (a b : Reg)
  | capq (s : Bool) (a b : Reg)
  -- page 6 (R370)
  | fork (h : Hdr) (a b c : Reg)
  | join (h : Hdr) (a b c : Reg)
  | launch (s : Bool) (a b : Reg)
  | idr (s : Bool) (a b : Reg)
  | plive (s : Bool) (i : ImmB)
  | trap (s : Bool) (i : ImmB)
  | xret (s : Bool)
  | asel (h : Hdr) (a : Reg) (adv : BitVec 2) (i : ImmB)
  | abr (h : Hdr) (a c : Reg) (nz : Bool) (i : ImmB)
  | arec (s : Bool) (a : Reg) (i : ImmB)
  | apf (h : Hdr) (a b c : Reg)
  | cntr (h : Hdr) (a b : Reg) (clr : Bool)
  | tctl (h : Hdr) (a b c : Reg)
  | finj (h : Hdr) (a : Reg) (reg : Bool)
  -- clocks, power and sensors
  | frequencyStep (islands : List Nat) (step : Nat)
  | relockEnd (islands : List Nat)
  | powerLimitExceeded (power : Bool) (reading : BitVec 32)
  | powerCapSet (watt : Nat)
  | powerCapStep (average : Nat) (byPower : List Nat)
  | sensorSample (r : Sensors)
  | thermalStep (island temp : Nat)
  | masterWdElection
  -- Edyth links; a lane is numbered 8 times its port plus its number there (R25)
  | laneFailure (lane : Nat)
  | linkRetrainDone (port : Nat)
  | linkDown (port : Nat)
  | flitReceive (port : Nat) (f : Flit)
  | linkNak (port : Nat) (lseq : BitVec 8)
  | linkAck (port : Nat) (lseq : BitVec 8)
  | packetForward (p : Packet)
  | residencyLimit (index : Nat)
  -- Edyth packets
  | put (p : Packet)
  | packetPutsg (p : Packet)
  | get (p : Packet)
  | packetAmo (p : Packet)
  | packetCas (p : Packet)
  | packetRed (p : Packet)
  | packetFamo (p : Packet)
  | packetFred (p : Packet)
  | rsp (p : Packet)
  | ack (p : Packet)
  | nak (p : Packet)
  | flr (p : Packet)
  | lnch (p : Packet)
  | rrpt (p : Packet)
  | rdc (port : Nat) (p : Packet)
  | rdr (p : Packet)
  | reductionTimeout (group : Nat)
  | ackTimer (src cls : Nat)
  | flrTimer (dst cls : Nat)
  | replayTimeout (dst cls : Nat)
  | replayRequest (dst cls : Nat)
  | generationAdvance (dst cls : Nat)
  | flowReset (peer cls : Nat)
  -- host
  | hostMemAccess (write : Bool) (addr : Nat) (data : List Byte)
  | tail (ctx q : Nat) (v : BitVec 32)
  | err (ctx q : Nat) (v : BitVec 32)
  | queueConfigure (ctx q base k : Nat)
  | packetFetch (ctx q : Nat)
  | launchPacket (ctx q : Nat)
  | waitw (ctx q : Nat)
  | waitwReread (ctx q : Nat)
  | sigw (ctx q : Nat)
  | setdet (ctx q : Nat)
  | setwt (ctx q : Nat)
  | aload (ctx q : Nat)
  | aseal (ctx q : Nat)
  | completionWordWrite (ctx lslot : Nat)
  -- Headframe and mailbox
  | ageingMeasure (octet count : Nat)
  | correctedError (b : Bucket) (core : Nat)
  | bucketLeak (b : Bucket)
  | update (op : UpdateOp)
  | tenantKeyWrite (ctx : Nat) (key : BitVec 256)
  | moduleStart (b : BootInput)
  | journalClear
  | contextStart (ctx : Nat)
  | consWrite (ctx : Option Nat) (v : BitVec 32)
  | counterReadClear (port idx : Nat)
  | mapEntryWrite (core ctx idx : Nat) (entry : BitVec 32)
  | mailboxWrite (m : Mailbox)
  -- scheduler and slots
  | supervisorStart (ctx lslot die : Nat)
  | arbiterRound (core : Nat)
  | recastArrival (src : SlotId) (target : Nat) (word : Word)
  | icacheFill (i : SlotId)
  | returningWrite (i : SlotId) (index : Nat)
  | sfuTake (core : Nat)
  | sfuResult (core : Nat)
  | trapEntry (i : SlotId)
  | uncorr (i : SlotId) (place : Word)
  | killedReport (core : Nat)
  | inboxDeliver (sender : Option SlotId) (d : Dest) (m : Msg)
  | channelWordArrive (c : Channel) (gen : Nat) (w : Option Word)
  | grantArrive (c : Channel) (n gen : Nat)
  | revokeArrive (c : Channel)
  | allowanceReturn (c : Channel) (n gen : Nat)
  | granuleAccess (key : Nat)
  | homeAccess (id : Nat)
  | probeResponse (i : SlotId)
  | commitGrant (i : SlotId) (falseHits : List SlotId)
  | waitlimit (i : SlotId)
  | exit (die : Nat) (ref : GroupRef)
  | exitReport (ref : GroupRef)
  | debugResume (i : SlotId)
  | floodRequest (ctx : Nat)
  | floodEnd (ctx : Nat)
  | preemptRequest (ctx : Nat)
  | preemptDeadline (i : SlotId)
  | hoistSave (core : Nat)
  | hoistRestore (core ctx : Nat) (badBlock : Option Nat)
  -- engines
  | tensCommandAccept (i : SlotId)
  | tensorExecute (core : Nat)
  | tensorRetire (core : Nat)
  | vectorExecute (core limit : Nat)
  | vecdone (core : Nat)
  | copyTransfer (core limit : Nat)
  | copydone (core : Nat)
  | jigPass (die limit : Nat)
  | getdone (core : Nat)
  | reduceRoundTimeout (die v : Nat)
  | assayMerge (core : Nat)
  | uncorrectableDieFault (die : Nat)
  | bridgeLaneFailure (dieA dieB : Nat)
  deriving DecidableEq, Repr

end Sys2Proof
end

