-- ==== Sys2Proof/WellFormed.lean ====
section
/-!
DEFINITION. When a term of Instr stands for a chain of words the spec allows (R250 to R254 and the field tables of
R260, R280, R313, R330, R348, R370), and when an event step's indices name units that exist (R7, R9, R24, R31, R46).
-/
namespace Sys2Proof

/-- R250, R253: at most four prefix words, `pgx` and `rgx` of them not IMX. -/
def fits (pgx rgx : Bool) (ws : Imx) : Bool :=
  ws.length + pgx.toNat + rgx.toNat ≤ 4

/-- R254: without an RGX word, C and FORM are 0, so every field carried there holds its zero value. -/
def carried (h : Hdr) (zeros : List Bool) : Bool :=
  h.rgx || zeros.all id

/-- R261: the register form carries C in the RGX word; the immediate form has at least one IMX word. -/
def Src.ok (pgx : Bool) (h : Hdr) : Src → Bool
  | .reg c => h.rgx || c == 0
  | .imm ws => !ws.isEmpty && fits pgx h.rgx ws

/-- A g, f pair of an MM instruction: C names f[c] and f[c+1] (R254). -/
def pairOk (c : Reg) : Bool := c != 31

/-- R314: plane code 1 is illegal, and MM.BFB takes only 0. -/
def planeOk (pl : BitVec 3) : Bool := pl != 1

/-- R7, R31: a package or bridge unit of the package. -/
def dieOk (d : Nat) : Bool := d < 4
def coreOk (c : Nat) : Bool := c < 4096
def slotOk (i : SlotId) : Bool := coreOk i.core && i.slot < 8
def endOk (e : EndId) : Bool := coreOk e.core && e.slot < 8 && e.q < 16
def ctxOk (c : Nat) : Bool := c < 16
def queueOk (c q : Nat) : Bool := c < 16 && q < 64
def portOk (p : Nat) : Bool := p < 16
def flowOk (peer cls : Nat) : Bool := peer < 256 && cls < 4
/-- R28: at most eight data flits of 64 bytes, and an inline field of 32 bytes. -/
def Packet.ok (p : Packet) : Bool := p.inl.length == 32 && p.data.length ≤ 512

/-- The well-formed terms. -/
def Instr.wf : Instr → Bool
  | .mov h _ _ sz z => carried h [sz == 0, !z] && !(sz == 0 && z)
  | .add h _ _ y w => carried h [!w] && y.ok false h
  | .sub h _ _ y w => carried h [!w] && y.ok false h
  | .mul h _ _ y w => carried h [!w] && y.ok false h
  | .mulh h _ _ y u => carried h [!u] && y.ok false h
  | .div h _ _ y u w => carried h [!u, !w] && y.ok false h
  | .rem h _ _ y u w => carried h [!u, !w] && y.ok false h
  | .and h _ _ y => y.ok false h
  | .or h _ _ y => y.ok false h
  | .xor h _ _ y => y.ok false h
  | .shl h _ _ y w => carried h [!w] && y.ok false h
  | .shr h _ _ y w ar => carried h [!w, !ar] && y.ok false h
  | .set h _ _ y cond => carried h [cond == 0] && y.ok false h && cond.toNat ≤ 5
  | .minmax h _ _ y mx u => carried h [!mx, !u] && y.ok false h
  | .bfx h _ _ y sx ins => carried h [!sx, !ins] && y.ok false h && !(sx && ins)
  | .cnt h _ _ op w => carried h [op == 0, !w] && op != 3
  | .ldi _ _ i => fits false false i.hi
  | .ld h _ _ w c sz z rc ws =>
    carried h [!w, !c, sz == 0, !z, !rc] && fits false h.rgx ws && !(sz == 0 && z)
  | .st h _ _ w f sz rc ws =>
    carried h [!w, !f, sz == 0, !rc] && fits false h.rgx ws && !(w && !f)
  | .addr h _ _ rc ws => carried h [!rc] && fits false h.rgx ws
  | .br _ i => fits false false i.hi
  | .bz h _ cond i => carried h [cond == 0] && fits false h.rgx i.hi
  | .jal _ _ i => fits false false i.hi
  | .jr _ _ _ => true
  | .loop _ _ i => fits false false i.hi
  | .srd _ _ i => fits false false i.hi
  | .swr _ _ i => fits false false i.hi
  | .qop h _ _ pop => carried h [!pop]
  | .fence h scope kind => carried h [kind == 0] && scope != 7 && kind != 3
  | .nop _ => true
  | .tend _ => true
  | .chunk _ => true
  | .brk _ => true
  | .fmov h _ _ dir => carried h [dir == 0] && dir != 3
  | .fadd h _ _ c bf rm => carried h [c == 0, !bf, rm == 0]
  | .fsub h _ _ c bf rm => carried h [c == 0, !bf, rm == 0]
  | .fmul h _ _ c bf rm => carried h [c == 0, !bf, rm == 0]
  | .fma _ _ _ _ _ _ _ => true
  | .fdiv h _ _ c rm => carried h [c == 0, rm == 0]
  | .fsqrt h _ _ rm => carried h [rm == 0]
  | .fmin h _ _ c bf => carried h [c == 0, !bf]
  | .fmax h _ _ c bf => carried h [c == 0, !bf]
  | .fcmp h _ _ c cond => carried h [c == 0, cond == 0] && cond.toNat ≤ 4
  | .fcvt h _ _ code rm => carried h [code == 0, rm == 0] && code.toNat ≤ 9
  | .fclass h _ _ bf => carried h [!bf]
  | .fsgn h _ _ c op bf => carried h [c == 0, op == 0, !bf] && (op != 3 || c == 0)
  | .frcp h _ _ rm => carried h [rm == 0]
  | .frsq h _ _ rm => carried h [rm == 0]
  | .fexp2 h _ _ rm => carried h [rm == 0]
  | .flog2 h _ _ rm => carried h [rm == 0]
  | .ftanh h _ _ rm => carried h [rm == 0]
  | .fldi _ _ i => fits true false i.hi
  | .fld h _ _ w c bf rc ws => carried h [!w, !c, !bf, !rc] && fits true h.rgx ws
  | .fst h _ _ w f bf rc ws => carried h [!w, !f, !bf, !rc] && fits true h.rgx ws && !(w && !f)
  | .vadd _ _ _ => true
  | .vsub _ _ _ => true
  | .vmul _ _ _ => true
  | .vfma _ _ _ => true
  | .vmax _ _ _ => true
  | .vmin _ _ _ => true
  | .vscl _ _ _ => true
  | .vcvt _ _ _ => true
  | .vexp2 _ _ _ => true
  | .vtanh _ _ _ => true
  | .vrsum _ _ _ => true
  | .vrmax _ _ _ => true
  | .vcmp _ _ _ => true
  | .vsel _ _ _ => true
  | .vcopy _ _ _ => true
  | .vgath _ _ _ => true
  | .vscat _ _ _ => true
  | .vtran _ _ _ => true
  | .vfence _ _ => true
  | .mmI8P h _ _ c pl _ => carried h [c == 0, pl == 0] && pairOk c && planeOk pl
  | .mmI4P h _ _ c pl _ => carried h [c == 0, pl == 0] && pairOk c && planeOk pl
  | .mmBFB h _ _ c pl _ => carried h [c == 0, pl == 0] && pairOk c && pl == 0
  | .mmBFP h _ _ c pl _ => carried h [c == 0, pl == 0] && pairOk c && planeOk pl
  | .msetx h a id => carried h [!id] && (!id || a == 0)
  | .msetc _ _ => true
  | .mzero _ => true
  | .mskip _ _ _ => true
  | .moutl _ _ _ => true
  | .mcks h off => carried h [!off]
  | .mchk _ _ => true
  | .mrel h _ _ bf zr => carried h [!bf, !zr]
  | .mwait _ => true
  | .qbind _ _ _ => true
  | .qunb _ _ => true
  | .qgrant h _ _ y => y.ok true h
  | .qalt _ _ _ => true
  | .qstat _ _ _ => true
  | .cpy _ _ _ => true
  | .inb h _ _ m nb => carried h [!m, !nb]
  | .putsg _ _ _ => true
  | .getr _ _ _ => true
  | .jig _ _ => true
  | .recast _ _ _ _ => true
  | .role _ _ => true
  | .dgst _ _ _ => true
  | .dgx _ _ _ _ => true
  | .lrw h _ _ lvl => carried h [lvl == 0]
  | .sch h _ _ c => carried h [c == 0]
  | .rls _ _ _ => true
  | .amo h _ _ c op => carried h [c == 0, op == 0] && op.toNat ≤ 8
  | .cas h _ _ c => carried h [c == 0]
  | .famo h _ _ c fop => carried h [c == 0, fop == 0] && fop != 3
  | .red h _ c op => carried h [c == 0, op == 0] && op.toNat ≤ 8
  | .fred h _ c fop => carried h [c == 0, fop == 0] && fop != 3
  | .barr _ _ _ => true
  | .bara _ _ _ => true
  | .barw h _ _ c => carried h [c == 0]
  | .symg h _ _ c mode => carried h [c == 0, mode == 0] && mode != 3
  | .prom h _ _ lvl => carried h [lvl == 0]
  | .fulf _ _ _ => true
  | .pwait _ _ _ => true
  | .heir h _ _ c => carried h [c == 0]
  | .estq h _ _ c idx => carried h [c == 0, !idx]
  | .capgv h _ _ c => carried h [c == 0]
  | .captk _ _ _ => true
  | .capq _ _ _ => true
  | .fork h _ _ c => carried h [c == 0]
  | .join h _ _ c => carried h [c == 0]
  | .launch _ _ _ => true
  | .idr _ _ _ => true
  | .plive _ i => fits true false i.hi
  | .trap _ i => fits true false i.hi
  | .xret _ => true
  | .asel h _ adv i => carried h [adv == 0] && fits true h.rgx i.hi && adv != 3
  | .abr h _ c nz i => carried h [c == 0, !nz] && fits true h.rgx i.hi
  | .arec _ _ i => fits true false i.hi
  | .apf h _ _ c => carried h [c == 0]
  | .cntr h _ _ clr => carried h [!clr]
  | .tctl h _ _ c => carried h [c == 0]
  | .finj h _ reg => carried h [!reg]
  | .frequencyStep is n => is.all (· < 520) && n ≤ 13
  | .relockEnd is => is.all (· < 520)
  | .powerLimitExceeded _ _ => true
  | .powerCapSet w => 1200 ≤ w && w ≤ 3200 && w % 25 == 0
  | .powerCapStep _ is => is.all (· < 520)
  | .sensorSample _ => true
  | .thermalStep i _ => i < 520
  | .masterWdElection => true
  | .laneFailure l => l < 128
  | .linkRetrainDone p => portOk p
  | .linkDown p => portOk p
  | .flitReceive p f => portOk p && f.body.length == 64
  | .linkNak p _ => portOk p
  | .linkAck p _ => portOk p
  | .packetForward p => p.ok
  | .residencyLimit _ => true
  | .put p => p.ok
  | .packetPutsg p => p.ok
  | .get p => p.ok
  | .packetAmo p => p.ok
  | .packetCas p => p.ok
  | .packetRed p => p.ok
  | .packetFamo p => p.ok
  | .packetFred p => p.ok
  | .rsp p => p.ok
  | .ack p => p.ok
  | .nak p => p.ok
  | .flr p => p.ok
  | .lnch p => p.ok
  | .rrpt p => p.ok
  | .rdc port p => portOk port && p.ok
  | .rdr p => p.ok
  | .reductionTimeout g => g < 256
  | .ackTimer p c => flowOk p c
  | .flrTimer p c => flowOk p c
  | .replayTimeout p c => flowOk p c
  | .replayRequest p c => flowOk p c
  | .generationAdvance p c => flowOk p c
  | .flowReset p c => flowOk p c
  | .hostMemAccess _ h d => h % 64 + d.length ≤ 64 && h < 2 ^ 39
  | .tail c q _ => queueOk c q
  | .err c q _ => queueOk c q
  | .queueConfigure c q _ k => queueOk c q && 4 ≤ k && k ≤ 16
  | .packetFetch c q => queueOk c q
  | .launchPacket c q => queueOk c q
  | .waitw c q => queueOk c q
  | .waitwReread c q => queueOk c q
  | .sigw c q => queueOk c q
  | .setdet c q => queueOk c q
  | .setwt c q => queueOk c q
  | .aload c q => queueOk c q
  | .aseal c q => queueOk c q
  | .completionWordWrite c l => ctxOk c && l < 256
  | .ageingMeasure o _ => o < 512
  | .correctedError _ c => coreOk c
  | .bucketLeak _ => true
  | .update _ => true
  | .tenantKeyWrite c _ => ctxOk c
  | .moduleStart _ => true
  | .journalClear => true
  | .contextStart c => ctxOk c
  | .consWrite c _ => c.all ctxOk
  | .counterReadClear p i => portOk p && i < 7
  | .mapEntryWrite c x i _ => coreOk c && ctxOk x && i < 64
  | .mailboxWrite _ => true
  | .supervisorStart c l d => ctxOk c && l < 256 && dieOk d
  | .arbiterRound c => coreOk c
  | .recastArrival i t _ => slotOk i && coreOk t
  | .icacheFill i => slotOk i
  | .returningWrite i _ => slotOk i
  | .sfuTake c => coreOk c
  | .sfuResult c => coreOk c
  | .trapEntry i => slotOk i
  | .uncorr i _ => slotOk i
  | .killedReport c => coreOk c
  | .inboxDeliver i _ _ => i.all slotOk
  | .channelWordArrive c _ _ => endOk c.recv && slotOk c.send
  | .grantArrive c _ _ => endOk c.recv && slotOk c.send
  | .revokeArrive c => endOk c.recv && slotOk c.send
  | .allowanceReturn c _ _ => endOk c.recv && slotOk c.send
  | .granuleAccess _ => true
  | .homeAccess _ => true
  | .probeResponse i => slotOk i
  | .commitGrant i fs => slotOk i && fs.all slotOk
  | .waitlimit i => slotOk i
  | .exit d _ => dieOk d
  | .exitReport _ => true
  | .debugResume i => slotOk i
  | .floodRequest c => ctxOk c
  | .floodEnd c => ctxOk c
  | .preemptRequest c => ctxOk c
  | .preemptDeadline i => slotOk i
  | .hoistSave c => coreOk c
  | .hoistRestore c x _ => coreOk c && ctxOk x
  | .tensCommandAccept i => slotOk i
  | .tensorExecute c => coreOk c
  | .tensorRetire c => coreOk c
  | .vectorExecute c _ => coreOk c
  | .vecdone c => coreOk c
  | .copyTransfer c _ => coreOk c
  | .copydone c => coreOk c
  | .jigPass d _ => dieOk d
  | .getdone c => coreOk c
  | .reduceRoundTimeout d _ => dieOk d
  | .assayMerge c => coreOk c
  | .uncorrectableDieFault d => dieOk d
  | .bridgeLaneFailure a b => a < 5 && b < 5

end Sys2Proof
end

