-- ==== Sys2Proof/Decode.lean ====
section
/-!
DEFINITION. Instruction words (spec/15_encoding.md): prefixes and base words (R248, R249), prefix chains (R250,
R251), the entry checks of R252, the opcode map (R258, R259), and the encoder written from the same tables.
Decoding is total on every list of words and rejects by name. Every rejection is the ILLEGAL of R251 or R252 except
`truncated`, which says that the chain needs a word that the list does not hold (R255: the fetch of that word faults).
-/
namespace Sys2Proof

/-- Why a chain of words is no instruction. -/
inductive Reject where
  /-- The chain needs a further word. -/
  | truncated
  /-- A prefix word of kind 11 (R249). -/
  | prefixKind
  /-- A chain that breaks the order rules, or a page of 0 or above 6 (R250). -/
  | prefixOrder
  /-- A fifth prefix word (R251). -/
  | fifthPrefix
  /-- A major that the page does not have (R258). -/
  | major
  /-- An RGX word that the entry does not take, or one that it requires and lacks (R252). -/
  | rgxUse
  /-- An IMX word that the entry does not take (R252). -/
  | imxUse
  /-- A nonzero field that the entry does not use (R252). -/
  | unusedField
  /-- A form value or form bit that the entry does not define (R252). -/
  | formValue
  /-- A q register above 15, a k register above 3 or an f pair of 31 (R252, R254). -/
  | registerRange
  /-- An illegal CTL word (R259). -/
  | ctl
  deriving DecidableEq, Repr

/-- A decoded chain before its entry is looked up (R251): page and major, S, whether an RGX word is present with its
C and FORM (0 without one), A, B and the IMX payloads. -/
structure Raw where
  page : Nat
  major : Nat
  s : Bool
  rg : Bool
  c : Reg
  form : BitVec 4
  a : Reg
  b : Reg
  imx : Imx
  deriving DecidableEq, Repr

/-- The prefixes read so far (R251). -/
structure Chain where
  n : Nat
  pg : Option (BitVec 9)
  rg : Option (BitVec 9)
  imx : Imx
  deriving DecidableEq, Repr

/-- R248: a word with bits 14:10 all ones is a prefix. -/
def isPrefix (w : Half) : Bool := w.extractLsb' 10 5 == 31
/-- R249: the payload bits p[8:0]. -/
def payload (w : Half) : BitVec 9 := w.extractLsb' 0 9

/-- R251: what one prefix word does to the chain, by its kind p[10:9] (bits 15 and 9 of the word). -/
def Chain.push (ch : Chain) (w : Half) : Except Reject Chain :=
  if ch.n = 4 then .error .fifthPrefix
  else match w.getLsbD 15, w.getLsbD 9 with
    | true, false =>
      if ch.n != 0 || payload w == 0 || 6 < (payload w).toNat then .error .prefixOrder
      else .ok { ch with n := ch.n + 1, pg := some (payload w) }
    | false, true =>
      if ch.rg.isSome || !ch.imx.isEmpty then .error .prefixOrder
      else .ok { ch with n := ch.n + 1, rg := some (payload w) }
    | false, false => .ok { ch with n := ch.n + 1, imx := ch.imx ++ [payload w] }
    | true, true => .error .prefixKind

/-- The fields of a base word behind a chain (R251). -/
def Chain.base (ch : Chain) (w : Half) : Raw :=
  { page := (ch.pg.map BitVec.toNat).getD 0
    major := (w.extractLsb' 10 5).toNat
    s := w.getLsbD 15
    rg := ch.rg.isSome
    c := (ch.rg.getD 0).extractLsb' 4 5
    form := (ch.rg.getD 0).extractLsb' 0 4
    a := w.extractLsb' 5 5
    b := w.extractLsb' 0 5
    imx := ch.imx }

/-- R251: the chain at the head of a list of words. -/
def parseFrom (ch : Chain) : List Half → Except Reject Raw
  | [] => .error .truncated
  | w :: ws =>
    if isPrefix w then
      match ch.push w with
      | .ok ch' => parseFrom ch' ws
      | .error e => .error e
    else .ok (ch.base w)

def parse (ws : List Half) : Except Reject Raw := parseFrom ⟨0, none, none, []⟩ ws

/-- The instruction if every check holds, else the first failing check's reason (R252: all of them are ILLEGAL). -/
def accept (checks : List (Bool × Reject)) (i : Instr) : Except Reject Instr :=
  match checks.find? (fun c => !c.1) with
  | none => .ok i
  | some c => .error c.2

namespace Raw
def hdr (r : Raw) : Hdr := ⟨r.s, r.rg⟩
def immB (r : Raw) : ImmB := ⟨r.imx, r.b⟩
/-- R261: the second operand. -/
def src (r : Raw) : Src := if r.imx.isEmpty then .reg r.c else .imm r.imx
def f2 (r : Raw) : BitVec 2 := r.form.extractLsb' 0 2
def f3 (r : Raw) : BitVec 3 := r.form.extractLsb' 0 3
def fb (r : Raw) (n : Nat) : Bool := r.form.getLsbD n
def cb (r : Raw) (n : Nat) : Bool := r.c.getLsbD n
def qa (r : Raw) : BitVec 4 := r.a.extractLsb' 0 4
def qb (r : Raw) : BitVec 4 := r.b.extractLsb' 0 4
/-- R314: the stream register that one IMX word names. -/
def ksel (r : Raw) : Option (BitVec 2) := r.imx.head?.map (fun w => w.extractLsb' 0 2)
-- the checks of R252
def noImx (r : Raw) : Bool × Reject := (r.imx.isEmpty, .imxUse)
def noRgx (r : Raw) : Bool × Reject := (!r.rg, .rgxUse)
def needRgx (r : Raw) : Bool × Reject := (r.rg, .rgxUse)
def aZero (r : Raw) : Bool × Reject := (r.a == 0, .unusedField)
def bZero (r : Raw) : Bool × Reject := (r.b == 0, .unusedField)
def cZero (r : Raw) : Bool × Reject := (r.c == 0, .unusedField)
/-- The FORM bits outside `m` are 0. -/
def mask (r : Raw) (m : BitVec 4) : Bool × Reject := (r.form &&& ~~~m == 0, .formValue)
def value (_ : Raw) (ok : Bool) : Bool × Reject := (ok, .formValue)
/-- R261: with IMX words, C is unused. -/
def srcOk (r : Raw) : Bool × Reject := (r.imx.isEmpty || r.c == 0, .unusedField)
/-- R260: C[4:2] of LD, ST, FLD and FST is 0. -/
def cLow (r : Raw) : Bool × Reject := (r.c.toNat ≤ 3, .formValue)
def qaOk (r : Raw) : Bool × Reject := (r.a.toNat ≤ 15, .registerRange)
def qbOk (r : Raw) : Bool × Reject := (r.b.toNat ≤ 15, .registerRange)
/-- R254: C = 31 names no f pair. -/
def pairRange (r : Raw) : Bool × Reject := (r.c != 31, .registerRange)
/-- R314: no IMX word, or one whose value is 0 to 3. -/
def kselOk (r : Raw) : Bool × Reject :=
  (r.imx.length ≤ 1 && r.imx.all (fun w => w.toNat ≤ 3), .imxUse)
end Raw

/-- The entries of page 0: the field table of 16_isa_page0_scalar (R260) and the checks of R252. -/
def decodePage0 (r : Raw) : Except Reject Instr :=
  match r.major with
  | 0x01 => accept [r.noImx, r.cZero, r.mask 0b0111, r.value (!(r.f2 == 0 && r.fb 2))]
      (.mov r.hdr r.a r.b r.f2 (r.fb 2))
  | 0x02 => accept [r.srcOk, r.mask 0b0001]
      (.add r.hdr r.a r.b r.src (r.fb 0))
  | 0x03 => accept [r.srcOk, r.mask 0b0001]
      (.sub r.hdr r.a r.b r.src (r.fb 0))
  | 0x04 => accept [r.srcOk, r.mask 0b0001]
      (.mul r.hdr r.a r.b r.src (r.fb 0))
  | 0x05 => accept [r.srcOk, r.mask 0b0001]
      (.mulh r.hdr r.a r.b r.src (r.fb 0))
  | 0x06 => accept [r.srcOk, r.mask 0b0011]
      (.div r.hdr r.a r.b r.src (r.fb 0) (r.fb 1))
  | 0x07 => accept [r.srcOk, r.mask 0b0011]
      (.rem r.hdr r.a r.b r.src (r.fb 0) (r.fb 1))
  | 0x08 => accept [r.srcOk, r.mask 0]
      (.and r.hdr r.a r.b r.src)
  | 0x09 => accept [r.srcOk, r.mask 0]
      (.or r.hdr r.a r.b r.src)
  | 0x0A => accept [r.srcOk, r.mask 0]
      (.xor r.hdr r.a r.b r.src)
  | 0x0B => accept [r.srcOk, r.mask 0b0001]
      (.shl r.hdr r.a r.b r.src (r.fb 0))
  | 0x0C => accept [r.srcOk, r.mask 0b0011]
      (.shr r.hdr r.a r.b r.src (r.fb 0) (r.fb 1))
  | 0x0D => accept [r.srcOk, r.mask 0b0111, r.value (r.f3.toNat ≤ 5)]
      (.set r.hdr r.a r.b r.src r.f3)
  | 0x0E => accept [r.srcOk, r.mask 0b0011]
      (.minmax r.hdr r.a r.b r.src (r.fb 0) (r.fb 1))
  | 0x0F => accept [r.srcOk, r.mask 0b0011, r.value (!(r.fb 0 && r.fb 1))]
      (.bfx r.hdr r.a r.b r.src (r.fb 0) (r.fb 1))
  | 0x10 => accept [r.noImx, r.cZero, r.mask 0b0111, r.value (r.f2 != 3)]
      (.cnt r.hdr r.a r.b r.f2 (r.fb 2))
  | 0x11 => accept [r.noRgx]
      (.ldi r.s r.a r.immB)
  | 0x12 => accept [r.cLow, r.value (!(r.f2 == 0 && r.fb 2))]
      (.ld r.hdr r.a r.b (r.cb 0) (r.cb 1) r.f2 (r.fb 2) (r.fb 3) r.imx)
  | 0x13 => accept [r.cLow, r.mask 0b1011, r.value (!(r.cb 0 && !(r.cb 1)))]
      (.st r.hdr r.a r.b (r.cb 0) (r.cb 1) r.f2 (r.fb 3) r.imx)
  | 0x14 => accept [r.cZero, r.mask 0b1000]
      (.addr r.hdr r.a r.b (r.fb 3) r.imx)
  | 0x15 => accept [r.noRgx, r.aZero]
      (.br r.s r.immB)
  | 0x16 => accept [r.cZero, r.mask 0b0011]
      (.bz r.hdr r.a r.f2 r.immB)
  | 0x17 => accept [r.noRgx]
      (.jal r.s r.a r.immB)
  | 0x18 => accept [r.noRgx, r.noImx]
      (.jr r.s r.a r.b)
  | 0x19 => accept [r.noRgx]
      (.loop r.s r.a r.immB)
  | 0x1A => accept [r.noRgx]
      (.srd r.s r.a r.immB)
  | 0x1B => accept [r.noRgx]
      (.swr r.s r.a r.immB)
  | 0x1C => accept [r.noImx, r.cZero, r.mask 0b0001, r.qbOk]
      (.qop r.hdr r.a r.qb (r.fb 0))
  | 0x1D => accept [r.noImx, r.cZero, r.aZero, r.mask 0b0011, r.value (r.b.toNat ≤ 6), r.value (r.f2 != 3)]
      (.fence r.hdr (r.b.extractLsb' 0 3) r.f2)
  | 0x1E =>
    match r.rg || !r.imx.isEmpty || r.a != 0, r.b.toNat with
    | true, _ => .error .ctl
    | false, 0 => .ok (.nop r.s)
    | false, 1 => .ok (.tend r.s)
    | false, 2 => .ok (.chunk r.s)
    | false, 3 => .ok (.brk r.s)
    | false, _ => .error .ctl
  | _ => .error .major

/-- The entries of page 1: the field table of 17_isa_page1_float (R280) and the checks of R252. -/
def decodePage1 (r : Raw) : Except Reject Instr :=
  match r.major with
  | 0x01 => accept [r.noImx, r.cZero, r.mask 0b0011, r.value (r.f2 != 3)]
      (.fmov r.hdr r.a r.b r.f2)
  | 0x02 => accept [r.noImx, r.mask 0b0111]
      (.fadd r.hdr r.a r.b r.c (r.fb 2) r.f2)
  | 0x03 => accept [r.noImx, r.mask 0b0111]
      (.fsub r.hdr r.a r.b r.c (r.fb 2) r.f2)
  | 0x04 => accept [r.noImx, r.mask 0b0111]
      (.fmul r.hdr r.a r.b r.c (r.fb 2) r.f2)
  | 0x05 => accept [r.noImx, r.needRgx]
      (.fma r.s r.a r.b r.c (r.fb 3) (r.fb 2) r.f2)
  | 0x06 => accept [r.noImx, r.mask 0b0011]
      (.fdiv r.hdr r.a r.b r.c r.f2)
  | 0x07 => accept [r.noImx, r.cZero, r.mask 0b0011]
      (.fsqrt r.hdr r.a r.b r.f2)
  | 0x08 => accept [r.noImx, r.mask 0b0100]
      (.fmin r.hdr r.a r.b r.c (r.fb 2))
  | 0x09 => accept [r.noImx, r.mask 0b0100]
      (.fmax r.hdr r.a r.b r.c (r.fb 2))
  | 0x0A => accept [r.noImx, r.mask 0b0111, r.value (r.f3.toNat ≤ 4)]
      (.fcmp r.hdr r.a r.b r.c r.f3)
  | 0x0B => accept [r.noImx, r.mask 0b0011, r.value (r.c.toNat ≤ 9)]
      (.fcvt r.hdr r.a r.b r.c r.f2)
  | 0x0C => accept [r.noImx, r.cZero, r.mask 0b0100]
      (.fclass r.hdr r.a r.b (r.fb 2))
  | 0x0D => accept [r.noImx, r.mask 0b0111, (r.f2 != 3 || r.c == 0, .unusedField)]
      (.fsgn r.hdr r.a r.b r.c r.f2 (r.fb 2))
  | 0x0E => accept [r.noImx, r.cZero, r.mask 0b0011]
      (.frcp r.hdr r.a r.b r.f2)
  | 0x0F => accept [r.noImx, r.cZero, r.mask 0b0011]
      (.frsq r.hdr r.a r.b r.f2)
  | 0x10 => accept [r.noImx, r.cZero, r.mask 0b0011]
      (.fexp2 r.hdr r.a r.b r.f2)
  | 0x11 => accept [r.noImx, r.cZero, r.mask 0b0011]
      (.flog2 r.hdr r.a r.b r.f2)
  | 0x12 => accept [r.noImx, r.cZero, r.mask 0b0011]
      (.ftanh r.hdr r.a r.b r.f2)
  | 0x13 => accept [r.noRgx]
      (.fldi r.s r.a r.immB)
  | 0x14 => accept [r.cLow, r.mask 0b1100]
      (.fld r.hdr r.a r.b (r.cb 0) (r.cb 1) (r.fb 2) (r.fb 3) r.imx)
  | 0x15 => accept [r.cLow, r.mask 0b1100, r.value (!(r.cb 0 && !(r.cb 1)))]
      (.fst r.hdr r.a r.b (r.cb 0) (r.cb 1) (r.fb 2) (r.fb 3) r.imx)
  | _ => .error .major

/-- The entries of page 2: the field table of 18_isa_page2_vector (R293) and the checks of R252. -/
def decodePage2 (r : Raw) : Except Reject Instr :=
  match r.major with
  | 0x01 => accept [r.noRgx, r.noImx]
      (.vadd r.s r.a r.b)
  | 0x02 => accept [r.noRgx, r.noImx]
      (.vsub r.s r.a r.b)
  | 0x03 => accept [r.noRgx, r.noImx]
      (.vmul r.s r.a r.b)
  | 0x04 => accept [r.noRgx, r.noImx]
      (.vfma r.s r.a r.b)
  | 0x05 => accept [r.noRgx, r.noImx]
      (.vmax r.s r.a r.b)
  | 0x06 => accept [r.noRgx, r.noImx]
      (.vmin r.s r.a r.b)
  | 0x07 => accept [r.noRgx, r.noImx]
      (.vscl r.s r.a r.b)
  | 0x08 => accept [r.noRgx, r.noImx]
      (.vcvt r.s r.a r.b)
  | 0x09 => accept [r.noRgx, r.noImx]
      (.vexp2 r.s r.a r.b)
  | 0x0A => accept [r.noRgx, r.noImx]
      (.vtanh r.s r.a r.b)
  | 0x0B => accept [r.noRgx, r.noImx]
      (.vrsum r.s r.a r.b)
  | 0x0C => accept [r.noRgx, r.noImx]
      (.vrmax r.s r.a r.b)
  | 0x0D => accept [r.noRgx, r.noImx]
      (.vcmp r.s r.a r.b)
  | 0x0E => accept [r.noRgx, r.noImx]
      (.vsel r.s r.a r.b)
  | 0x0F => accept [r.noRgx, r.noImx]
      (.vcopy r.s r.a r.b)
  | 0x10 => accept [r.noRgx, r.noImx]
      (.vgath r.s r.a r.b)
  | 0x11 => accept [r.noRgx, r.noImx]
      (.vscat r.s r.a r.b)
  | 0x12 => accept [r.noRgx, r.noImx]
      (.vtran r.s r.a r.b)
  | 0x13 => accept [r.noRgx, r.noImx, r.bZero]
      (.vfence r.s r.a)
  | _ => .error .major

/-- The entries of page 3: the field table of 19_isa_page3_tensor (R313, R314) and the checks of R252. -/
def decodePage3 (r : Raw) : Except Reject Instr :=
  match r.major with
  | 0x01 => accept [r.kselOk, r.mask 0b0111, r.pairRange, r.value (r.f3 != 1)]
      (.mmI8P r.hdr r.a r.b r.c r.f3 r.ksel)
  | 0x02 => accept [r.kselOk, r.mask 0b0111, r.pairRange, r.value (r.f3 != 1)]
      (.mmI4P r.hdr r.a r.b r.c r.f3 r.ksel)
  | 0x03 => accept [r.kselOk, r.mask 0b0111, r.pairRange, r.value (r.f3 == 0)]
      (.mmBFB r.hdr r.a r.b r.c r.f3 r.ksel)
  | 0x04 => accept [r.kselOk, r.mask 0b0111, r.pairRange, r.value (r.f3 != 1)]
      (.mmBFP r.hdr r.a r.b r.c r.f3 r.ksel)
  | 0x05 => accept [r.noImx, r.cZero, r.bZero, r.mask 0b0001, (!(r.fb 0) || r.a == 0, .unusedField)]
      (.msetx r.hdr r.a (r.fb 0))
  | 0x06 => accept [r.noRgx, r.noImx, r.bZero]
      (.msetc r.s r.a)
  | 0x07 => accept [r.noRgx, r.noImx, r.aZero, r.bZero]
      (.mzero r.s)
  | 0x08 => accept [r.noRgx, r.noImx, (r.a.toNat ≤ 3, .registerRange)]
      (.mskip r.s (r.a.extractLsb' 0 2) r.b)
  | 0x09 => accept [r.noRgx, r.noImx]
      (.moutl r.s r.a r.b)
  | 0x0A => accept [r.noImx, r.cZero, r.aZero, r.bZero, r.mask 0b0001]
      (.mcks r.hdr (r.fb 0))
  | 0x0B => accept [r.noRgx, r.noImx, r.bZero]
      (.mchk r.s r.a)
  | 0x0C => accept [r.noImx, r.cZero, r.mask 0b0011]
      (.mrel r.hdr r.a r.b (r.fb 0) (r.fb 1))
  | 0x0D => accept [r.noRgx, r.noImx, r.aZero, r.bZero]
      (.mwait r.s)
  | _ => .error .major

/-- The entries of page 4: the field table of 20_isa_page4_channels (R330) and the checks of R252. -/
def decodePage4 (r : Raw) : Except Reject Instr :=
  match r.major with
  | 0x01 => accept [r.noRgx, r.noImx, r.qaOk]
      (.qbind r.s r.qa r.b)
  | 0x02 => accept [r.noRgx, r.noImx, r.bZero, r.qaOk]
      (.qunb r.s r.qa)
  | 0x03 => accept [r.srcOk, r.mask 0, r.qbOk]
      (.qgrant r.hdr r.a r.qb r.src)
  | 0x04 => accept [r.noRgx, r.noImx]
      (.qalt r.s r.a r.b)
  | 0x05 => accept [r.noRgx, r.noImx, r.qbOk]
      (.qstat r.s r.a r.qb)
  | 0x06 => accept [r.noRgx, r.noImx]
      (.cpy r.s r.a r.b)
  | 0x07 => accept [r.noImx, r.cZero, r.mask 0b0011]
      (.inb r.hdr r.a r.b (r.fb 0) (r.fb 1))
  | 0x08 => accept [r.noRgx, r.noImx]
      (.putsg r.s r.a r.b)
  | 0x09 => accept [r.noRgx, r.noImx]
      (.getr r.s r.a r.b)
  | 0x0A => accept [r.noRgx, r.noImx, r.bZero]
      (.jig r.s r.a)
  | 0x0B => accept [r.noImx, r.needRgx, r.mask 0]
      (.recast r.s r.a r.b r.c)
  | 0x0C => accept [r.noRgx, r.noImx, r.bZero]
      (.role r.s r.a)
  | 0x0D => accept [r.noRgx, r.noImx]
      (.dgst r.s r.a r.b)
  | 0x0E => accept [r.noImx, r.needRgx, r.mask 0]
      (.dgx r.s r.a r.b r.c)
  | _ => .error .major

/-- The entries of page 5: the field table of 21_isa_page5_sync (R348) and the checks of R252. -/
def decodePage5 (r : Raw) : Except Reject Instr :=
  match r.major with
  | 0x01 => accept [r.noImx, r.cZero, r.mask 0b0111]
      (.lrw r.hdr r.a r.b r.f3)
  | 0x02 => accept [r.noImx, r.mask 0]
      (.sch r.hdr r.a r.b r.c)
  | 0x03 => accept [r.noRgx, r.noImx]
      (.rls r.s r.a r.b)
  | 0x04 => accept [r.noImx, r.value (r.form.toNat ≤ 8)]
      (.amo r.hdr r.a r.b r.c r.form)
  | 0x05 => accept [r.noImx, r.mask 0]
      (.cas r.hdr r.a r.b r.c)
  | 0x06 => accept [r.noImx, r.mask 0b0011, r.value (r.f2 != 3)]
      (.famo r.hdr r.a r.b r.c r.f2)
  | 0x07 => accept [r.noImx, r.aZero, r.value (r.form.toNat ≤ 8)]
      (.red r.hdr r.b r.c r.form)
  | 0x08 => accept [r.noImx, r.aZero, r.mask 0b0011, r.value (r.f2 != 3)]
      (.fred r.hdr r.b r.c r.f2)
  | 0x09 => accept [r.noRgx, r.noImx]
      (.barr r.s r.a r.b)
  | 0x0A => accept [r.noRgx, r.noImx]
      (.bara r.s r.a r.b)
  | 0x0B => accept [r.noImx, r.mask 0]
      (.barw r.hdr r.a r.b r.c)
  | 0x0C => accept [r.noImx, r.mask 0b0011, r.value (r.f2 != 3)]
      (.symg r.hdr r.a r.b r.c r.f2)
  | 0x0D => accept [r.noImx, r.cZero, r.mask 0b0111]
      (.prom r.hdr r.a r.b r.f3)
  | 0x0E => accept [r.noRgx, r.noImx]
      (.fulf r.s r.a r.b)
  | 0x0F => accept [r.noRgx, r.noImx]
      (.pwait r.s r.a r.b)
  | 0x10 => accept [r.noImx, r.mask 0]
      (.heir r.hdr r.a r.b r.c)
  | 0x11 => accept [r.noImx, r.mask 0b0001]
      (.estq r.hdr r.a r.b r.c (r.fb 0))
  | 0x12 => accept [r.noImx, r.mask 0]
      (.capgv r.hdr r.a r.b r.c)
  | 0x13 => accept [r.noRgx, r.noImx]
      (.captk r.s r.a r.b)
  | 0x14 => accept [r.noRgx, r.noImx]
      (.capq r.s r.a r.b)
  | _ => .error .major

/-- The entries of page 6: the field table of 22_isa_page6_system (R370) and the checks of R252. -/
def decodePage6 (r : Raw) : Except Reject Instr :=
  match r.major with
  | 0x01 => accept [r.noImx, r.mask 0]
      (.fork r.hdr r.a r.b r.c)
  | 0x02 => accept [r.noImx, r.mask 0]
      (.join r.hdr r.a r.b r.c)
  | 0x03 => accept [r.noRgx, r.noImx]
      (.launch r.s r.a r.b)
  | 0x04 => accept [r.noRgx, r.noImx]
      (.idr r.s r.a r.b)
  | 0x05 => accept [r.noRgx, r.aZero]
      (.plive r.s r.immB)
  | 0x06 => accept [r.noRgx, r.aZero]
      (.trap r.s r.immB)
  | 0x07 => accept [r.noRgx, r.noImx, r.aZero, r.bZero]
      (.xret r.s)
  | 0x08 => accept [r.cZero, r.mask 0b0011, r.value (r.f2 != 3)]
      (.asel r.hdr r.a r.f2 r.immB)
  | 0x09 => accept [r.mask 0b0001]
      (.abr r.hdr r.a r.c (r.fb 0) r.immB)
  | 0x0A => accept [r.noRgx]
      (.arec r.s r.a r.immB)
  | 0x0B => accept [r.noImx, r.mask 0]
      (.apf r.hdr r.a r.b r.c)
  | 0x0C => accept [r.noImx, r.cZero, r.mask 0b0001]
      (.cntr r.hdr r.a r.b (r.fb 0))
  | 0x0D => accept [r.noImx, r.mask 0]
      (.tctl r.hdr r.a r.b r.c)
  | 0x0E => accept [r.noImx, r.cZero, r.bZero, r.mask 0b0001]
      (.finj r.hdr r.a (r.fb 0))
  | _ => .error .major
/-- R258: the entry of a page and major. -/
def decodeRaw (r : Raw) : Except Reject Instr :=
  match r.page with
  | 0 => decodePage0 r
  | 1 => decodePage1 r
  | 2 => decodePage2 r
  | 3 => decodePage3 r
  | 4 => decodePage4 r
  | 5 => decodePage5 r
  | 6 => decodePage6 r
  | _ => .error .prefixOrder

/-- The instruction at the head of a list of words (R251, R252). -/
def decode (ws : List Half) : Except Reject Instr :=
  match parse ws with
  | .ok r => decodeRaw r
  | .error e => .error e

/-- The words of a list of bytes, low byte first (R2). -/
def halves : List Byte → List Half
  | lo :: hi :: bs => (hi ++ lo) :: halves bs
  | _ => []

/-- The bytes of words in memory order (R2). -/
def halfBytes : List Half → List Byte
  | [] => []
  | w :: ws => w.extractLsb' 0 8 :: w.extractLsb' 8 8 :: halfBytes ws

/-- Decoding of bytes as memory holds them. -/
def decodeBytes (bs : List Byte) : Except Reject Instr := decode (halves bs)

-- the encoder, from the same tables

/-- R249: a prefix word from p[10], p[9] and p[8:0]. -/
def prefixWord (p10 p9 : Bool) (p : BitVec 9) : Half :=
  (BitVec.ofBool p10 ++ (31#5 ++ (BitVec.ofBool p9 ++ p)) : BitVec (1 + (5 + (1 + 9))))

/-- R6, R248: a base word. -/
def baseWord (s : Bool) (major : BitVec 5) (a b : Reg) : Half :=
  (BitVec.ofBool s ++ (major ++ (a ++ b)) : BitVec (1 + (5 + (5 + 5))))

def Src.c : Src → Reg
  | .reg c => c
  | .imm _ => 0
def Src.ws : Src → Imx
  | .reg _ => []
  | .imm ws => ws
def cBits (b0 b1 : Bool) : Reg := (0#3 ++ (BitVec.ofBool b1 ++ BitVec.ofBool b0) : BitVec (3 + (1 + 1)))
def q5 (q : BitVec 4) : Reg := (0#1 ++ q : BitVec (1 + 4))
def kWords : Option (BitVec 2) → Imx
  | none => []
  | some k => [(0#7 ++ k : BitVec (7 + 2))]

/-- The words of a chain, PGX, RGX, IMX and base in that order (R250). -/
def Raw.words (r : Raw) : List Half :=
  (if r.page = 0 then [] else [prefixWord true false (BitVec.ofNat 9 r.page)])
  ++ (if r.rg then [prefixWord false true (r.c ++ r.form : BitVec (5 + 4))] else [])
  ++ r.imx.map (prefixWord false false)
  ++ [baseWord r.s (BitVec.ofNat 5 r.major) r.a r.b]

/-- R252: the number of words of an instruction. -/
def Raw.len (r : Raw) : Nat :=
  (if r.page = 0 then 0 else 1) + (if r.rg then 1 else 0) + r.imx.length + 1

/-- The fields an instruction is written with; an event step has no words. -/
def Instr.raw : Instr → Option Raw
  | .mov h a b sz z => some ⟨0, 0x01, h.s, h.rgx, 0, (0#1 ++ BitVec.ofBool z ++ sz : BitVec 4), a, b, []⟩
  | .add h a b y w => some ⟨0, 0x02, h.s, h.rgx, y.c, (0#3 ++ BitVec.ofBool w : BitVec 4), a, b, y.ws⟩
  | .sub h a b y w => some ⟨0, 0x03, h.s, h.rgx, y.c, (0#3 ++ BitVec.ofBool w : BitVec 4), a, b, y.ws⟩
  | .mul h a b y w => some ⟨0, 0x04, h.s, h.rgx, y.c, (0#3 ++ BitVec.ofBool w : BitVec 4), a, b, y.ws⟩
  | .mulh h a b y w => some ⟨0, 0x05, h.s, h.rgx, y.c, (0#3 ++ BitVec.ofBool w : BitVec 4), a, b, y.ws⟩
  | .div h a b y u w => some ⟨0, 0x06, h.s, h.rgx, y.c, (0#2 ++ BitVec.ofBool w ++ BitVec.ofBool u : BitVec 4), a, b, y.ws⟩
  | .rem h a b y u w => some ⟨0, 0x07, h.s, h.rgx, y.c, (0#2 ++ BitVec.ofBool w ++ BitVec.ofBool u : BitVec 4), a, b, y.ws⟩
  | .and h a b y => some ⟨0, 0x08, h.s, h.rgx, y.c, 0, a, b, y.ws⟩
  | .or h a b y => some ⟨0, 0x09, h.s, h.rgx, y.c, 0, a, b, y.ws⟩
  | .xor h a b y => some ⟨0, 0x0A, h.s, h.rgx, y.c, 0, a, b, y.ws⟩
  | .shl h a b y w => some ⟨0, 0x0B, h.s, h.rgx, y.c, (0#3 ++ BitVec.ofBool w : BitVec 4), a, b, y.ws⟩
  | .shr h a b y u w => some ⟨0, 0x0C, h.s, h.rgx, y.c, (0#2 ++ BitVec.ofBool w ++ BitVec.ofBool u : BitVec 4), a, b, y.ws⟩
  | .set h a b y cond => some ⟨0, 0x0D, h.s, h.rgx, y.c, (0#1 ++ cond : BitVec 4), a, b, y.ws⟩
  | .minmax h a b y u w => some ⟨0, 0x0E, h.s, h.rgx, y.c, (0#2 ++ BitVec.ofBool w ++ BitVec.ofBool u : BitVec 4), a, b, y.ws⟩
  | .bfx h a b y sx ins => some ⟨0, 0x0F, h.s, h.rgx, y.c, (0#2 ++ BitVec.ofBool ins ++ BitVec.ofBool sx : BitVec 4), a, b, y.ws⟩
  | .cnt h a b op w => some ⟨0, 0x10, h.s, h.rgx, 0, (0#1 ++ BitVec.ofBool w ++ op : BitVec 4), a, b, []⟩
  | .ldi s a i => some ⟨0, 0x11, s, false, 0, 0, a, i.lo, i.hi⟩
  | .ld h a b w c sz z rc ws => some ⟨0, 0x12, h.s, h.rgx, cBits w c, (BitVec.ofBool rc ++ BitVec.ofBool z ++ sz : BitVec 4), a, b, ws⟩
  | .st h a b w f sz rc ws => some ⟨0, 0x13, h.s, h.rgx, cBits w f, (BitVec.ofBool rc ++ 0#1 ++ sz : BitVec 4), a, b, ws⟩
  | .addr h a b rc ws => some ⟨0, 0x14, h.s, h.rgx, 0, (BitVec.ofBool rc ++ 0#3 : BitVec 4), a, b, ws⟩
  | .br s i => some ⟨0, 0x15, s, false, 0, 0, 0, i.lo, i.hi⟩
  | .bz h a cond i => some ⟨0, 0x16, h.s, h.rgx, 0, (0#2 ++ cond : BitVec 4), a, i.lo, i.hi⟩
  | .jal s a i => some ⟨0, 0x17, s, false, 0, 0, a, i.lo, i.hi⟩
  | .jr s a b => some ⟨0, 0x18, s, false, 0, 0, a, b, []⟩
  | .loop s a i => some ⟨0, 0x19, s, false, 0, 0, a, i.lo, i.hi⟩
  | .srd s a i => some ⟨0, 0x1A, s, false, 0, 0, a, i.lo, i.hi⟩
  | .swr s a i => some ⟨0, 0x1B, s, false, 0, 0, a, i.lo, i.hi⟩
  | .qop h a q pop => some ⟨0, 0x1C, h.s, h.rgx, 0, (0#3 ++ BitVec.ofBool pop : BitVec 4), a, q5 q, []⟩
  | .fence h sc kind => some ⟨0, 0x1D, h.s, h.rgx, 0, (0#2 ++ kind : BitVec 4), 0, (0#2 ++ sc : BitVec 5), []⟩
  | .nop s => some ⟨0, 0x1E, s, false, 0, 0, 0, 0, []⟩
  | .tend s => some ⟨0, 0x1E, s, false, 0, 0, 0, 1, []⟩
  | .chunk s => some ⟨0, 0x1E, s, false, 0, 0, 0, 2, []⟩
  | .brk s => some ⟨0, 0x1E, s, false, 0, 0, 0, 3, []⟩
  | .fmov h a b dir => some ⟨1, 0x01, h.s, h.rgx, 0, (0#2 ++ dir : BitVec 4), a, b, []⟩
  | .fadd h a b c bf rm => some ⟨1, 0x02, h.s, h.rgx, c, (0#1 ++ BitVec.ofBool bf ++ rm : BitVec 4), a, b, []⟩
  | .fsub h a b c bf rm => some ⟨1, 0x03, h.s, h.rgx, c, (0#1 ++ BitVec.ofBool bf ++ rm : BitVec 4), a, b, []⟩
  | .fmul h a b c bf rm => some ⟨1, 0x04, h.s, h.rgx, c, (0#1 ++ BitVec.ofBool bf ++ rm : BitVec 4), a, b, []⟩
  | .fma s a b c neg bf rm => some ⟨1, 0x05, s, true, c, (BitVec.ofBool neg ++ BitVec.ofBool bf ++ rm : BitVec 4), a, b, []⟩
  | .fdiv h a b c rm => some ⟨1, 0x06, h.s, h.rgx, c, (0#2 ++ rm : BitVec 4), a, b, []⟩
  | .fsqrt h a b rm => some ⟨1, 0x07, h.s, h.rgx, 0, (0#2 ++ rm : BitVec 4), a, b, []⟩
  | .fmin h a b c bf => some ⟨1, 0x08, h.s, h.rgx, c, (0#1 ++ BitVec.ofBool bf ++ 0#2 : BitVec 4), a, b, []⟩
  | .fmax h a b c bf => some ⟨1, 0x09, h.s, h.rgx, c, (0#1 ++ BitVec.ofBool bf ++ 0#2 : BitVec 4), a, b, []⟩
  | .fcmp h a b c cond => some ⟨1, 0x0A, h.s, h.rgx, c, (0#1 ++ cond : BitVec 4), a, b, []⟩
  | .fcvt h a b code rm => some ⟨1, 0x0B, h.s, h.rgx, code, (0#2 ++ rm : BitVec 4), a, b, []⟩
  | .fclass h a b bf => some ⟨1, 0x0C, h.s, h.rgx, 0, (0#1 ++ BitVec.ofBool bf ++ 0#2 : BitVec 4), a, b, []⟩
  | .fsgn h a b c op bf => some ⟨1, 0x0D, h.s, h.rgx, c, (0#1 ++ BitVec.ofBool bf ++ op : BitVec 4), a, b, []⟩
  | .frcp h a b rm => some ⟨1, 0x0E, h.s, h.rgx, 0, (0#2 ++ rm : BitVec 4), a, b, []⟩
  | .frsq h a b rm => some ⟨1, 0x0F, h.s, h.rgx, 0, (0#2 ++ rm : BitVec 4), a, b, []⟩
  | .fexp2 h a b rm => some ⟨1, 0x10, h.s, h.rgx, 0, (0#2 ++ rm : BitVec 4), a, b, []⟩
  | .flog2 h a b rm => some ⟨1, 0x11, h.s, h.rgx, 0, (0#2 ++ rm : BitVec 4), a, b, []⟩
  | .ftanh h a b rm => some ⟨1, 0x12, h.s, h.rgx, 0, (0#2 ++ rm : BitVec 4), a, b, []⟩
  | .fldi s a i => some ⟨1, 0x13, s, false, 0, 0, a, i.lo, i.hi⟩
  | .fld h a b w c bf rc ws => some ⟨1, 0x14, h.s, h.rgx, cBits w c, (BitVec.ofBool rc ++ BitVec.ofBool bf ++ 0#2 : BitVec 4), a, b, ws⟩
  | .fst h a b w f bf rc ws => some ⟨1, 0x15, h.s, h.rgx, cBits w f, (BitVec.ofBool rc ++ BitVec.ofBool bf ++ 0#2 : BitVec 4), a, b, ws⟩
  | .vadd s a b => some ⟨2, 0x01, s, false, 0, 0, a, b, []⟩
  | .vsub s a b => some ⟨2, 0x02, s, false, 0, 0, a, b, []⟩
  | .vmul s a b => some ⟨2, 0x03, s, false, 0, 0, a, b, []⟩
  | .vfma s a b => some ⟨2, 0x04, s, false, 0, 0, a, b, []⟩
  | .vmax s a b => some ⟨2, 0x05, s, false, 0, 0, a, b, []⟩
  | .vmin s a b => some ⟨2, 0x06, s, false, 0, 0, a, b, []⟩
  | .vscl s a b => some ⟨2, 0x07, s, false, 0, 0, a, b, []⟩
  | .vcvt s a b => some ⟨2, 0x08, s, false, 0, 0, a, b, []⟩
  | .vexp2 s a b => some ⟨2, 0x09, s, false, 0, 0, a, b, []⟩
  | .vtanh s a b => some ⟨2, 0x0A, s, false, 0, 0, a, b, []⟩
  | .vrsum s a b => some ⟨2, 0x0B, s, false, 0, 0, a, b, []⟩
  | .vrmax s a b => some ⟨2, 0x0C, s, false, 0, 0, a, b, []⟩
  | .vcmp s a b => some ⟨2, 0x0D, s, false, 0, 0, a, b, []⟩
  | .vsel s a b => some ⟨2, 0x0E, s, false, 0, 0, a, b, []⟩
  | .vcopy s a b => some ⟨2, 0x0F, s, false, 0, 0, a, b, []⟩
  | .vgath s a b => some ⟨2, 0x10, s, false, 0, 0, a, b, []⟩
  | .vscat s a b => some ⟨2, 0x11, s, false, 0, 0, a, b, []⟩
  | .vtran s a b => some ⟨2, 0x12, s, false, 0, 0, a, b, []⟩
  | .vfence s a => some ⟨2, 0x13, s, false, 0, 0, a, 0, []⟩
  | .mmI8P h a b c pl k => some ⟨3, 0x01, h.s, h.rgx, c, (0#1 ++ pl : BitVec 4), a, b, kWords k⟩
  | .mmI4P h a b c pl k => some ⟨3, 0x02, h.s, h.rgx, c, (0#1 ++ pl : BitVec 4), a, b, kWords k⟩
  | .mmBFB h a b c pl k => some ⟨3, 0x03, h.s, h.rgx, c, (0#1 ++ pl : BitVec 4), a, b, kWords k⟩
  | .mmBFP h a b c pl k => some ⟨3, 0x04, h.s, h.rgx, c, (0#1 ++ pl : BitVec 4), a, b, kWords k⟩
  | .msetx h a id => some ⟨3, 0x05, h.s, h.rgx, 0, (0#3 ++ BitVec.ofBool id : BitVec 4), a, 0, []⟩
  | .msetc s a => some ⟨3, 0x06, s, false, 0, 0, a, 0, []⟩
  | .mzero s => some ⟨3, 0x07, s, false, 0, 0, 0, 0, []⟩
  | .mskip s k b => some ⟨3, 0x08, s, false, 0, 0, (0#3 ++ k : BitVec 5), b, []⟩
  | .moutl s a b => some ⟨3, 0x09, s, false, 0, 0, a, b, []⟩
  | .mcks h off => some ⟨3, 0x0A, h.s, h.rgx, 0, (0#3 ++ BitVec.ofBool off : BitVec 4), 0, 0, []⟩
  | .mchk s a => some ⟨3, 0x0B, s, false, 0, 0, a, 0, []⟩
  | .mrel h a b bf zr => some ⟨3, 0x0C, h.s, h.rgx, 0, (0#2 ++ BitVec.ofBool zr ++ BitVec.ofBool bf : BitVec 4), a, b, []⟩
  | .mwait s => some ⟨3, 0x0D, s, false, 0, 0, 0, 0, []⟩
  | .qbind s q b => some ⟨4, 0x01, s, false, 0, 0, q5 q, b, []⟩
  | .qunb s q => some ⟨4, 0x02, s, false, 0, 0, q5 q, 0, []⟩
  | .qgrant h a q y => some ⟨4, 0x03, h.s, h.rgx, y.c, 0, a, q5 q, y.ws⟩
  | .qalt s a b => some ⟨4, 0x04, s, false, 0, 0, a, b, []⟩
  | .qstat s a q => some ⟨4, 0x05, s, false, 0, 0, a, q5 q, []⟩
  | .cpy s a b => some ⟨4, 0x06, s, false, 0, 0, a, b, []⟩
  | .inb h a b m nb => some ⟨4, 0x07, h.s, h.rgx, 0, (0#2 ++ BitVec.ofBool nb ++ BitVec.ofBool m : BitVec 4), a, b, []⟩
  | .putsg s a b => some ⟨4, 0x08, s, false, 0, 0, a, b, []⟩
  | .getr s a b => some ⟨4, 0x09, s, false, 0, 0, a, b, []⟩
  | .jig s a => some ⟨4, 0x0A, s, false, 0, 0, a, 0, []⟩
  | .recast s a b c => some ⟨4, 0x0B, s, true, c, 0, a, b, []⟩
  | .role s a => some ⟨4, 0x0C, s, false, 0, 0, a, 0, []⟩
  | .dgst s a b => some ⟨4, 0x0D, s, false, 0, 0, a, b, []⟩
  | .dgx s a b c => some ⟨4, 0x0E, s, true, c, 0, a, b, []⟩
  | .lrw h a b lvl => some ⟨5, 0x01, h.s, h.rgx, 0, (0#1 ++ lvl : BitVec 4), a, b, []⟩
  | .sch h a b c => some ⟨5, 0x02, h.s, h.rgx, c, 0, a, b, []⟩
  | .rls s a b => some ⟨5, 0x03, s, false, 0, 0, a, b, []⟩
  | .amo h a b c op => some ⟨5, 0x04, h.s, h.rgx, c, op, a, b, []⟩
  | .cas h a b c => some ⟨5, 0x05, h.s, h.rgx, c, 0, a, b, []⟩
  | .famo h a b c fop => some ⟨5, 0x06, h.s, h.rgx, c, (0#2 ++ fop : BitVec 4), a, b, []⟩
  | .red h b c op => some ⟨5, 0x07, h.s, h.rgx, c, op, 0, b, []⟩
  | .fred h b c fop => some ⟨5, 0x08, h.s, h.rgx, c, (0#2 ++ fop : BitVec 4), 0, b, []⟩
  | .barr s a b => some ⟨5, 0x09, s, false, 0, 0, a, b, []⟩
  | .bara s a b => some ⟨5, 0x0A, s, false, 0, 0, a, b, []⟩
  | .barw h a b c => some ⟨5, 0x0B, h.s, h.rgx, c, 0, a, b, []⟩
  | .symg h a b c mode => some ⟨5, 0x0C, h.s, h.rgx, c, (0#2 ++ mode : BitVec 4), a, b, []⟩
  | .prom h a b lvl => some ⟨5, 0x0D, h.s, h.rgx, 0, (0#1 ++ lvl : BitVec 4), a, b, []⟩
  | .fulf s a b => some ⟨5, 0x0E, s, false, 0, 0, a, b, []⟩
  | .pwait s a b => some ⟨5, 0x0F, s, false, 0, 0, a, b, []⟩
  | .heir h a b c => some ⟨5, 0x10, h.s, h.rgx, c, 0, a, b, []⟩
  | .estq h a b c idx => some ⟨5, 0x11, h.s, h.rgx, c, (0#3 ++ BitVec.ofBool idx : BitVec 4), a, b, []⟩
  | .capgv h a b c => some ⟨5, 0x12, h.s, h.rgx, c, 0, a, b, []⟩
  | .captk s a b => some ⟨5, 0x13, s, false, 0, 0, a, b, []⟩
  | .capq s a b => some ⟨5, 0x14, s, false, 0, 0, a, b, []⟩
  | .fork h a b c => some ⟨6, 0x01, h.s, h.rgx, c, 0, a, b, []⟩
  | .join h a b c => some ⟨6, 0x02, h.s, h.rgx, c, 0, a, b, []⟩
  | .launch s a b => some ⟨6, 0x03, s, false, 0, 0, a, b, []⟩
  | .idr s a b => some ⟨6, 0x04, s, false, 0, 0, a, b, []⟩
  | .plive s i => some ⟨6, 0x05, s, false, 0, 0, 0, i.lo, i.hi⟩
  | .trap s i => some ⟨6, 0x06, s, false, 0, 0, 0, i.lo, i.hi⟩
  | .xret s => some ⟨6, 0x07, s, false, 0, 0, 0, 0, []⟩
  | .asel h a adv i => some ⟨6, 0x08, h.s, h.rgx, 0, (0#2 ++ adv : BitVec 4), a, i.lo, i.hi⟩
  | .abr h a c nz i => some ⟨6, 0x09, h.s, h.rgx, c, (0#3 ++ BitVec.ofBool nz : BitVec 4), a, i.lo, i.hi⟩
  | .arec s a i => some ⟨6, 0x0A, s, false, 0, 0, a, i.lo, i.hi⟩
  | .apf h a b c => some ⟨6, 0x0B, h.s, h.rgx, c, 0, a, b, []⟩
  | .cntr h a b clr => some ⟨6, 0x0C, h.s, h.rgx, 0, (0#3 ++ BitVec.ofBool clr : BitVec 4), a, b, []⟩
  | .tctl h a b c => some ⟨6, 0x0D, h.s, h.rgx, c, 0, a, b, []⟩
  | .finj h a reg => some ⟨6, 0x0E, h.s, h.rgx, 0, (0#3 ++ BitVec.ofBool reg : BitVec 4), a, 0, []⟩
  | _ => none

/-- The words of an instruction (none for an event step). -/
def encode (i : Instr) : List Half := (i.raw.map Raw.words).getD []

/-- The instruction's length L in words (R251). -/
def Instr.len (i : Instr) : Nat := (i.raw.map Raw.len).getD 0

/-- The first word, zero-extended: XVAL of ILLEGAL and PRIV (R140). -/
def Instr.firstWord (i : Instr) : Word := ((encode i).head?.getD 0).setWidth 64

-- the host's numbering of an opcode-table row

/-- The 16-bit words of a number, `k` of them, the lowest first. -/
def numWords (w : Nat) : Nat → List Half
  | 0 => []
  | k + 1 => BitVec.ofNat 16 w :: numWords (w / 65536) k

/-- R249: the PGX words of the opcode map, 0xFC01 to 0xFC06. -/
def isPageWord (w : Half) : Bool := 0xFC01 ≤ w.toNat && w.toNat ≤ 0xFC06

/-- The words of an opcode-table row in memory order. The table writes the rows of pages 1 to 6 with the PGX word in
the upper half and the base word in the lower one, while an instruction's PGX word lies at the lowest address (R250);
a 32-bit number whose upper half alone is a PGX word is therefore read with its halves exchanged
(notes/assumptions/8.md). Further words are 0. -/
def tableWords (nbits w : Nat) : List Half :=
  let ws := numWords w ((nbits + 15) / 16)
  match ws with
  | [lo, hi] => if isPageWord hi && !isPageWord lo then [hi, lo, 0, 0, 0] else [lo, hi, 0, 0, 0]
  | _ => ws ++ [0, 0, 0, 0]

/-- What the decoder reads from the bytes of an opcode-table row. -/
def decodeTableWord (nbits w : Nat) : Option Instr :=
  (decodeBytes (halfBytes (tableWords nbits w))).toOption

end Sys2Proof
end

