-- ==== Sys2Proof/Config.lean ====
section
/-!
DEFINITION. What an implementation or a published standard fixes and the spec does not restate, and the free values.
Each free value is an opaque constant without a body, so that no proof can see it (notes/assumptions/2.md and 7.md).
-/
namespace Sys2Proof.Config

/-- R71: the readings of the n-th sampling of a start. -/
opaque sensors (start n : Nat) : Sensors

/-- R74: the count of an octet's oscillator in the n-th interval of a start. -/
opaque ageCount (octet start n : Nat) : Nat

/-- R17: the moment at which a die's reference oscillator is released, in nominal cycles from the start. -/
opaque refcRelease (die start : Nat) : Nat

/-- R17: how a die's reference oscillator drifts at a moment, before it is kept within 100 ppm. -/
opaque refcDrift (die now : Nat) : Nat

/-- Whether an SLH-DSA-SHAKE-256s signature of an image verifies (R77). -/
opaque signatureOk (image : List Byte) : Bool

/-- The device secret of R78, fused at manufacture. -/
opaque deviceSecret : BitVec 256

/-- The random value that replaces a tenant key (R78), at the n-th draw. -/
opaque randomKey (n : Nat) : BitVec 256

/-- The rounding of an elementary function where the model's interval arithmetic does not decide it (R198, R290):
function code, operand bits, format code and rounding mode. -/
opaque elementary (fn : Nat) (x : BitVec 32) (fmt rm : Nat) : BitVec 32

/-- The package at the other end of an Edyth port: how system software has cabled the domain (R24, R31). -/
opaque neighbour (port : Nat) : BitVec 8

/-- The cause code of a RESTOREBAD record, which R149 and R160 leave open. -/
opaque restoreBadCause : BitVec 8

/-- The birth value B_n of an octet's ring oscillator at step n, fused at manufacture (R74). -/
opaque birthCount (octet n : Nat) : Nat

/-- The header of a save area as Hoist writes it, byte by byte, at the n-th save (R157): its layout is not given. -/
opaque saveHeader (n off : Nat) : BitVec 8

/-- The identity registers of a supervisor slot that R86 gives no value for, by index and launch order: a supervisor is
no launched task. -/
opaque supervisorId (index order : Nat) : Word

/-- The cause code of the error response to a malformed returning packet, which R30 leaves open. -/
opaque malformedCause : BitVec 8

end Sys2Proof.Config
end

