-- ==== Sys2Proof/Machine/Bits.lean ====
section
/-!
DEFINITION. Tables keyed by numbers, sorted sets of numbers, and the bit-field and byte-order helpers of R2 and R3.
A table is a list of key and value pairs; a sparse collection of the machine (cores, contexts, sync variables) is a
table with a default for every key that it does not list.
-/
namespace Sys2Proof.Machine

/-- A table: keys and values. -/
abbrev Tab (α : Type) := List (Nat × α)

def tfind {α : Type} : Tab α → Nat → Option α
  | [], _ => none
  | (j, v) :: t, k => if j = k then some v else tfind t k

/-- The value at a key, or the default. -/
def tget {α : Type} (t : Tab α) (d : α) (k : Nat) : α := (tfind t k).getD d

def tset {α : Type} : Tab α → Nat → α → Tab α
  | [], k, v => [(k, v)]
  | (j, w) :: t, k, v =>
    if k < j then (k, v) :: (j, w) :: t
    else if j = k then (k, v) :: t
    else (j, w) :: tset t k v

def tdel {α : Type} (t : Tab α) (k : Nat) : Tab α := t.filter (fun e => e.1 != k)

/-- Every value changed by a function of its key. -/
def tmap {α β : Type} (f : Nat → α → β) (t : Tab α) : Tab β := t.map (fun e => (e.1, f e.1 e.2))

/-- A sorted set of numbers. -/
def setInsert : List Nat → Nat → List Nat
  | [], k => [k]
  | j :: t, k => if k < j then k :: j :: t else if j = k then j :: t else j :: setInsert t k

def setErase (s : List Nat) (k : Nat) : List Nat := s.filter (· != k)

def setUnion (s t : List Nat) : List Nat := t.foldl setInsert s

/-- The numbers a, a + 1, …, n of them. -/
def upFrom (a : Nat) : Nat → List Nat
  | 0 => []
  | n + 1 => a :: upFrom (a + 1) n

/-- The element at an index replaced. -/
def listSet {α : Type} : List α → Nat → α → List α
  | [], _, _ => []
  | _ :: t, 0, v => v :: t
  | x :: t, n + 1, v => x :: listSet t n v

/-- An element of a list with a default. -/
def listGet {α : Type} (l : List α) (d : α) (n : Nat) : α := (l[n]?).getD d

/-- R3: bits h down to l of a number. -/
def bits (x h l : Nat) : Nat := (x / 2 ^ l) % 2 ^ (h + 1 - l)

/-- Bits h down to l of a word, as a number. -/
def wbits (x : Word) (h l : Nat) : Nat := bits x.toNat h l

/-- A number as a word (R3: a value keeps its low bits when it is written). -/
def w64 (x : Nat) : Word := BitVec.ofNat 64 x

/-- A signed number as a word. -/
def i64 (x : Int) : Word := BitVec.ofInt 64 x

/-- R3: SEXT of the low `n` bits of a number. -/
def sext (n x : Nat) : Int := if n = 0 then 0 else
  if x % 2 ^ n < 2 ^ (n - 1) then (x % 2 ^ n : Nat) else (x % 2 ^ n : Nat) - (2 ^ n : Nat)

/-- R2: the little-endian number of a list of bytes. -/
def fromBytes : List Byte → Nat
  | [] => 0
  | b :: bs => b.toNat + 256 * fromBytes bs

/-- R2: `n` little-endian bytes of a number. -/
def toBytes (x : Nat) : Nat → List Byte
  | 0 => []
  | n + 1 => BitVec.ofNat 8 x :: toBytes (x / 256) n

/-- The number held by `n` bytes of a record at an offset. -/
def field (r : List Byte) (off n : Nat) : Nat := fromBytes ((r.drop off).take n)

/-- The signed number held by `n` bytes of a record at an offset. -/
def sfield (r : List Byte) (off n : Nat) : Int := sext (8 * n) (field r off n)

/-- A byte of a record. -/
def byteAt (r : List Byte) (off : Nat) : Nat := (listGet r 0 off).toNat

/-- Whether the bytes of a record from an offset are all 0. -/
def zeroBytes (r : List Byte) (off n : Nat) : Bool := ((r.drop off).take n).all (· == 0)

/-- ⌈x / y⌉ (R3). -/
def ceilDiv (x y : Nat) : Nat := (x + y - 1) / y

end Sys2Proof.Machine
end

