-- ==== Sys2Proof/Machine/State.lean ====
section
/-!
DEFINITION. The state of the Mirell 4 as plain data, the reasons of a stop, and the state after reset.
INVENTORY.md lists every field with its rule and reset value. Collections that the spec makes large (4,096 cores, 16
contexts, 262,144 sync variables, 65,536 estate entries per die) are tables that list only what differs from reset.
-/
namespace Sys2Proof.Machine

/-- Memory: address and byte, addresses rising, no entry equal to what an unlisted address reads as (0,
notes/assumptions/3.md). The address is the physical key of Mem.lean. -/
abbrev Memory := List Host.Cell

/-- The causes of R140 by code. -/
inductive Cause where
  | illegal | hazard | align | xlate | space | coord | priv | capfault | waitlimit | qdead | uncorr | mismatch
  | tensor | brk | soft | fenced
  deriving DecidableEq, Repr

/-- What a squash and a trap's undo restore: the registers of a slot (R107, R108, R178, R208, R209). The fields of
XSTAT (R109) stand by name. -/
structure Arch where
  g : Vector Word 32
  f : Vector Single 32
  k : Vector Word 4
  pc : Word
  xcause : Word
  xval : Word
  xpc : Word
  ap : Bool
  sup : Bool
  brv : Bool
  trapped : Bool
  xvec : Word
  xscratch : Word
  fstat : Word
  waitlim : Word
  chunkmax : Word
  cktol : Word
  bereaved : Word
  txm : BitVec 32
  txn : BitVec 32
  txk : BitVec 32
  tc : Word
  deriving DecidableEq, Repr

/-- A queue register (R115, R117, R331): its binding word's fields, allowance, entries (none is the error entry of a
sealed sender, R116), pushes in flight, and DEAD; `gen` tells one binding of a RECV from the next: it is the RECV's own, and
that of a SEND's allowance (R333). -/
structure Binding where
  kind : BitVec 3
  peer : BitVec 12
  pslot : BitVec 3
  pq : BitVec 4
  allow : Nat
  entries : List (Option Word)
  sent : Nat
  dead : Bool
  gen : Nat
  deriving DecidableEq, Repr

/-- The two FIFOs of an engine endpoint (R115): operand words and result words. -/
structure Fifo where
  ops : List Word
  res : List Word
  deriving DecidableEq, Repr

/-- A value on its way to a register (R104): the register's code (R105), the value once it is known, the core cycle it
is due at where the spec states one, the chunk that issued it, the flags it carries into FSTAT, the bereaved mark it
carries (R132), whether it comes from the SFU, and the returning slot of a request that left the package (R38),
the address it reads, the assay slot it reports to (R385) with its issue cycle, its load-value queue entry (R121), and
how the bytes of a remote load become its value: size, zero extension, and the slot's own earlier stores to them
(R174, R176); `src` is the place in the package that it comes from, as State.blocked numbers them (R18, R19), and `pos` the
number of instructions before its own in the chunk. -/
structure Ret where
  reg : BitVec 7
  value : Option Word
  due : Option Nat
  chunk : Option Nat
  flags : Word
  bereaved : Option Word
  marksBrv : Bool
  sfu : Bool
  remote : Option (Nat × Nat)
  addr : Word
  assay : Option (Nat × Nat)
  tag : Option Nat
  size : Nat
  zext : Bool
  own : List (Nat × Byte)
  src : Option Nat
  pos : Nat
  deriving DecidableEq, Repr

/-- An SFU request (R119): operation, destination, operand values, rounding mode, slot, chunk and place in it. -/
structure SfuReq where
  slot : Nat
  op : Nat
  dest : Reg
  x : Single
  y : Single
  rm : BitVec 2
  chunk : Option Nat
  pos : Nat
  dropped : Bool
  deriving DecidableEq, Repr

/-- A push made with allowance (R116). -/
structure Push where
  q : Nat
  target : EndId
  word : Word
  gen : Nat
  deriving DecidableEq, Repr

/-- An addition to an assay slot's counts (R381): image handle, slot index, the two increments. -/
structure AssayAdd where
  handle : Nat
  index : Nat
  inc0 : Nat
  inc1 : Nat
  deriving DecidableEq, Repr

/-- One 8-byte half of an image slot that a merge adds to (R380, R381): the first with C0, the second with C1. -/
structure AssayHalf where
  handle : Nat
  index : Nat
  second : Bool
  inc : Nat
  deriving DecidableEq, Repr

/-- An effect in the store comparator (R122): operation, operands, and whether the trailing thread has matched it. A
plain store carries the bytes that enter the write-collect buffer at the match. `pc` is the leading thread's instruction. -/
structure Effect where
  op : Nat
  args : List Word
  pc : Word
  store : List (Nat × Byte)
  chunk : Nat
  matched : Bool
  deriving DecidableEq, Repr

/-- A place where a chunk is cut if the instruction there turns out to trap (R142, R167, R168): the probe or load that
finds out, and the slot before the instruction: its registers, the chunk's instructions, stores, pushes and assay updates so
far, and what a pair has queued. -/
structure Cut where
  key : Nat
  arch : Arch
  count : Nat
  writes : List (Nat × Byte)
  pushes : Nat
  assay : Nat
  lvqNo : Nat
  cmp : List Effect
  deriving DecidableEq, Repr

/-- A chunk that has not committed (R175 to R179); `serial` marks a one-instruction chunk of a re-run (R179). -/
structure Chunk where
  no : Nat
  saved : Arch
  count : Nat
  limit : Nat
  writes : List (Nat × Byte)
  reads : List Nat
  probes : List Nat
  pushes : List Push
  assay : List AssayAdd
  closed : Bool
  probed : Bool
  serial : Bool
  cuts : List Cut
  deriving DecidableEq, Repr

/-- What a parked slot waits for (R103, R153): the pending registers of the S bit, or the instruction at its PC; the
value of XVAL if WAITLIM ends it, whether WAITLIM applies, the nominal cycles counted, which wait counters it feeds (R386), and
whether a release waits for the writes that it covers (R41, R276). -/
structure Wait where
  regs : Bool
  counted : Bool
  value : Word
  count : Nat
  sfuFull : Bool
  queueFull : Bool
  release : Bool
  deriving DecidableEq, Repr

/-- The answer to a wait that was served in arrival order (R102, R114): a value, an error cause, the bereaved mark it
carries (R132), and whether it acquires at a scope beyond the package's own order (R353). -/
structure Resume where
  value : Word
  err : Option (BitVec 8)
  bereaved : Option Word
  acq : Bool
  deriving DecidableEq, Repr

/-- The checksum state of a slot and of one start of a task in it (R218). -/
structure Check where
  slot : Nat
  life : Nat
  m : Nat
  n : Nat
  base : Nat
  pitch : Nat
  rexp : List Single
  cexp : List Single
  deriving DecidableEq, Repr

/-- The VFENCE summary (R310) with the discard mode of R309. -/
structure VSum where
  flags : BitVec 6
  fault : Bool
  qdead : Bool
  canc : Bool
  discard : Bool
  deriving DecidableEq, Repr

/-- A forked child as its parent knows it (R373), with what it had committed (R191). -/
structure Child where
  path : Word
  done : Bool
  killed : Bool
  g2 : Word
  cover : List Nat
  deriving DecidableEq, Repr

/-- The task that owns a slot (R84, R86, R94): the parts of its launch that the slot uses at every step, and a fork
child's entry and argument (R372). `gen` numbers the level-0 groups of its root (R147), and `life` is a number that no other
start of a task has. -/
structure Task where
  ref : TaskRef
  lead : Nat
  n : Nat
  trailing : Bool
  sup : Bool
  supDie : Nat
  lmb : Nat
  abb : Nat
  wbb : Nat
  cbb : Nat
  handle : Nat
  kcb : Word
  zlive : Int
  maxfork : Nat
  restart : Bool
  nlvl : Nat
  entry : Word
  arg : Word
  gen : Nat
  life : Nat
  deriving DecidableEq, Repr

/-- A load-value queue entry (R121): its number, the chunk it belongs to (none for a synchronising instruction), and the value
and marks once they are known. -/
structure LvqEntry where
  no : Nat
  chunk : Option Nat
  ready : Bool
  value : Word
  flags : Word
  bereaved : Option Word
  brv : Bool
  deriving DecidableEq, Repr

/-- What a slot is doing (R103, R139, R143, R155). -/
inductive Status where
  | unowned | ready | parked | trapping | sealed | halted | stopped | ending
  deriving DecidableEq, Repr

/-- A slot of a core. `removed` are the SFU requests that the trap of a running handler took from the queue, `taken` those
of a trap that waits for its entry, `pulled` those that a pre-emption stop took (R120). `streaks` counts how often in a
row each open chunk has been squashed, with its length then (R179). `cover` are the writes that a release of the slot covers,
`released` those that its releases have covered, and `seen` those that others had released before writing what it has read
(R185, R191). -/
structure Slot where
  status : Status
  task : Option Task
  arch : Arch
  squashes : Word
  mstat : Word
  detlvl : BitVec 2
  q : Vector Binding 16
  fifo : Vector Fifo 4
  ids : Vector Word 21
  counters : Vector Word 8
  returns : List Ret
  removed : List SfuReq
  taken : List SfuReq
  pulled : List SfuReq
  chunks : List Chunk
  chunkNo : Nat
  streaks : Tab (Nat × Nat)
  serial : Nat
  supBefore : Bool
  trap : Option (Cause × Word × Word)
  wait : Option Wait
  resume : Option Resume
  queued : Bool
  sent : Bool
  parity : List Nat
  checkOn : Bool
  outl : Option (Nat × Nat)
  scale : Single × Single
  vsum : VSum
  outstanding : Nat
  unacquired : List Nat
  children : List Child
  cover : List Nat
  released : List Nat
  seen : List Nat
  lvq : List LvqEntry
  lvqNo : Nat
  cmp : List Effect
  issued : Nat
  plive : Option Nat
  deriving DecidableEq, Repr

/-- A task waiting at a core (R87, R91, R147), a child and a restarted task with the generation of its level-0 group. -/
inductive Job where
  | run (first count : Nat)
  | child (path : Word) (pc : Word) (g2 : Word) (ids : List Word) (gen : Nat)
  | again (t : Nat) (gen : Nat)
  deriving DecidableEq, Repr

/-- An inbox entry (R118): the slot it is for, the message, and whether it is the slot's own engine completion. -/
structure InMsg where
  slot : Nat
  msg : Msg
  own : Bool
  deriving DecidableEq, Repr

/-- An arbiter queue of a core (R93, R94). -/
structure ArbQueue where
  number : Nat
  order : Nat
  ctx : Nat
  lslot : Nat
  weight : Nat
  deficit : Nat
  jobs : List Job
  deriving DecidableEq, Repr

/-- An accepted vector command (R294, R312): slot, major, record, scalar, elements written, gathered flags, bytes of a
partial word of each LOC 8 operand, the inputs gathered of a row or block, whether its writes are checked (R172), whether
it is executing or waiting, the cycles that it still takes after the wait (R307), and its result; a status with the command
unfinished marks a stop whose last word has not been pushed, or with 3 a command to be discarded (R309). -/
structure VCmd where
  slot : Nat
  major : Nat
  record : List Byte
  recOff : Nat
  scalar : Word
  done : Nat
  flags : BitVec 6
  parts : List (List Byte)
  acc : List Nat
  checked : Bool
  started : Bool
  waiting : Bool
  left : Nat
  finished : Bool
  status : Nat
  faultAddr : Word
  task : Option TaskRef
  deriving DecidableEq, Repr

/-- An accepted tensor command (R223, R317, R329), with what it took at its acceptance; once it is executed, the writes
that its retirement performs, whether they are on their way, and the checksum state after it (R217, R220). -/
structure TCmd where
  slot : Nat
  major : Nat
  form : BitVec 4
  opA : Nat
  opB : Nat
  scale : Single × Single
  txm : Nat
  txn : Nat
  txk : Nat
  tc : Word
  skip : Option (List (Nat × Nat))
  outl : Option (Nat × Nat)
  act : Bool
  tol : Word
  pushed : Bool
  inject : Option (Nat × Nat × Nat)
  executed : Bool
  flags : Word
  outcome : Option Nat
  writes : List (Nat × Byte)
  landing : Bool
  after : Option Check
  checked : Bool
  task : Option TaskRef
  life : Nat
  deriving DecidableEq, Repr

/-- An accepted copy or GETR (R338 to R342) with its progress: row and byte in it, bytes moved, the reads of another
package whose responses are awaited (package, returning slot, address, bytes) and what has come of them; `puts` are its
writes to another package that are not acknowledged, each with the row, the byte in it and the bytes moved at its unit, `checked` says whether its writes are checked (R172). A status of 2
marks a pushed descriptor that failed a check, or a GETR that found no flow. -/
structure CCmd where
  slot : Nat
  getr : Bool
  desc : Word
  record : List Byte
  tag : Word
  pushed : Bool
  row : Nat
  col : Nat
  moved : Nat
  gets : List (Nat × Nat × Nat × Nat)
  gathered : List (Nat × Byte)
  status : Nat
  cause : BitVec 8
  faultAddr : Word
  finished : Bool
  puts : List (Nat × Nat × Nat × Nat)
  checked : Bool
  task : Option TaskRef
  deriving DecidableEq, Repr

/-- A Jig command (R226, R343), with the tokens done, the histogram and the flags so far, and whether its last writes are
on their way. -/
structure JCmd where
  issuer : SlotId
  off : Nat
  record : List Byte
  pushed : Bool
  bad : Bool
  ctx : Nat
  task : Option TaskRef
  checked : Bool
  tok : Nat
  hist : List Nat
  flags : Nat
  ended : Bool
  deriving DecidableEq, Repr

/-- One task killed by a seal, to be reported (R145, R146, R149), with the groups that its end made exit and their
generations. -/
structure KillNote where
  task : Task
  cause : BitVec 8
  slot : Nat
  causing : Bool
  xpc : Word
  xval : Word
  core : BitVec 12
  refs : List (GroupRef × Nat)
  deriving DecidableEq, Repr

/-- A slot as Hoist saves it (R156, R210, R312, R377). -/
structure SavedSlot where
  slot : Slot
  gmask : Nat
  fmask : Nat
  full : Bool
  deriving DecidableEq, Repr

/-- Who performs a write in units (R187, R189): an engine of a slot, by its kind, or the packets of a flow. -/
inductive WriteOwner where
  | engine (core slot kind : Nat)
  | flow (peer cls : Nat)
  deriving DecidableEq, Repr

/-- A single-copy-atomic unit of a write that is not yet performed at its home (R170, R187, R189); `fill` sets the
granules full (R113), and a `last` unit follows every earlier one of its owner (R50). -/
structure UnitWrite where
  id : Nat
  ctx : Nat
  owner : WriteOwner
  fill : Bool
  last : Bool
  cells : List (Nat × Byte)
  deriving DecidableEq, Repr

/-- A core's saved context (R156 to R158): the header's contents, the written-block map, parked messages, and what the
core itself keeps of the context: its waiting tasks, its seal and its role, the units that suspended vector commands may still
be adding to (R306), and its Jig commands whose pass has not begun (R226). -/
structure Saved where
  slots : List SavedSlot
  inbox : List InMsg
  fullBits : List Nat
  copies : List CCmd
  vecs : List VCmd
  checks : List Check
  preemptdl : Word
  recastwait : Word
  seq : Word
  written : List Nat
  appended : List (Nat × Msg)
  waiting : List ArbQueue
  sealed : Option (BitVec 8)
  role : BitVec 4
  param : BitVec 16
  recast : Bool
  units : List UnitWrite
  jigs : List JCmd
  deriving DecidableEq, Repr

/-- A qualified access at a full/empty granule (R114): the granule's key, the slot, the access's physical
address and size, whether it stores and what, whether it changes the bit (`.c` of a load, `.f` of a store) and whether
it waits for the bit (`.w`). An access that came from another package has its packet, and once it is served its value and
error cause, until the response leaves (notes/assumptions/10.md). -/
structure GranWait where
  key : Nat
  who : SlotId
  addr : Nat
  size : Nat
  write : Bool
  data : Word
  change : Bool
  waits : Bool
  pkt : Option Packet
  result : Option (Nat × BitVec 8)
  deriving DecidableEq, Repr

/-- The home core's copy of an object's holder (R171, R369); an object without one is held by the context root. -/
structure Holder where
  ctx : Nat
  hid : Word
  ref : GroupRef
  offered : Bool
  brv : Bool
  deriving DecidableEq, Repr

/-- A core. `preemptFrom` is the value of NCYC at the last request of a pre-emption (R155), `emptySince` the value of CYC from which every RECV endpoint has been empty, and `recastAt` that of the last
recast decided (R101, R233); `merging` are the halves of a merge that has begun (R381);
`beat` is the nominal cycle from which it may have its next cycle (R9); `niWait` holds the messages that wait at their senders for a shared inbox entry, with the
sender (R118). -/
structure Core where
  cyc : Word
  ncyc : Word
  ncycFrac : BitVec 32
  preemptdl : Word
  recastwait : Word
  preemptFrom : Word
  finj : Word
  finjSeen : Bool
  tenant : BitVec 4
  role : BitVec 4
  param : BitVec 16
  recast : Bool
  emptySince : Nat
  recastAt : Option Nat
  slots : Vector Slot 8
  pageMap : Tab (BitVec 32)
  inbox : List InMsg
  niWait : List (Option SlotId × Dest × Msg)
  sfuQ : List SfuReq
  sfuRun : List (SfuReq × Nat)
  sfuNext : Nat
  tens : List TCmd
  tensBusy : Nat
  checks : List Check
  vec : List VCmd
  vecBusy : Nat
  copy : List CCmd
  early : List (EndId × SlotId × Nat × Nat)
  holders : List Holder
  sealed : Option (BitVec 8)
  kills : List KillNote
  queues : List ArbQueue
  roundDue : Bool
  ended : List Nat
  assay : List AssayAdd
  merging : List AssayHalf
  lastMerge : Nat
  seqs : Tab Word
  saved : Tab Saved
  icache : List Nat
  granQ : List GranWait
  beat : Nat
  deriving DecidableEq, Repr

/-- The hidden state of a lock (R350). -/
inductive LockState where
  | free | held | poisoned
  deriving DecidableEq, Repr

/-- The hidden state of a promise (R350). -/
inductive PromiseState where
  | pending | fulfilled | broken
  deriving DecidableEq, Repr

/-- Who issued a contribution to a REDUCE round (R359): a slot with its destination, or a packet. -/
inductive Issuer where
  | slot (i : SlotId) (dest : Option Reg)
  | packet (p : Packet)
  deriving DecidableEq, Repr

/-- A contribution held in an open REDUCE round (R206, R359). -/
structure Contribution where
  who : Issuer
  key : Nat
  addr : Word
  value : Single
  fop : BitVec 2
  ctx : Nat
  core : Nat
  slot : Nat
  lslot : Nat
  path : Word
  deriving DecidableEq, Repr

/-- The mode of a sync variable with its hidden state (R350). -/
inductive Mode where
  | plain
  | lock (st : LockState) (handed : Bool) (queue : List (SlotId × GroupRef))
  | promise (st : PromiseState)
  | barrier (count arrived : Nat) (phase : BitVec 16) (lvl : Nat) (members : List TaskRef)
      (waiters : List (SlotId × BitVec 16))
  | reduce (count rlim level : Nat) (held : List Contribution) (since : Nat)
  deriving DecidableEq, Repr

/-- An estate entry (R127), with the pending CAPGV target that ESTQ shows (R366); `gen` is the generation of a level-0 group
that holds it (R147). -/
structure Estate where
  hid : Word
  kind : BitVec 2
  brv : Bool
  st : BitVec 3
  heirk : BitVec 2
  depth : BitVec 4
  holder : GroupRef
  heir : GroupRef
  aseq : Word
  offer : Option GroupRef
  gen : Nat
  deriving DecidableEq, Repr

/-- A compute die. `fused` is the map of manufacture behind HMAP (R16, R75), `refcPart` the part of a tick of
REFC in millionths of a nominal cycle (R17), and `wide` says that a die-wide step is under way (R19). `modeBy` names the context that entered a variable's mode (R350). `covers` holds what the last release of a sync variable (or of an estate entry, from 2^30 on) covers,
so that an acquire passes it on (R191). `mail` names the slots of the mail region that hold a message and its task, in arrival
order (R138, R164). `pwait` and `capWait` hold the waiting PWAITs and CAPTKs with their variable or
holding identifier, in arrival order (R102, R364, R368). `kept` lists by context the cores of the die that were retired while
it ran: they are no longer in HMAP, and stay to it what they were (R76). -/
structure Die where
  fused : BitVec 1024
  hmap : BitVec 1024
  kept : List (Nat × Nat)
  fenced : Bool
  heldReset : Bool
  refc : Word
  refcPart : Nat
  wide : Bool
  sync : Tab Mode
  modeBy : Tab Nat
  estates : Tab Estate
  acq : Word
  ovfBase : Nat
  novf : Nat
  nmail : Nat
  mail : List (Nat × TaskRef)
  jig : List JCmd
  covers : Tab (List Nat)
  pwait : List (SlotId × Nat)
  capWait : List (SlotId × Nat)
  deriving DecidableEq, Repr

/-- A V/F island (R9, R18, R74, R23): `relock` is the step under way, with the end of the relock once the clock has stopped;
`temp` the latest hot-spot reading in m°C; `lastStep` the time of the last step of R21 or R23; `measured` the interval of R74
in which it was last measured. -/
structure Island where
  step : Nat
  relock : Option (Nat × Option Nat)
  ceiling : Nat
  hot : Bool
  temp : Nat
  lastStep : Option Nat
  measured : Nat
  deriving DecidableEq, Repr

/-- A host command queue (R57, R58, R62, R94); `run` says that it is configured, and `sent`
is the write to another package that a SIGW waits for (R61). -/
structure Queue where
  tail : BitVec 16
  head : BitVec 16
  run : Bool
  err : Bool
  ecode : BitVec 8
  base : Nat
  size : Nat
  weight : Nat
  level : Nat
  packet : Option (List Byte)
  badTail : Bool
  lastRead : Option Nat
  sent : Option Nat
  deriving DecidableEq, Repr

/-- A fault ring (R149). -/
structure Ring where
  base : Nat
  set : Bool
  prod : BitVec 32
  cons : BitVec 32
  dropped : BitVec 32
  deriving DecidableEq, Repr

/-- A die-bound node as the dealing table records it (R96). -/
structure Dealt where
  level : Nat
  node : Nat
  die : Nat
  finished : Bool
  deriving DecidableEq, Repr

/-- A supervisor slot of a launch on a die (R89, R90). -/
structure Sup where
  place : Option SlotId
  started : Bool
  ended : Bool
  deriving DecidableEq, Repr

/-- What a target package answered to an LNCH (R45, R99). -/
structure Target where
  pkg : Nat
  first : Nat
  count : Nat
  accepted : Option Nat
  cores : Nat
  offers : Nat
  ended : Option (Nat × Bool)
  deriving DecidableEq, Repr

/-- A running launch (R81 to R99, R126). `origin` is the command queue at the head of its chain of launches, `exiting`
holds the groups, with their generations, whose EXIT some die or package has not acknowledged (a package p as 256 + p, and as
512 + p once its notice has been sent), `reported` those that every one has (R131), `acks` the notices of other packages that
are to be acknowledged (R130), and `covers` what the tasks that have ended had committed (R131, R191). `gens` is by root the
generation of its level-0 group, and `former` lists the earlier ones that still live, with how many of their tasks do (R147).
`more` are the ranges that the launching package took on the second offer (R99), and `partOver` says that a target's part has been
reported as ended (notes/assumptions/12.md). -/
structure Launch where
  order : Nat
  record : List Byte
  kcb : List Byte
  roles : List (Nat × Nat × Nat)
  level : Nat
  weight : Nat
  number : Nat
  host : Option (Nat × Nat)
  origin : Option Nat
  remoteFrom : Option (Nat × Nat)
  first : Nat
  count : Nat
  dealt : List Dealt
  live : Tab Nat
  exited : List Nat
  tends : List Nat
  killed : List (Word × Nat × Bool × Job)
  sups : Tab Sup
  targets : List Target
  partialEnd : Bool
  flooded : Bool
  reported : List (GroupRef × Nat)
  exiting : List (GroupRef × Nat × List Nat)
  acks : List (GroupRef × Nat)
  covers : List Nat
  gens : Tab Nat
  former : List (Nat × Nat × Nat)
  more : List (Nat × Nat)
  partOver : Bool
  deriving DecidableEq, Repr

/-- A context (R10 to R14, R56, R108, R126, R143, R149, R151, R155, R163, R192). -/
structure Ctx where
  started : Bool
  flooded : Bool
  floodAt : Nat
  debugArm : Bool
  releaseCheck : Bool
  win : Tab (BitVec 32)
  cte : Tab (BitVec 32)
  hostBase : Nat
  hostLimit : Nat
  reach : BitVec 256
  dctx : BitVec 16
  queues : Tab Queue
  faults : Ring
  launches : Tab Launch
  launchCount : Nat
  key : BitVec 256
  preemptdl : Word
  recastwait : Word
  preempt : Option Nat
  saveOff : Nat
  deriving DecidableEq, Repr

/-- An Edyth port (R24 to R27, R53). `heads` holds by virtual channel when the head of the packet that arrives there came
(R32); `ackOut` is the LSEQ of the last link acknowledgement sent, `nakOut` the one that an open NAK names. -/
structure Port where
  up : Bool
  lanes : Nat
  badLanes : List Nat
  training : Bool
  trainFrom : Nat
  txSeq : BitVec 8
  rxSeq : BitVec 8
  replay : List (BitVec 8 × Flit)
  fails : Nat
  partialIn : List (Nat × List Flit)
  heads : Tab Nat
  ackOut : Option (BitVec 8)
  nakOut : Option (BitVec 8)
  counters : Vector (BitVec 32) 7
  deriving DecidableEq, Repr

/-- A packet held by a flow's source (R34) with the time it was last sent. -/
structure Held where
  p : Packet
  sentAt : Nat
  retired : Bool
  write : Option Nat
  who : Option (SlotId × Nat)
  ctx : Nat
  deriving DecidableEq, Repr

/-- A packet resident at the die (R32): its output port, the arrival of its head flit, and the LSEQ of its tail once its
flits are in the link's replay buffer. -/
structure Transit where
  p : Packet
  port : Nat
  since : Nat
  tail : Option (BitVec 8)
  deriving DecidableEq, Repr

/-- The source state of a flow (R33, R37, R41). -/
structure FlowSrc where
  next : BitVec 24
  floor : BitVec 24
  gen : BitVec 8
  lastAdv : Nat
  noProg : Nat
  rsel : BitVec 3
  held : List Held
  acked : BitVec 24
  failed : Bool
  wanted : Option Nat
  lastSent : Nat
  floorSent : BitVec 24
  stalled : List Held
  deriving DecidableEq, Repr

/-- The receiver state of a flow (R33, R35); `oldest` is when the first of the packets that no ACK has covered came. -/
structure FlowDst where
  rnext : BitVec 24
  rgen : BitVec 8
  above : List Nat
  unacked : Nat
  oldest : Nat
  deriving DecidableEq, Repr

/-- One buffered step of a reduction group (R47 to R51): the own contribution's bytes, its signals and whether it is
complete; by child port the bytes, the flags NV, OF, UF, NX, DG and the name of the first digest that differed (R52); the
time of the first contribution, the context, and whether the partial result has gone up. -/
structure RedStep where
  own : List (Nat × Byte)
  ownSignals : Nat
  ownDone : Bool
  kids : List (Nat × List (Nat × Byte) × BitVec 5 × Nat)
  since : Nat
  started : Bool
  ctx : Nat
  sentUp : Bool
  deriving DecidableEq, Repr

/-- A reduction group (R46) with its two buffered steps. -/
structure Group where
  cfg : BitVec 256
  cur : RedStep
  nxt : RedStep
  deriving DecidableEq, Repr

/-- An open assay image (R69, R394, R395); `refs` lists the context of each reference. -/
structure AssayImage where
  pa : List Nat
  slots : Nat
  skey : Nat
  textd : Nat
  refs : List Nat
  snapshot : List Byte
  deriving DecidableEq, Repr

/-- An event-log entry (R72). -/
structure LogEntry where
  hft : Word
  code : BitVec 16
  die : BitVec 8
  ctx : BitVec 8
  unit : BitVec 32
  data : Nat
  deriving DecidableEq, Repr

/-- A firmware slot (R77). -/
inductive SlotState where
  | active | inactive | pending | invalid
  deriving DecidableEq, Repr

/-- The retry state of one boot step and unit (R80): how it last failed and the READY starts since. -/
structure BootStep where
  normalFailed : Bool
  fallbackFailed : Bool
  readySince : Nat
  deriving DecidableEq, Repr

/-- The answer to a request of the host port or the mailbox: done, refused as BUSY (R77, R78), or bytes read, with their
poison (R55). -/
inductive Reply where
  | ok | busy
  | data (bytes : List Byte) (poison : Bool)
  deriving DecidableEq, Repr

/-- The Headframe (R71 to R80, R20 to R23). `sampled` counts the samplings of a start (R71); `outside` are the limits that the
last one found exceeded, by event and UNIT (R20, R23); a bucket stands with its value and the time of its last leak, and
`fec` counts the corrected symbols of a lane in a second (R75); `booted` is the image slot of the present start (R77),
`readings` are those of the last sampling (R71), `starts` the number of starts, `wantStart` the request of R80, and `cxl` the width of the host link: 0 down, 1 full, 2 ×8 at
32 GT/s (R79). -/
structure Headframe where
  log : List LogEntry
  lost : BitVec 32
  hftBase : Nat
  sampled : Nat
  readings : Option Sensors
  outside : List (Nat × Nat)
  powerCap : Nat
  throttle : Bool
  buckets : List (Bucket × Nat × Nat)
  fec : List (Bucket × Nat × Nat)
  clusterErrors : Tab Nat
  marks : List Mark
  firmware : List (SlotState × Image)
  floor : BitVec 32
  updating : Bool
  booted : Nat
  starts : Nat
  wantStart : Bool
  cxl : Nat
  journal : List (List (Nat × Nat × Nat × Nat))
  boot : List (Nat × Nat × BootStep)
  keyBase : Nat
  deriving DecidableEq, Repr

/-- The writes of a granted commit of core `src` to one home that are not yet written there (R181). -/
structure HomeWrite where
  id : Nat
  ctx : Nat
  src : Nat
  cells : List (Nat × Byte)
  deriving DecidableEq, Repr

/-- On whose behalf an access is made: the context, the issuing core in the form of ID.CORE, the slot, the task as a
record names it, and the task whose writes are checked at level 2 (R172), if they are. -/
structure Agent where
  ctx : Nat
  core : Nat
  slot : Nat
  lslot : Nat
  path : Word
  check : Option (Nat × Nat × Bool × Nat)
  deriving DecidableEq, Repr

/-- A signal of a PUTSG that waits for its data (R42, R186, R341), with what the release covered (R191). -/
structure LateSignal where
  id : Nat
  owner : WriteOwner
  agent : Agent
  sop : Nat
  sig : Nat
  value : Word
  cover : List Nat
  deriving DecidableEq, Repr

/-- A launch record that has come from another package and whose KCB or role table is still being read there (R44): what
has come so far, the addresses that cannot be read, and the reads on their way (returning slot, address, bytes). -/
structure LnchWait where
  pkt : Packet
  ctx : Nat
  got : List (Nat × Byte)
  bad : List Nat
  gets : List (Nat × Nat × Nat)
  deriving DecidableEq, Repr

/-- For whom the Work Distributor reads in other packages (R60, R100, R163): a command queue or a slot's LAUNCH. -/
inductive WdWho where
  | queue (ctx q : Nat)
  | slot (i : SlotId)
  deriving DecidableEq, Repr

/-- What it has read there, the addresses that cannot be read, and the reads on their way (returning slot, address, bytes). -/
structure WdRead where
  who : WdWho
  ctx : Nat
  got : List (Nat × Byte)
  bad : List Nat
  gets : List (Nat × Nat × Nat)
  deriving DecidableEq, Repr

/-- Whose turn it is (notes/assumptions/1.md): an event step or an input, one of those in flight, one cycle of a core, or
one nominal cycle of the outside clock. -/
inductive Turn where
  | event (i : Instr)
  | deliver (index : Nat)
  | cycle (core : Nat)
  | tick
  deriving DecidableEq, Repr

/-- The whole machine. `relAt` lists by 16-byte unit the writes that releases covered whose
issuer wrote there afterwards, which an acquire of a task that has read there takes over (R185, R191); `unitWrites` are units of writes on their way to their homes, and
`signals` those of PUTSGs whose data has not all been performed (R42, R187); `reply` is the latest
answer to the host or the mailbox; `lives` counts the starts of tasks; `arrivals` are the packets that have come whole and have not been handled, with their port and the arrival of their head (R32, R53). -/
structure State where
  agenda : List Turn
  inflight : List Instr
  cur : SlotId
  now : Nat
  fresh : Nat
  halted : Bool
  pkg : BitVec 8
  mem : Memory
  full : List Nat
  homeWrites : List HomeWrite
  unitWrites : List UnitWrite
  signals : List LateSignal
  nextWrite : Nat
  relAt : Tab (List Nat)
  dies : Tab Die
  master : Nat
  electAt : Option Nat
  narrow : List (Nat × Nat)
  islands : Tab Island
  cores : Tab Core
  ctxs : Tab Ctx
  images : Tab AssayImage
  nextHandle : Nat
  lives : Nat
  ports : Tab Port
  routes : Tab (BitVec 4 × Bool)
  flowsOut : Tab FlowSrc
  flowsIn : Tab FlowDst
  respCache : Tab (BitVec 24 × BitVec 2 × Packet)
  retSlots : Tab (List Nat)
  groups : Tab Group
  redto : Nat
  transit : List Transit
  arrivals : List (Packet × Nat × Nat)
  lnchWaits : List LnchWait
  wdReads : List WdRead
  supWaiting : List (Nat × Nat × Nat)
  reply : Option Reply
  tailings : Ring
  hf : Headframe
  deriving DecidableEq, Repr

/-- Why the machine stops. It never does: every error that the spec names is a trap, a seal, a status or a record, and a
halted module (R80) lets time pass. -/
inductive Fault where
  deriving DecidableEq, Repr

/-- Why a meaning is refused. -/
inductive Refusal where
  /-- Raised by an arm of exec for an instruction that has no meaning yet. Safe: nothing is claimed of it. -/
  | notModelled (mnemonic : String)
  deriving DecidableEq, Repr

-- the values at reset

/-- R107, R108, R109, R208, R209: the start values of a slot's registers. -/
def Arch.start : Arch :=
  { g := Vector.replicate 32 0, f := Vector.replicate 32 0, k := Vector.replicate 4 0, pc := 0
    xcause := 0, xval := 0, xpc := 0, ap := false, sup := false, brv := false, trapped := false
    xvec := 0, xscratch := 0, fstat := 0, waitlim := 0x100000000, chunkmax := 256, cktol := 0, bereaved := 0
    txm := 0, txn := 0, txk := 0, tc := 0 }

/-- R107: an unbound queue register. -/
def Binding.unbound : Binding := ⟨0, 0, 0, 0, 0, [], 0, false, 0⟩
def Fifo.empty : Fifo := ⟨[], []⟩
/-- R325: the scale pair at task start is (1.0, 1.0). -/
def oneScale : Single × Single := (0x3F800000, 0x3F800000)
def VSum.clear : VSum := ⟨0, false, false, false, false⟩

def Slot.reset : Slot :=
  { status := .unowned, task := none, arch := Arch.start, squashes := 0, mstat := 0, detlvl := 0
    q := Vector.replicate 16 Binding.unbound, fifo := Vector.replicate 4 Fifo.empty, ids := Vector.replicate 21 0
    counters := Vector.replicate 8 0, returns := [], removed := [], taken := [], pulled := [], chunks := [], chunkNo := 0, streaks := []
    serial := 0, supBefore := false, trap := none, wait := none, resume := none, queued := false, sent := false, parity := []
    checkOn := false, outl := none, scale := oneScale, vsum := VSum.clear, outstanding := 0
    unacquired := [], children := [], cover := [], released := [], seen := [], lvq := [], lvqNo := 0, cmp := [], issued := 0, plive := none }

/-- R108, R101: the reset values of core-scope registers. -/
def Core.reset : Core :=
  { cyc := 0, ncyc := 0, ncycFrac := 0, preemptdl := 65536, recastwait := 64, preemptFrom := 0, finj := 0, finjSeen := false
    tenant := 0, role := 0, param := 0, recast := false, emptySince := 0, recastAt := none, slots := Vector.replicate 8 Slot.reset
    pageMap := [], inbox := [], niWait := [], sfuQ := [], sfuRun := [], sfuNext := 0, tens := [], tensBusy := 0, checks := []
    vec := [], vecBusy := 0, copy := [], early := [], holders := [], sealed := none, kills := [], queues := []
    roundDue := false, ended := [], assay := [], merging := [], lastMerge := 0, seqs := [], saved := [], icache := [], granQ := [], beat := 0 }

/-- A core's save area of a context that has never been saved. -/
def Saved.empty : Saved :=
  { slots := [], inbox := [], fullBits := [], copies := [], vecs := [], checks := [], preemptdl := 0, recastwait := 0
    seq := 0, written := [], appended := [], waiting := [], sealed := none, role := 0, param := 0, recast := false, units := [], jigs := [] }

def Estate.free : Estate := ⟨0, 0, false, 0, 0, 0, 0, 0, 0, none, 0⟩

def Die.reset : Die :=
  { fused := BitVec.allOnes 1024, hmap := BitVec.allOnes 1024, kept := [], fenced := false, heldReset := false, refc := 0, refcPart := 0, wide := false
    sync := [], modeBy := [], estates := [], acq := 0, ovfBase := 0, novf := 0, nmail := 0, mail := [], jig := [], covers := []
    pwait := [], capWait := [] }

def Island.reset : Island := ⟨13, none, 13, false, 0, none, 0⟩
/-- R57: a queue that system software has not configured. -/
def Queue.reset : Queue := ⟨0, 0, false, false, 0, 0, 0, 16, 0, none, false, none, none⟩
def Ring.reset : Ring := ⟨0, false, 0, 0, 0⟩

def Ctx.reset : Ctx :=
  { started := false, flooded := false, floodAt := 0, debugArm := false, releaseCheck := false, win := [], cte := []
    hostBase := 0, hostLimit := 0, reach := 0, dctx := 0, queues := [], faults := Ring.reset, launches := []
    launchCount := 0, key := 0, preemptdl := 65536, recastwait := 64, preempt := none
    saveOff := 0 }

def Port.reset : Port := ⟨false, 8, [], false, 0, 0, 0, [], 0, [], [], none, none, Vector.replicate 7 0⟩
def FlowSrc.reset : FlowSrc := ⟨0, 0, 0, 0, 0, 0, [], 0, false, none, 0, 0, []⟩
def FlowDst.reset : FlowDst := ⟨0, 0, [], 0, 0⟩
def RedStep.empty : RedStep := ⟨[], 0, false, [], 0, false, 0, false⟩
def Group.reset : Group := ⟨0, RedStep.empty, RedStep.empty⟩

/-- R77: neither image slot's content at the first start is given; slot A is taken as active and slot B as inactive
(notes/assumptions/4.md). -/
def Headframe.reset : Headframe :=
  { log := [], lost := 0, hftBase := 0, sampled := 0, readings := none, outside := [], powerCap := 3200, throttle := false, buckets := [], fec := []
    clusterErrors := []
    marks := [], firmware := [(.active, ⟨0, 0, false, []⟩), (.inactive, ⟨0, 0, false, []⟩)]
    floor := 0, updating := false, booted := 0, starts := 0, wantStart := false, cxl := 0, journal := [], boot := [], keyBase := 0 }

/-- The machine right after cold start. -/
def State.reset : State :=
  { agenda := [], inflight := [], cur := ⟨0, 0⟩, now := 0, fresh := 16, halted := false, pkg := 0
    mem := [], full := [], homeWrites := [], unitWrites := [], signals := [], nextWrite := 0, relAt := [], dies := [], master := 0, electAt := none, narrow := []
    islands := [], cores := [], ctxs := [], images := [], nextHandle := 1, lives := 0, ports := [], routes := [], flowsOut := []
    flowsIn := [], respCache := [], retSlots := [], groups := [], redto := 13000000, transit := [], arrivals := [], lnchWaits := [], wdReads := [], supWaiting := [], reply := none
    tailings := Ring.reset, hf := Headframe.reset }

-- the records behind the tables

def State.die (s : State) (d : Nat) : Die := tget s.dies Die.reset d
def State.core (s : State) (c : Nat) : Core := tget s.cores Core.reset c
/-- R78: a context's tenant key after a start is a random value of its own. -/
def State.ctx (s : State) (c : Nat) : Ctx := tget s.ctxs { Ctx.reset with key := Config.randomKey (s.hf.keyBase + c) } c
def State.island (s : State) (i : Nat) : Island := tget s.islands Island.reset i
def State.port (s : State) (p : Nat) : Port := tget s.ports Port.reset p
def State.group (s : State) (g : Nat) : Group := tget s.groups Group.reset g

def State.setDie (s : State) (d : Nat) (v : Die) : State := { s with dies := tset s.dies d v }
def State.setCore (s : State) (c : Nat) (v : Core) : State := { s with cores := tset s.cores c v }
def State.setCtx (s : State) (c : Nat) (v : Ctx) : State := { s with ctxs := tset s.ctxs c v }
def State.setIsland (s : State) (i : Nat) (v : Island) : State := { s with islands := tset s.islands i v }
def State.setPort (s : State) (p : Nat) (v : Port) : State := { s with ports := tset s.ports p v }
def State.setGroup (s : State) (g : Nat) (v : Group) : State := { s with groups := tset s.groups g v }

end Sys2Proof.Machine
end

