-- ==== Sys2Proof/Machine/Mem.lean ====
section
/-!
DEFINITION. Memory as the spec lays it out (R111, R162, R164): one canonical list of bytes under physical keys, the
full/empty bits of LM and AB (R113), and the writes of granted commits that their homes have not received (R181).
-/
namespace Sys2Proof.Machine

/-- R113: what a byte that nothing has written reads as (notes/assumptions/3.md). -/
def unwritten : Byte := 0

/-- The byte at a key. -/
def memGet : Memory → Nat → Byte
  | [], _ => unwritten
  | (b, w) :: t, a => if a < b then unwritten else if a = b then w else memGet t a

/-- A byte written; the list stays rising and lists no unwritten value. -/
def memSet : Memory → Nat → Byte → Memory
  | [], a, v => if v = unwritten then [] else [(a, v)]
  | (b, w) :: t, a, v =>
    if a < b then (if v = unwritten then (b, w) :: t else (a, v) :: (b, w) :: t)
    else if a = b then (if v = unwritten then t else (a, v) :: t)
    else (b, w) :: memSet t a v

/-- The canonical form: keys rising, no entry equal to an unlisted byte. -/
def memWf : Memory → Bool
  | [] => true
  | [(_, v)] => v != unwritten
  | (a, v) :: (b, w) :: t => a < b && v != unwritten && memWf ((b, w) :: t)

def memSetAll (m : Memory) (cells : List (Nat × Byte)) : Memory :=
  cells.foldl (fun m c => memSet m c.1 c.2) m

/-- R162: the space codes. -/
def spBM : Nat := 0
def spLM : Nat := 1
def spAB : Nat := 2
def spWB : Nat := 3
def spCB : Nat := 4
def spSY : Nat := 5
def spHW : Nat := 6
def spCF : Nat := 7

/-- The size of a typed buffer (R111), and the physical size of BM (R8). -/
def bufSize (sp : Nat) : Nat :=
  match sp with
  | 0 => 0x6000000
  | 1 => 0x10000
  | 2 => 0x28000
  | 3 => 0x50000
  | 4 => 0x18000
  | _ => 0

/-- The key of a byte of a core's space, or of an SYE (space 5, with the die in the place of the core). -/
def pa (sp core off : Nat) : Nat := (sp * 4096 + core) * 2 ^ 41 + off
/-- The space of a key inside the package. -/
def paSpace (k : Nat) : Nat := k / 2 ^ 41 / 4096
def paCore (k : Nat) : Nat := k / 2 ^ 41 % 4096
def paOff (k : Nat) : Nat := k % 2 ^ 41
/-- The key of a byte of host memory. -/
def paHost (a : Nat) : Nat := 2 ^ 64 + a
/-- The key under which a chunk keeps a byte of another package, by global address. -/
def paFar (ga : Nat) : Nat := 2 ^ 72 + ga
def isFar (k : Nat) : Bool := 2 ^ 72 ≤ k
def isHost (k : Nat) : Bool := 2 ^ 64 ≤ k && k < 2 ^ 72

/-- The 64-byte line of a key (R177) and its 16-byte granule or unit (R113, R189). -/
def lineOf (k : Nat) : Nat := k / 64
def unitOf (k : Nat) : Nat := k / 16

/-- R113: the granules that carry a full/empty bit lie in LM and AB. -/
def hasFull (k : Nat) : Bool := k < 2 ^ 64 && (paSpace k == spLM || paSpace k == spAB)

/-- The cells of a value of n bytes at a key. -/
def cellsOf (k : Nat) : List Byte → List (Nat × Byte)
  | [] => []
  | b :: bs => (k, b) :: cellsOf (k + 1) bs

/-- R181: a read inside the package sees granted commits that their homes have not received. -/
def overlay (ws : List HomeWrite) (k : Nat) (v : Byte) : Byte :=
  ws.foldl (fun v w => w.cells.foldl (fun v c => if c.1 = k then c.2 else v) v) v

/-- One byte as a read inside the package sees it. -/
def State.byte (s : State) (k : Nat) : Byte := overlay s.homeWrites k (memGet s.mem k)

/-- n bytes from a key. -/
def State.bytes (s : State) (k n : Nat) : List Byte := (upFrom k n).map s.byte

/-- R3: MEM(addr, n) as a number. -/
def State.num (s : State) (k n : Nat) : Nat := fromBytes (s.bytes k n)

/-- R8, R16: whether a byte of a core's spaces can no longer be reached because its die has been fenced. -/
def State.lostCell (s : State) (k : Nat) : Bool := k < 2 ^ 64 && paSpace k ≤ 4 && (s.die (paCore k / 1024)).fenced

/-- The first n granted commits performed at their homes. -/
def State.landWrites (s : State) (n : Nat) : State :=
  { s with mem := (s.homeWrites.take n).foldl (fun m w => memSetAll m w.cells) s.mem
           homeWrites := s.homeWrites.drop n }

/-- Granted commits performed at their homes up to and including the last that touches one of the lines (R181: a home
holds accesses to marked lines until the data is written). -/
def State.drainLines (s : State) (lines : List Nat) : State :=
  let touches (w : HomeWrite) := w.cells.any (fun c => lines.contains (lineOf c.1))
  let now := s.homeWrites.takeWhile (fun _ => s.homeWrites.any touches)
  let last := (now.reverse.dropWhile (fun w => !touches w)).reverse
  s.landWrites last.length

/-- Bytes written at their homes, with nothing else. -/
def State.rawWrite (s : State) (cells : List (Nat × Byte)) : State :=
  let s := s.drainLines (cells.map (fun c => lineOf c.1))
  { s with mem := memSetAll s.mem cells }

def State.isFull (s : State) (gran : Nat) : Bool := s.full.contains gran
def State.setFull (s : State) (gran : Nat) (b : Bool) : State :=
  { s with full := if b then setInsert s.full gran else setErase s.full gran }

/-- R113: an engine write sets the granules it touches full. -/
def State.fillGranules (s : State) (cells : List (Nat × Byte)) : State :=
  { s with full := cells.foldl (fun f c => if hasFull c.1 then setInsert f (unitOf c.1) else f) s.full }

/-- R84: the granules of a byte range set empty. -/
def State.emptyRange (s : State) (k n : Nat) : State :=
  { s with full := s.full.filter (fun g => !(unitOf k ≤ g && g < unitOf (k + n))) }

end Sys2Proof.Machine
end

