-- ==== Sys2Proof/Machine/Groups.lean ====
section
/-!
DEFINITION. Coordinates through a context's core table (R12 to R15), launch records and their levels (R81, R85),
group references and heirs (R125, R126, R129), and identity registers (R86).
-/
namespace Sys2Proof.Machine

-- core tables

/-- R12: the window's extents on a logical die. -/
def Ctx.wx (c : Ctx) (d : Nat) : Nat := bits (tget c.win 0 d).toNat 5 0
def Ctx.wy (c : Ctx) (d : Nat) : Nat := bits (tget c.win 0 d).toNat 13 8
/-- Whether the context has a window on a logical die: both extents count (notes/assumptions/4.md). -/
def Ctx.hasWin (c : Ctx) (d : Nat) : Bool := c.wx d != 0 && c.wy d != 0

/-- R13, R15: the physical core of a logical core in the form of ID.CORE bits 11:0, if it exists and is enabled. -/
def Ctx.phys (c : Ctx) (l : Nat) : Option Nat :=
  let x := l % 32
  let y := l / 32 % 32
  let d := l / 1024 % 4
  let e := (tget c.cte 0 l).toNat
  if x < c.wx d && y < c.wy d && bits e 15 15 == 1 then
    some (bits e 4 0 + 32 * bits e 9 5 + 1024 * bits e 11 10)
  else none

/-- The context's enabled cores in logical order (R87): dies ascending, then 32·y + x. -/
def Ctx.enabled (c : Ctx) : List Nat :=
  (c.cte.map Prod.fst).filter (fun l => l < 4096 && (c.phys l).isSome)

/-- The logical core that names a physical core (R86), the first in logical order. -/
def Ctx.logical (c : Ctx) (p : Nat) : Option Nat := c.enabled.find? (fun l => c.phys l == some p)

/-- R10, R14: the physical die of a logical die: the PD of its core-table entries, an enabled one first, or the die itself
where the context has no window there. -/
def Ctx.physDie (c : Ctx) (d : Nat) : Nat :=
  let on := c.cte.filter (fun e => e.1 / 1024 == d)
  if !c.hasWin d then d
  else match on.find? (fun e => bits e.2.toNat 15 15 == 1) with
    | some e => bits e.2.toNat 11 10
    | none => bits ((on.map (fun e => e.2.toNat)).headD 0) 11 10

/-- R127: the logical die of the context that is mapped onto a physical die. -/
def Ctx.logDie (c : Ctx) (p : Nat) : Nat :=
  ((upFrom 0 4).find? (fun d => c.hasWin d && c.physDie d == p)).getD p

-- launch records (R81)

namespace Rec
def ndim (r : List Byte) : Nat := min (max (byteAt r 0x8C) 1) 4
def nlvl (r : List Byte) : Nat := min (max (byteAt r 0x8D) 2) 8
/-- R81: for a dim at or above NDIM, GRID and TILE are read as 1. -/
def grid (r : List Byte) (d : Nat) : Nat := if d < ndim r then field r (0x10 + 4 * d) 4 else 1
def tile (r : List Byte) (d : Nat) : Nat := if d < ndim r then field r (0x20 + 4 * d) 4 else 1
def tiles (r : List Byte) (d : Nat) : Nat := ceilDiv (grid r d) (max (tile r d) 1)
/-- R82: T. -/
def total (r : List Byte) : Nat := tiles r 0 * tiles r 1 * tiles r 2 * tiles r 3
def domain (r : List Byte) (l : Nat) : Nat := byteAt r (0x30 + 8 * l)
def scope (r : List Byte) (l : Nat) : Nat := byteAt r (0x31 + 8 * l)
def count (r : List Byte) (l : Nat) : Nat := field r (0x34 + 8 * l) 4
/-- R85: the tasks of a level-l node, COUNT_1 · … · COUNT_l. -/
def size (r : List Byte) : Nat → Nat
  | 0 => 1
  | l + 1 => size r l * max (count r (l + 1)) 1
def heirpol (r : List Byte) : Nat := byteAt r 0x07
def supent (r : List Byte) : Nat := field r 0x70 8
def redundant (r : List Byte) : Bool := byteAt r 0x05 == 1
end Rec

/-- R84: the slots a task of the launch takes. -/
def Launch.n (l : Launch) : Nat := if Rec.redundant l.record then 2 else 1
def Launch.nlvl (l : Launch) : Nat := Rec.nlvl l.record
/-- R44, R99: the launching package, and the launch identifier, which tells a target the level and the weight that R62 and
R93 give the launch (notes/assumptions/12.md). -/
def Launch.launcher (l : Launch) (own : Nat) : Nat := (l.remoteFrom.map Prod.fst).getD own
def Launch.lid (l : Launch) (ctx lslot : Nat) : Nat :=
  match l.remoteFrom with
  | some (_, lid) => lid
  | none => lslot % 256 + 2 ^ 8 * (ctx % 16) + 2 ^ 12 * (l.level % 4) + 2 ^ 14 * (l.weight % 256) + 2 ^ 22 * (l.order % 1024)
def lidLevel (lid : Nat) : Nat := bits lid 13 12
def lidWeight (lid : Nat) : Nat := bits lid 21 14
/-- R99: the packages of TARGETS, ascending; none named means the launching package alone (R81). -/
def targetsOf (r : List Byte) (launcher : Nat) : List Nat :=
  let m := field r 0x98 32
  if m = 0 then [launcher] else (upFrom 0 256).filter (fun p => m / 2 ^ p % 2 == 1)
/-- R83: fields of the KCB. -/
def Launch.restart (l : Launch) : Bool := byteAt l.kcb 0x0E % 2 == 1

-- group references (R126)

def mkRef (ctx lslot level node : Nat) : GroupRef :=
  BitVec.ofNat 48 (node % 2 ^ 32 + 2 ^ 32 * level + 2 ^ 36 * lslot + 2 ^ 44 * ctx)
def mkSup (ctx lslot die : Nat) : GroupRef :=
  BitVec.ofNat 48 (die + 2 ^ 35 + 2 ^ 36 * lslot + 2 ^ 44 * ctx)
def refNode (r : GroupRef) : Nat := bits r.toNat 31 0
def refLevel (r : GroupRef) : Nat := bits r.toNat 34 32
def refSup (r : GroupRef) : Bool := bits r.toNat 35 35 == 1
def refLslot (r : GroupRef) : Nat := bits r.toNat 43 36
def refCtx (r : GroupRef) : Nat := bits r.toNat 47 44

/-- ID.PATH bits 31:0: the launched task's number t (R86). -/
def rootOf (path : Word) : Nat := wbits path 31 0
def depthOf (path : Word) : Nat := wbits path 34 32

def State.launch (s : State) (ctx lslot : Nat) : Option Launch := tfind (s.ctx ctx).launches lslot

/-- The level-L group that contains a task of a launch (R125). -/
def groupAt (l : Launch) (t : TaskRef) (level : Nat) : GroupRef :=
  mkRef t.ctx t.lslot level (rootOf t.path / Rec.size l.record level)

/-- R125, R147: the generation of a root's level-0 group: how often a task of the root has been started again. -/
def Launch.genOf (l : Launch) (root : Nat) : Nat := tget l.gens 0 root
/-- The generation of a group: that of its level-0 groups together. -/
def Launch.groupGen (l : Launch) (r : GroupRef) : Nat :=
  if refSup r then 0
  else ((l.gens.filter (fun e => e.1 / Rec.size l.record (refLevel r) == refNode r)).map Prod.snd).foldl (· + ·) 0
/-- The living tasks of one generation of a root. -/
def Launch.livingIn (l : Launch) (root gen : Nat) : Nat :=
  if gen = l.genOf root then
    tget l.live 1 root - ((l.former.filter (fun e => e.1 == root)).map (fun e => e.2.2)).foldl (· + ·) 0
  else ((l.former.find? (fun e => e.1 == root && e.2.1 == gen)).map (fun e => e.2.2)).getD 0
/-- A number of tasks more, or less, in a former generation of a root. -/
def Launch.formerBy (l : Launch) (root gen : Nat) (f : Nat → Nat) : List (Nat × Nat × Nat) :=
  (l.former.map (fun e => if e.1 == root && e.2.1 == gen then (e.1, e.2.1, f e.2.2) else e)).filter (fun e => e.2.2 != 0)
/-- The generation that a conveyance to a level-0 group names: the newest that lives. -/
def Launch.heirGen (l : Launch) (root : Nat) : Nat :=
  if 0 < l.livingIn root (l.genOf root) then l.genOf root
  else (((l.former.filter (fun e => e.1 == root)).getLast?).map (fun e => e.2.1)).getD (l.genOf root)

/-- R353: whether a group contains a task, given as its launch, root and supervisor mark. -/
def State.inGroup (s : State) (r : GroupRef) (ctx lslot root : Nat) (sup : Bool) (supDie : Nat) : Bool :=
  refCtx r == ctx && refLslot r == lslot &&
  match s.launch ctx lslot with
  | none => false
  | some l =>
    if refSup r then sup && refNode r % 4 == supDie
    else !sup && root / Rec.size l.record (refLevel r) == refNode r

def State.taskIn (s : State) (r : GroupRef) (t : Task) : Bool :=
  s.inGroup r t.ref.ctx t.ref.lslot (rootOf t.ref.path) t.sup t.supDie

/-- R125, R130, R353: whether a group's exit has begun. A supervisor counts as exited once it has ended, or where there is
none. -/
def State.exited (s : State) (r : GroupRef) : Bool :=
  match s.launch (refCtx r) (refLslot r) with
  | none => true
  | some l =>
    if refSup r then
      Rec.supent l.record == 0 || (match tfind l.sups (refNode r % 4) with | some p => p.ended | none => true)
    else
      let n := Rec.size l.record (refLevel r)
      let lo := refNode r * n
      let hi := min (lo + n) (Rec.total l.record)
      (l.exited.filter (fun t => lo ≤ t && t < hi)).length == hi - lo

/-- R129: the default heir of a group, for an entry that lies on a logical die. -/
def State.defaultHeir (s : State) (r : GroupRef) (die : Nat) : Option GroupRef :=
  match s.launch (refCtx r) (refLslot r) with
  | none => none
  | some l =>
    if refSup r then none else
    let lv := refLevel r
    let nl := l.nlvl
    match Rec.heirpol l.record with
    | 1 => if lv + 1 < nl then
        some (mkRef (refCtx r) (refLslot r) (lv + 1) (refNode r / max (Rec.count l.record (lv + 1)) 1))
      else none
    | 2 => if Rec.supent l.record == 0 then none else some (mkSup (refCtx r) (refLslot r) die)
    | 3 =>
      let k := if lv + 1 < nl then max (Rec.count l.record (lv + 1)) 1
        else max (Rec.total l.record / max (Rec.size l.record lv) 1) 1
      let base := if lv + 1 < nl then refNode r / k * k else 0
      let nxt := base + (refNode r - base + 1) % k
      if nxt == refNode r then none else some (mkRef (refCtx r) (refLslot r) lv nxt)
    | _ => none

/-- R130: the heir chain from a first heir, with the count of heirs tried. -/
def State.heirChain (s : State) (die : Nat) : Nat → Option GroupRef → Nat → Option GroupRef × Nat
  | 0, h, n => (if h.any s.exited then none else h, n)
  | f + 1, h, n =>
    match h with
    | none => (none, n)
    | some r =>
      if s.exited r then
        if n < 8 then s.heirChain die f (s.defaultHeir r die) (n + 1) else (none, n)
      else (some r, n)

-- identity (R86)

/-- The tile indices (i, j, k, b) of task t: dim 1 fastest, then dim 0, then dim 2, then dim 3. -/
def tileIdx (r : List Byte) (t : Nat) : Nat × Nat × Nat × Nat :=
  let n0 := Rec.tiles r 0
  let n1 := Rec.tiles r 1
  let n2 := Rec.tiles r 2
  (t / n1 % n0, t % n1, t / (n1 * n0) % n2, t / (n1 * n0 * n2))

/-- R86: the identity registers of a launched task on a logical core and slot. -/
def identity (l : Launch) (pkg core slot ncores : Nat) (role : Word) (t : Nat) : List Word :=
  let r := l.record
  let (i, j, k, b) := tileIdx r t
  let row := i * Rec.tile r 0
  let col := j * Rec.tile r 1
  let lvl (n : Nat) := if n < l.nlvl then t / Rec.size r n else 0
  [w64 (core % 4096 + 4096 * pkg), w64 slot, w64 t, w64 t, w64 row, w64 col,
   w64 (min (Rec.tile r 0) (Rec.grid r 0 - row)), w64 (min (Rec.tile r 1) (Rec.grid r 1 - col)),
   w64 (min (Rec.tile r 2) (Rec.grid r 2 - k * Rec.tile r 2)),
   w64 (i + 2 ^ 16 * j + 2 ^ 32 * k + 2 ^ 48 * b)]
  ++ (upFrom 0 8).map (fun n => w64 (lvl n))
  ++ [role, w64 ncores, w64 (field r 0x80 8)]

/-- R86: ID.ROLE from a core's role state (R100, R101). -/
def Core.roleWord (c : Core) : Word :=
  w64 (c.role.toNat + 16 * c.recast.toNat + 2 ^ 16 * c.param.toNat)

end Sys2Proof.Machine
end

