-- ==== Sys2Proof/Machine/Ops.lean ====
section
/-!
DEFINITION. The named operations over slots, registers, chunks and records that the meanings share: register access
(R3, R104, R388), pending registers and HAZARD (R105), chunks and squashes (R175 to R179), writes in the package
order (R180), the event log (R72), fault records (R149), a task's end (R125, R130), sealing a core (R145), taking a
trap (R139) and returning from one (R141, R379), and issuing an instruction.
-/
namespace Sys2Proof.Machine

-- slots

def Core.slot (c : Core) (n : Nat) : Slot := (c.slots[n]?).getD Slot.reset
def Core.setSlot (c : Core) (n : Nat) (v : Slot) : Core := { c with slots := c.slots.setIfInBounds n v }

def State.slot (s : State) (i : SlotId) : Slot := (s.core i.core).slot i.slot
def State.setSlot (s : State) (i : SlotId) (v : Slot) : State :=
  s.setCore i.core ((s.core i.core).setSlot i.slot v)
def State.modCore (s : State) (c : Nat) (f : Core → Core) : State := s.setCore c (f (s.core c))
def State.modSlot (s : State) (i : SlotId) (f : Slot → Slot) : State := s.setSlot i (f (s.slot i))
def State.modDie (s : State) (d : Nat) (f : Die → Die) : State := s.setDie d (f (s.die d))
def State.modCtx (s : State) (c : Nat) (f : Ctx → Ctx) : State := s.setCtx c (f (s.ctx c))
def State.modLaunch (s : State) (ctx lslot : Nat) (f : Launch → Launch) : State :=
  match s.launch ctx lslot with
  | none => s
  | some l => s.modCtx ctx (fun c => { c with launches := tset c.launches lslot (f l) })

/-- The slot an instruction acts on. -/
def State.me (s : State) : Slot := s.slot s.cur
def State.setMe (s : State) (v : Slot) : State := s.setSlot s.cur v
def State.modMe (s : State) (f : Slot → Slot) : State := s.setMe (f s.me)
def State.myCore (s : State) : Core := s.core s.cur.core
/-- The context on the core (TENANT, R108). -/
def State.myCtx (s : State) : Nat := s.myCore.tenant.toNat

/-- Every slot of every core that the state lists. -/
def State.allSlots (s : State) : List SlotId :=
  s.cores.flatMap (fun e => (upFrom 0 8).map (fun n => ⟨e.1, n⟩))

/-- R155: whether every slot of a core has stopped for a pre-emption that is pending. -/
def Core.stopped (c : Core) : Bool :=
  (upFrom 0 8).all (fun n =>
    let st := (c.slot n).status
    st != .ready && st != .parked && st != .trapping)
def State.coreStopped (s : State) (core : Nat) : Bool :=
  (s.ctx (s.core core).tenant.toNat).preempt.isSome && (s.core core).stopped

/-- R156: whether a context is not on a core: another runs there, or Hoist has saved it. -/
def State.away (s : State) (core ctx : Nat) : Bool :=
  (s.core core).tenant.toNat != ctx || (tfind (s.core core).saved ctx).isSome

/-- The cores that run a context now. -/
def State.coresOf (s : State) (ctx : Nat) : List Nat := (s.cores.map Prod.fst).filter (fun c => !s.away c ctx)

/-- R226: whether the pass of a Jig command has begun. -/
def JCmd.begun (c : JCmd) : Bool := !c.hist.isEmpty

/-- R145: the seal of a core as a context finds it: that of its saved state where it is swapped out. -/
def State.sealOf (s : State) (core ctx : Nat) : Option (BitVec 8) :=
  if s.away core ctx then (tget (s.core core).saved Saved.empty ctx).sealed else (s.core core).sealed

/-- An event step put in flight behind those already there. -/
def State.post (s : State) (i : Instr) : State := { s with inflight := s.inflight ++ [i] }
def State.postAll (s : State) (is : List Instr) : State := { s with inflight := s.inflight ++ is }

-- registers

/-- R105: a register's code: file in bits 6:5, number in bits 4:0. -/
def codeG (a : Reg) : Nat := a.toNat
def codeF (a : Reg) : Nat := 32 + a.toNat
def codeQ (q : BitVec 4) : Nat := 64 + q.toNat
def codeK (k : BitVec 2) : Nat := 96 + k.toNat

def reg32 (a : Reg) : Fin 32 := ⟨a.toNat, a.isLt⟩

/-- R3: reading g[0] gives 0. -/
def Arch.getG (r : Arch) (a : Reg) : Word := if a = 0 then 0 else r.g.get (reg32 a)
/-- R3: writing g[0] has no effect. -/
def Arch.setG (r : Arch) (a : Reg) (v : Word) : Arch :=
  if a = 0 then r else { r with g := r.g.set a.toNat v a.isLt }
def Arch.getF (r : Arch) (a : Reg) : Single := r.f.get (reg32 a)
def Arch.setF (r : Arch) (a : Reg) (v : Single) : Arch := { r with f := r.f.set a.toNat v a.isLt }
def Arch.getK (r : Arch) (k : BitVec 2) : Word := r.k.get ⟨k.toNat, k.isLt⟩
def Arch.setK (r : Arch) (k : BitVec 2) (v : Word) : Arch := { r with k := r.k.set k.toNat v k.isLt }

/-- R388: a write restores a register's parity. -/
def Slot.wrote (m : Slot) (code : Nat) : Slot := { m with parity := m.parity.filter (· != code) }

/-- A register written by its code (R105). -/
def Arch.setCode (r : Arch) (code : Nat) (v : Word) : Arch :=
  if code < 32 then r.setG (BitVec.ofNat 5 code) v
  else if code < 64 then r.setF (BitVec.ofNat 5 code) (v.setWidth 32)
  else if 96 ≤ code then r.setK (BitVec.ofNat 2 code) v
  else r

def Slot.setG (m : Slot) (a : Reg) (v : Word) : Slot := { m.wrote (codeG a) with arch := m.arch.setG a v }
def Slot.setF (m : Slot) (a : Reg) (v : Single) : Slot := { m.wrote (codeF a) with arch := m.arch.setF a v }
def Slot.setK (m : Slot) (k : BitVec 2) (v : Word) : Slot := { m.wrote (codeK k) with arch := m.arch.setK k v }

def State.g (s : State) (a : Reg) : Word := s.me.arch.getG a
def State.f (s : State) (a : Reg) : Single := s.me.arch.getF a
def State.setG (s : State) (a : Reg) (v : Word) : State := s.modMe (fun m => m.setG a v)
def State.setF (s : State) (a : Reg) (v : Single) : State := s.modMe (fun m => m.setF a v)
def State.setK (s : State) (k : BitVec 2) (v : Word) : State := s.modMe (fun m => m.setK k v)
def State.modArch (s : State) (f : Arch → Arch) : State := s.modMe (fun m => { m with arch := f m.arch })
def State.setPc (s : State) (pc : Word) : State := s.modArch (fun r => { r with pc := pc })
def State.pc (s : State) : Word := s.me.arch.pc

/-- Flags ORed into FSTAT (R201). -/
def State.orFstat (s : State) (f : Word) : State := s.modArch (fun r => { r with fstat := r.fstat ||| f })

/-- R121: flags that a pair's trailing thread takes from the load-value queue with the value they came with. -/
def State.pairFlags (s : State) (f : Word) : Word := if s.me.task.any (fun t => t.n == 2) then f else 0

/-- A queue register's binding. -/
def Slot.qreg (m : Slot) (q : Nat) : Binding := (m.q[q]?).getD Binding.unbound
def Slot.setQ (m : Slot) (q : Nat) (b : Binding) : Slot := { m with q := m.q.setIfInBounds q b }
/-- The FIFOs of an engine endpoint of KIND 3 to 6 (R115). -/
def Slot.fifoOf (m : Slot) (kind : Nat) : Fifo := (m.fifo[kind - 3]?).getD Fifo.empty
def Slot.setFifo (m : Slot) (kind : Nat) (f : Fifo) : Slot := { m with fifo := m.fifo.setIfInBounds (kind - 3) f }

/-- R386: a slot counter increased, saturating. -/
def Slot.count (m : Slot) (n k : Nat) : Slot :=
  let v := ((m.counters[n]?).getD 0).toNat + k
  { m with counters := m.counters.setIfInBounds n (w64 (min v (2 ^ 64 - 1))) }

/-- R104: the pending registers' codes. -/
def Slot.pendingCodes (m : Slot) : List Nat := m.returns.map (fun r => r.reg.toNat)

/-- A returning value with no stated latency and nothing else attached (R104, R404). -/
def Ret.plain (reg : Nat) (v : Word) : Ret :=
  ⟨BitVec.ofNat 7 reg, some v, none, none, 0, none, false, false, none, 0, none, none, 8, false, [], none, 0⟩

/-- R133: a bereaved mark received: the kind's sticky bit joins those held, the other fields name the latest holding. -/
def mergeBereaved (old new : Word) : Word := (old &&& 7) ||| new

/-- R104, R133, R201: what a returning value does to the registers. -/
def Arch.receive (r : Arch) (x : Ret) (v : Word) : Arch :=
  let r := r.setCode x.reg.toNat v
  { r with
    fstat := r.fstat ||| x.flags
    brv := if x.marksBrv then x.bereaved.isSome else r.brv
    bereaved := match x.bereaved with | some b => mergeBereaved r.bereaved b | none => r.bereaved }

/-- Whether what belongs to a chunk and a place in it comes before a cut of chunk `no`. -/
def Cut.after (k : Cut) (no : Nat) (chunk : Option Nat) (pos : Nat) : Bool :=
  chunk.all (· < no) || (chunk == some no && pos < k.count)

/-- A value that was pending at a cut is written there too. -/
def Cut.receive (k : Cut) (no : Nat) (x : Ret) (v : Word) : Cut :=
  if k.after no x.chunk x.pos then { k with arch := k.arch.receive x v } else k

/-- R104, R178: a returning value written. The registers to which a squash returns a later chunk hold it too. -/
def Slot.receive (m : Slot) (x : Ret) (v : Word) : Slot :=
  { m.wrote x.reg.toNat with
    arch := m.arch.receive x v
    chunks := m.chunks.map (fun (c : Chunk) => { c with
      saved := if x.chunk.all (· < c.no) then c.saved.receive x v else c.saved
      cuts := c.cuts.map (·.receive c.no x v) }) }

/-- R104, R270: whether a returning value leaves nothing pending: it goes to g0 and does nothing else. -/
def Ret.silent (r : Ret) : Bool := r.reg = 0 && r.flags == 0 && !r.marksBrv && r.bereaved.isNone

/-- R105: whether a register of the slot is pending. -/
def Slot.anyPending (m : Slot) : Bool := m.returns.any (fun r => !r.silent)

/-- The instructions that the open chunk has counted. -/
def Slot.openCount (m : Slot) : Nat := ((m.chunks.find? (fun c => !c.closed)).map (·.count)).getD 0

/-- R104: a returning instruction with destination g0 has no pending register. -/
def Slot.addRet (m : Slot) (r : Ret) : Slot :=
  if r.silent && r.assay.isNone && r.value.isSome then m
  else { m with returns := m.returns ++ [{ r with pos := m.openCount }] }
def State.addRet (s : State) (r : Ret) : State := s.modMe (fun m => m.addRet r)

-- events and records

/-- R72: whole microseconds since the Headframe left reset. -/
def State.hft (s : State) : Nat := (s.now - s.hf.hftBase) / 1300

/-- R72: an entry appended to the event ring of 4,096 entries; the oldest is overwritten and LOST counts. -/
def State.logEvent (s : State) (code die ctx unit data : Nat) : State :=
  let e : LogEntry := ⟨w64 s.hft, BitVec.ofNat 16 code, BitVec.ofNat 8 die, BitVec.ofNat 8 ctx, BitVec.ofNat 32 unit,
    data % 2 ^ 128⟩
  let log := s.hf.log ++ [e]
  if 4096 < log.length then
    let lost := if s.hf.lost = BitVec.allOnes 32 then s.hf.lost else s.hf.lost + 1
    { s with hf := { s.hf with log := log.drop 1, lost := lost } }
  else { s with hf := { s.hf with log := log } }

def noCtx : Nat := 0xFF

/-- R72: an entry's 32 bytes. -/
def LogEntry.bytes (e : LogEntry) : List Byte :=
  toBytes e.hft.toNat 8 ++ toBytes e.code.toNat 2 ++ [e.die, e.ctx] ++ toBytes e.unit.toNat 4 ++ toBytes e.data 16

/-- R149: one record written to a ring in host memory, and PROD after it; a full ring drops and counts. A ring that
system software has not set drops and counts too (notes/assumptions/9.md). -/
def ringPut (r : Ring) (rec : List Byte) : Ring × List (Nat × Byte) :=
  if !r.set || (r.prod - r.cons).toNat == 4096 then
    ({ r with dropped := if r.dropped = BitVec.allOnes 32 then r.dropped else r.dropped + 1 }, [])
  else
    let p := r.prod + 1
    ({ r with prod := p },
      cellsOf (paHost (r.base + 32 * (r.prod.toNat % 4096))) rec
      ++ cellsOf (paHost (r.base + 32 * 4096)) (toBytes p.toNat 8))

/-- R149: a fault record, to the fault queue of a context that exists and to the tailings log otherwise. -/
def State.faultRecord (s : State) (typ cause ctx core slot lslot : Nat) (addr path data : Word) : State :=
  let live := (s.ctx ctx).started
  let rec_ (tail : Nat) : List Byte := toBytes typ 1 ++ toBytes cause 1 ++ toBytes ctx 1 ++ toBytes tail 1
    ++ toBytes core 2 ++ toBytes slot 1 ++ toBytes lslot 1 ++ toBytes addr.toNat 8 ++ toBytes path.toNat 8
    ++ toBytes data.toNat 8
  if live then
    let (r, cells) := ringPut (s.ctx ctx).faults (rec_ 0)
    (s.modCtx ctx (fun c => { c with faults := r })).rawWrite cells
  else
    let (r, cells) := ringPut s.tailings (rec_ 1)
    { s.rawWrite cells with tailings := r }

/-- R140: the code of a cause. -/
def Cause.code : Cause → BitVec 8
  | .illegal => 0x01
  | .hazard => 0x02
  | .align => 0x03
  | .xlate => 0x04
  | .space => 0x05
  | .coord => 0x06
  | .priv => 0x07
  | .capfault => 0x08
  | .waitlimit => 0x09
  | .qdead => 0x0A
  | .uncorr => 0x0B
  | .mismatch => 0x0C
  | .tensor => 0x0D
  | .brk => 0x0E
  | .soft => 0x0F
  | .fenced => 0x10

/-- The cause of a code that an error response or a served wait carries. -/
def Cause.ofCode (c : BitVec 8) : Cause :=
  match c.toNat with
  | 0x02 => .hazard | 0x03 => .align | 0x04 => .xlate | 0x05 => .space | 0x06 => .coord | 0x07 => .priv
  | 0x08 => .capfault | 0x09 => .waitlimit | 0x0A => .qdead | 0x0B => .uncorr | 0x0C => .mismatch
  | 0x0D => .tensor | 0x0E => .brk | 0x0F => .soft | 0x10 => .fenced | _ => .illegal

-- squashes and writes in the package order

/-- The other thread of a redundant pair (R121). -/
def State.partner (s : State) (i : SlotId) : Option SlotId :=
  match (s.slot i).task with
  | some t => if t.n == 2 then some ⟨i.core, if t.trailing then i.slot - 4 else i.slot + 4⟩ else none
  | none => none

/-- R116, R333: pushes that did not leave give their allowance back, unless it has been revoked. -/
def unpush (q : Vector Binding 16) (pushes : List Push) : Vector Binding 16 :=
  pushes.foldl (fun q p => match q[p.q]? with
    | some b => q.setIfInBounds p.q { b with allow := if b.gen = p.gen then b.allow + 1 else b.allow, sent := b.sent - 1 }
    | none => q) q

/-- R178, R179, R292: a slot's chunks from number `no` on discarded, its registers as at that chunk's first
instruction, allowance restored, and the slot re-running from there. -/
def Slot.squash (m : Slot) (no : Nat) : Slot :=
  match m.chunks.find? (fun c => c.no == no) with
  | none => m
  | some ch =>
    let gone := m.chunks.filter (fun c => no ≤ c.no)
    let pushes := gone.flatMap (·.pushes)
    let q := unpush m.q pushes
    let n := (gone.map (·.count)).foldl (· + ·) 0
    let kept (k : Option Nat) : Bool := k.all (· < no)
    let waits := m.status = .trapping
    let m := m.count 2 n
    { m with
      issued := m.issued - n
      arch := ch.saved
      q := q
      chunks := m.chunks.filter (fun c => c.no < no)
      chunkNo := no
      returns := m.returns.filter (fun r => kept r.chunk)
      taken := if waits then [] else m.taken
      pulled := if m.plive.isSome then [] else m.pulled.filter (fun r => kept r.chunk)
      squashes := w64 (min (m.squashes.toNat + gone.length) (2 ^ 64 - 1))
      streaks := gone.foldl (fun t c =>
        let e := tget t (0, 0) c.no
        tset t c.no (e.1 + 1, max e.2 (max c.count 1))) m.streaks
      serial := if ch.serial then m.serial + 1 else 0
      status := match m.status with
        | .parked => .ready | .trapping => .ready | .ending => .ready
        | .stopped => if m.plive.isSome then .ready else .stopped
        | st => st
      wait := none, resume := none, queued := false, sent := false, trap := none, plive := none
      lvq := m.lvq.filter (fun e => e.chunk.all (· < no))
      cmp := m.cmp.filter (fun e => e.chunk < no) }

/-- R120, R292: SFU requests put back at the tail of the queue, their destinations pending again. -/
def State.requeue (s : State) (i : SlotId) (rs : List SfuReq) : State :=
  (s.modCore i.core (fun c => { c with sfuQ := c.sfuQ ++ rs })).modSlot i (fun m => { m with
    returns := m.returns ++ rs.map (fun r =>
      { Ret.plain (codeF r.dest) 0 with value := none, sfu := true, chunk := r.chunk, pos := r.pos }) })

/-- The requests of earlier chunks that a waiting trap or a stop had taken from the queue, and that a squash which cancels
it brings back. -/
def Slot.cancelled (m : Slot) (no : Nat) : List SfuReq :=
  if m.chunks.any (fun c => c.no == no) then
    ((if m.status = .trapping then m.taken else []) ++ (if m.plive.isSome then m.pulled else [])).filter
      (fun r => r.chunk.all (· < no))
  else []

/-- R142, R167, R168: a slot's chunk cut before an instruction of it: what came before it stays, as a finished chunk, and
what came after has no effect. -/
def Slot.cutAt (m : Slot) (c : Chunk) (k : Cut) : Slot :=
  let later := m.chunks.filter (fun d => c.no < d.no)
  let pushes := c.pushes.drop k.pushes ++ later.flatMap (·.pushes)
  let q := unpush m.q pushes
  let before := c.cuts.takeWhile (· != k)
  let kept : Chunk := { c with count := k.count, closed := true, writes := k.writes, pushes := c.pushes.take k.pushes
                               assay := c.assay.take k.assay, cuts := before, probes := c.probes.filter (fun p => before.any (·.key == p)) }
  { m with
    issued := m.issued - (c.count - k.count + (later.map (·.count)).foldl (· + ·) 0)
    arch := k.arch
    q := q
    chunks := m.chunks.filter (fun d => d.no < c.no) ++ (if k.count = 0 then [] else [kept])
    chunkNo := if k.count = 0 then c.no else c.no + 1
    returns := m.returns.filter (fun r => k.after c.no r.chunk r.pos)
    taken := if m.status = .trapping then [] else m.taken
    pulled := if m.plive.isSome then [] else m.pulled
    serial := if c.serial then m.serial + 1 else m.serial
    status := match m.status with
      | .parked => .ready | .trapping => .ready | .ending => .ready
      | .stopped => if m.plive.isSome then .ready else .stopped
      | st => st
    wait := none, resume := none, queued := false, sent := false, trap := none, plive := none
    lvq := m.lvq.filter (fun e => e.no < k.lvqNo), lvqNo := k.lvqNo
    cmp := m.cmp.filter (fun e => k.cmp.any (fun d => d.op == e.op && d.args == e.args && d.pc == e.pc && d.chunk == e.chunk)) }

/-- A cut with the SFU requests: those of the kept part go on, the others are dropped. -/
def State.cutAt (s : State) (i : SlotId) (c : Chunk) (k : Cut) : State :=
  let kept (r : SfuReq) : Bool := k.after c.no r.chunk r.pos
  let late (r : SfuReq) : Bool := r.slot == i.slot && !kept r
  let m := s.slot i
  let back := ((if m.status = .trapping then m.taken else []) ++ (if m.plive.isSome then m.pulled else [])).filter kept
  let s := s.modCore i.core (fun c => { c with
    sfuQ := c.sfuQ.filter (fun r => !late r)
    sfuRun := c.sfuRun.map (fun r => if late r.1 then ({ r.1 with dropped := true }, r.2) else r) })
  (s.modSlot i (fun m => m.cutAt c k)).requeue i back

/-- R122, R167: the cut before the instruction at a place of its chunk: a load of another package, or a store of a pair's
trailing thread. -/
def placeKey (pos : Nat) : Nat := 2 ^ 200 + pos

/-- R123, R142: a chunk cut before an instruction, in both threads of a pair. -/
def State.cutPair (s : State) (i : SlotId) (c : Chunk) (k : Cut) : State :=
  let s := s.cutAt i c k
  match s.partner i with
  | none => s
  | some j => match (s.slot j).chunks.find? (fun d => d.no == c.no) with
    | none => s
    | some d => match d.cuts.find? (fun x => x.key == placeKey k.count) with
      | some x => s.cutAt j d x
      | none => s

/-- R178, R292: the squash of a chunk and of its SFU requests, in both threads of a pair (R123). -/
def State.squash (s : State) (i : SlotId) (no : Nat) : State :=
  let one (s : State) (i : SlotId) : State :=
    let late (r : SfuReq) : Bool := r.slot == i.slot && r.chunk.any (no ≤ ·)
    let s := s.modCore i.core (fun c => { c with
      sfuQ := c.sfuQ.filter (fun r => !late r)
      sfuRun := c.sfuRun.map (fun r => if late r.1 then ({ r.1 with dropped := true }, r.2) else r) })
    let back := (s.slot i).cancelled no
    (s.modSlot i (fun m => m.squash no)).requeue i back
  match s.partner i with
  | some j => one (one s i) j
  | none => one s i

/-- The oldest chunk of a slot whose read signature a set of lines hits (R177, R178). A one-instruction chunk of a re-run
that reads memory holds its grants and cannot be squashed (R179); one that only stores can, through its probe (R168). -/
def Slot.hitBy (m : Slot) (lines : List Nat) : Option Nat :=
  (m.chunks.find? (fun c => !(c.serial && !c.reads.isEmpty) && (c.reads.any lines.contains || c.probes.any lines.contains))).map (·.no)

/-- R178: every open chunk of the package whose read signature is hit is squashed. -/
def State.squashHits (s : State) (lines : List Nat) : State :=
  s.allSlots.foldl (fun s i =>
    match (s.slot i).hitBy lines with
    | some no => s.squash i no
    | none => s) s

/-- R180, R187, R189: bytes written at their homes in the package order, squashing open chunks that read them. -/
def State.write (s : State) (cells : List (Nat × Byte)) : State :=
  (s.rawWrite cells).squashHits (cells.map (fun c => lineOf c.1))

/-- R185, R191: what releases covered noted where their issuer writes afterwards. -/
def State.markUnits (s : State) (ids : List Nat) (units : List Nat) : State :=
  if ids.isEmpty then s else { s with relAt := units.foldl (fun t u => tset t u (setUnion (tget t [] u) ids)) s.relAt }

/-- R185, R191: a slot has read there. -/
def State.observe (s : State) (i : SlotId) (unit : Nat) : State :=
  s.modSlot i (fun m => { m with seen := setUnion m.seen (tget s.relAt [] unit) })

/-- R114: the answer to an access at a granule: to its slot at once, to another package by the response that the granule's
event step sends. -/
def State.granAnswer (s : State) (home : Nat) (w : GranWait) (v : Nat) (cause : BitVec 8) : State :=
  match w.pkt with
  | none => s.modSlot w.who (fun m => { m with
      resume := some ⟨w64 v, if cause = 0 then none else some cause, none, false⟩ })
  | some _ => (s.modCore home (fun c => { c with granQ := c.granQ ++ [{ w with result := some (v, cause) }] })).post
      (.granuleAccess w.key)

/-- R114: the queue of a granule examined from its head: the first access whose condition holds is served and leaves,
and the examination starts again, for the service may have changed the bit. -/
def State.serveGran (s : State) (gran : Nat) : Nat → State
  | 0 => s
  | n + 1 =>
    let home := paCore (gran * 16)
    let holds (w : GranWait) : Bool := w.key == gran && w.result.isNone && (!w.waits || s.isFull gran == !w.write)
    match (s.core home).granQ.find? holds with
    | none => s
    | some w =>
      let s := s.modCore home (fun c => { c with granQ := c.granQ.erase w })
      let v := s.num w.addr w.size
      let s := if w.write then s.write (cellsOf w.addr (toBytes w.data.toNat w.size)) else s
      let s := if w.pkt.isSome then s
        else if w.write then s.markUnits (s.slot w.who).released [gran] else s.observe w.who gran
      let s := if w.change then s.setFull gran w.write else s
      State.serveGran (s.granAnswer home w v 0) gran n

/-- Every waiting access of a granule served as far as its bit allows. -/
def State.serve (s : State) (gran : Nat) : State :=
  s.serveGran gran (s.core (paCore (gran * 16))).granQ.length

/-- An engine's write: the granules it touches become full, and their waiters are served (R113, R114, R189). -/
def State.engineWrite (s : State) (cells : List (Nat × Byte)) : State :=
  let s := (s.write cells).fillGranules cells
  (cells.foldl (fun gs c => if hasFull c.1 then setInsert gs (unitOf c.1) else gs) []).foldl State.serve s

/-- R152: whether a request tagged with the context meets a unit that drops its writes and answers its reads with
zeros, because the context is flooded: a BM channel controller, an SYE or the HW port. -/
def State.cutOff (s : State) (ctx k : Nat) : Bool :=
  (s.ctx ctx).flooded && (isHost k || paSpace k == spBM || paSpace k == spSY)

/-- R170: the single-copy-atomic unit that a byte lies in: 8 bytes of host memory, else 16 bytes. -/
def atomOf (k : Nat) : Nat := if isHost k then k / 8 else k / 16

/-- Cells cut where the unit of a key changes. -/
def byUnit (cells : List (Nat × Byte)) : List (List (Nat × Byte)) :=
  cells.foldr (fun c us => match us with
    | (d :: u) :: rest => if atomOf c.1 == atomOf d.1 then (c :: d :: u) :: rest else [c] :: us
    | _ => [c] :: us) []

/-- Whether two units lie at one place. -/
def UnitWrite.meets (u v : UnitWrite) : Bool := u.cells.any (fun c => v.cells.any (fun d => atomOf c.1 == atomOf d.1))

/-- Two writes of one owner that are the same unit of one operation. -/
def UnitWrite.joins (u v : UnitWrite) : Bool :=
  u.owner == v.owner && u.ctx == v.ctx && u.fill == v.fill && !u.last && !v.last && u.meets v

/-- The unit on its way that a further write of its owner may join: the latest one at the same place, of an engine wherever
it stands among the engine's units, of a flow only the latest. -/
def State.joinable (s : State) (u : UnitWrite) : Option UnitWrite :=
  let mine := s.unitWrites.filter (fun v => v.owner == u.owner)
  let last : Option UnitWrite := match u.owner with
    | .engine _ _ _ => (mine.filter (fun (v : UnitWrite) => v.meets u)).getLast?
    | .flow _ _ => mine.getLast?
  last.filter (fun (v : UnitWrite) => v.joins u)

/-- R187, R189: a write on its way to its home, in single-copy-atomic units. -/
def State.addUnits (s : State) (ctx : Nat) (o : WriteOwner) (fill last : Bool) (cells : List (Nat × Byte)) : State :=
  (byUnit cells).foldl (fun s c =>
    let u : UnitWrite := ⟨s.nextWrite, ctx, o, fill, last, c⟩
    match s.joinable u with
    | some v => { s with unitWrites := s.unitWrites.map (fun w => if w == v then { v with cells := v.cells ++ c } else w) }
    | none => { s with nextWrite := s.nextWrite + 1, unitWrites := s.unitWrites ++ [u] }) s

/-- R187, R189: one unit performed at its home, in the package order. -/
def State.performUnit (s : State) (u : UnitWrite) : State :=
  let s := { s with unitWrites := s.unitWrites.erase u }
  let cells := u.cells.filter (fun c => !s.cutOff u.ctx c.1 && !s.lostCell c.1)
  if u.fill then s.engineWrite cells else s.write cells

/-- Every unit of an owner that is on its way performed. -/
def State.landOwner (s : State) (o : WriteOwner) : State :=
  (s.unitWrites.filter (fun u => u.owner == o)).foldl State.performUnit s

/-- Every unit of an owner performed but the last, which its operation may still be adding to. -/
def State.landFull (s : State) (o : WriteOwner) : State :=
  (s.unitWrites.filter (fun u => u.owner == o)).dropLast.foldl State.performUnit s

/-- A byte as an operation sees it that reads what it has itself written (R306). -/
def State.ownByte (s : State) (o : WriteOwner) (k : Nat) : Byte :=
  s.unitWrites.foldl (fun v u => if u.owner == o then u.cells.foldl (fun v c => if c.1 = k then c.2 else v) v else v) (s.byte k)
def State.ownNum (s : State) (o : WriteOwner) (k n : Nat) : Nat := fromBytes ((upFrom k n).map (s.ownByte o))
/-- Whether a granule is full for it. -/
def State.ownFull (s : State) (o : WriteOwner) (gran : Nat) : Bool :=
  s.isFull gran || s.unitWrites.any (fun u => u.owner == o && u.fill && u.cells.any (fun c => unitOf c.1 == gran))

/-- Whether a unit of an owner is on its way. -/
def State.landing (s : State) (o : WriteOwner) : Bool := s.unitWrites.any (fun u => u.owner == o)

/-- The operations that R192 counts, by the TYPE of their completion; the tensor engine has none of its own. -/
def kCOPY : Nat := 0x10
def kVEC : Nat := 0x12
def kJIG : Nat := 0x13
def kGETR : Nat := 0x14
def kTENS : Nat := 0x15
/-- A command pushed to the tensor engine, acquired by its result word (R329). -/
def kPUSH : Nat := 0x16

-- the end of tasks and groups

/-- R125, R130: the groups that contain a root, lowest level first. -/
def rootGroups (ctx lslot : Nat) (l : Launch) (root : Nat) : List GroupRef :=
  (upFrom 0 l.nlvl).map (fun lv => mkRef ctx lslot lv (root / Rec.size l.record lv))

/-- R130: an EXIT notice to every SYE of the context in the package and to some other packages. -/
def State.startExit (s : State) (r : GroupRef) (gen : Nat) (packages : List Nat) : State :=
  let ctx := refCtx r
  let dies := ((upFrom 0 4).filter (fun d => (s.ctx ctx).hasWin d)).map (fun d => (s.ctx ctx).physDie d)
  let to_ := dies ++ packages.map (256 + ·)
  let s := s.modLaunch ctx (refLslot r) (fun l => { l with exiting := l.exiting ++ [(r, gen, to_)] })
  if to_.isEmpty then s.post (.exitReport r) else s.postAll (to_.map (fun d => Instr.exit d r))

/-- R130: the other packages that learn of a group's exit: those of TARGETS, where the launch's top level has domain DOMAIN.
They find the exit of a group that spans packages themselves (notes/assumptions/12.md). -/
def State.exitPackages (s : State) (r : GroupRef) : List Nat :=
  match s.launch (refCtx r) (refLslot r) with
  | none => []
  | some l =>
    if refSup r || Rec.domain l.record (l.nlvl - 1) != 6 || Rec.domain l.record (refLevel r) == 6 then []
    else (targetsOf l.record (l.launcher s.pkg.toNat)).filter (· != s.pkg.toNat)

/-- R130: the EXIT notices of a group. -/
def State.sendExit (s : State) (r : GroupRef) (gen : Nat) : State := s.startExit r gen (s.exitPackages r)

/-- R125, R130: one task of a launch ends. When it is the last of its root's level-0 group, that group exits, and with
it every higher group whose tasks have all ended; the notices of a higher group follow the report of those it contains
(R131). Where restarts have made several such groups of one root, each exits with its own last task (R147). The groups that
exit are answered with the state. -/
def State.taskEnds (s : State) (ctx lslot : Nat) (path : Word) (gen : Nat) : State × List (GroupRef × Nat) :=
  match s.launch ctx lslot with
  | none => (s, [])
  | some l =>
    let root := rootOf path
    let n := tget l.live 1 root - 1
    let l' := { l with live := tset l.live root n, exited := if n == 0 then setInsert l.exited root else l.exited
                       former := l.formerBy root gen (· - 1) }
    let s := s.modLaunch ctx lslot (fun _ => l')
    let own := mkRef ctx lslot 0 root
    if n == 0 then
      let above := ((rootGroups ctx lslot l root).drop 1).filter s.exited
      (s.sendExit own gen, (own, gen) :: above.map (fun r => (r, l'.groupGen r)))
    else if l'.livingIn root gen = 0 then (s.sendExit own gen, [(own, gen)])
    else (s, [])

/-- R371, R373: a task's end as its parent's JOIN will find it. -/
def State.childEnds (s : State) (ctx lslot : Nat) (path : Word) (killed : Bool) (g2 : Word)
    (cover : List Nat) : State :=
  let mark (m : Slot) : Slot :=
    if m.task.any (fun t => t.ref.ctx == ctx && t.ref.lslot == lslot) && m.children.any (fun c => c.path == path) then
      { m with children := m.children.map (fun (c : Child) =>
          if c.path == path then
            { c with done := true, killed := killed, g2 := if killed then 0 else g2, cover := cover } else c) }
    else m
  { s with cores := tmap (fun _ c => { c with
      slots := c.slots.map mark
      saved := tmap (fun _ (v : Saved) => { v with
        slots := v.slots.map (fun (x : SavedSlot) => { x with slot := mark x.slot }) }) c.saved }) s.cores }

-- sealing a core

/-- R145 step 5: what the seal of a core does to a queue register that is bound to it: a SEND is dead at once; a RECV
gets one error entry behind the words on their way. -/
def Binding.sealPeer (b : Binding) (isPeer : Bool) : Binding :=
  if isPeer && b.kind == 1 then { b with dead := true } else b

/-- The error entries that a slot's RECV endpoints get when core `core`, logical l12, is sealed. -/
def Slot.sealWords (m : Slot) (i : SlotId) (core l12 : Nat) : List Instr :=
  (upFrom 0 16).filterMap (fun q =>
    let b := m.qreg q
    if b.kind == 2 && b.peer.toNat == l12 then some (.channelWordArrive ⟨⟨i.core, i.slot, q⟩, ⟨core, b.pslot.toNat⟩⟩ b.gen none)
    else none)

/-- Tasks that wait at a core for a slot, as their roots and paths (R145). -/
def ArbQueue.each (a : ArbQueue) : List (Word × Job) :=
  a.jobs.flatMap (fun j => match j with
    | .run f n => (upFrom f n).map (fun t => (w64 t, Job.run t 1))
    | .child p pc g2 ids gen => [(p, .child p pc g2 ids gen)]
    | .again t gen => [(w64 t, .again t gen)])
def ArbQueue.tasks (a : ArbQueue) : List Word := a.each.map Prod.fst

/-- The job that starts a task again at its entry (R147). -/
def Task.job (t : Task) (ids : List Word) : Job :=
  if depthOf t.ref.path = 0 then .again (rootOf t.ref.path) t.gen else .child t.ref.path t.entry t.arg ids t.gen

/-- R147: the generation of the level-0 group that a waiting task belongs to, and the job for a new one. -/
def Job.gen (l : Launch) : Job → Nat
  | .run t _ => l.genOf t
  | .child _ _ _ _ g => g
  | .again _ g => g
def Job.anew (g : Nat) : Job → Job
  | .run t _ => .again t g
  | .child p pc g2 ids _ => .child p pc g2 ids g
  | .again t _ => .again t g

/-- The task record of a launch's task (R81, R83, R84). -/
def mkTask (l : Launch) (ctx lslot : Nat) (path : Word) (lead : Nat) (trailing : Bool) : Task :=
  { ref := ⟨ctx, lslot, path⟩, lead := lead, n := l.n, trailing := trailing, sup := false, supDie := 0
    lmb := field l.kcb 0x10 4, abb := field l.kcb 0x14 4, wbb := field l.kcb 0x18 4, cbb := field l.kcb 0x1C 4
    handle := field l.record 0x88 4, kcb := w64 (field l.record 0x08 8), zlive := sfield l.kcb 0x24 4
    maxfork := byteAt l.kcb 0x0D, restart := l.restart, nlvl := l.nlvl
    entry := w64 (field l.kcb 0 8 + field l.record 0 4), arg := 0, gen := l.genOf (rootOf path), life := 0 }

/-- A task that waits at a core for a slot. -/
def waitingTask (l : Launch) (ctx lslot : Nat) (p : Word × Job) : Task :=
  { mkTask l ctx lslot p.1 0xFF false with gen := p.2.gen l }

/-- One killed task ended, recorded for its launch and noted for its report (R125, R145 to R147). -/
def State.killTask (s : State) (core : Nat) (t : Task) (slot : Nat) (job : Job) (cause : BitVec 8)
    (causing : Bool) (xpc xval : Word) : State :=
  let ctx := t.ref.ctx
  let l12 := ((s.ctx ctx).logical core).getD core
  let cover := ((s.core core).slot slot).cover
  let s := s.modLaunch ctx t.ref.lslot (fun l => { l with covers := setUnion l.covers cover })
  let s := if t.sup then s.modLaunch ctx t.ref.lslot (fun l => { l with
        sups := tset l.sups t.supDie ⟨(tget l.sups ⟨none, true, true⟩ t.supDie).place, true, true⟩ })
      else s.modLaunch ctx t.ref.lslot (fun l => { l with
        killed := l.killed ++ [(t.ref.path, core, false, job)] })
  let sup := mkSup ctx t.ref.lslot t.supDie
  let (s, refs) := if t.sup then (s.sendExit sup 0, [(sup, 0)]) else s.taskEnds ctx t.ref.lslot t.ref.path t.gen
  let s := if t.sup then s else s.childEnds ctx t.ref.lslot t.ref.path true 0 cover
  let note : KillNote := ⟨t, cause, slot, causing, if causing then xpc else 0, if causing then xval else 0,
    BitVec.ofNat 12 l12, refs⟩
  (s.modCore core (fun c => { c with kills := c.kills ++ [note] })).post (.killedReport core)

/-- Whether the slot still runs the task that issued an engine operation. -/
def State.sameTask (s : State) (i : SlotId) (t : Option TaskRef) : Bool :=
  (s.slot i).task.map (·.ref) == t && (s.slot i).status != .ending

/-- Whether a queue register of the slot is bound to an engine endpoint (R115). -/
def State.bound (s : State) (i : SlotId) (kind : Nat) : Bool :=
  (upFrom 0 16).any (fun q => ((s.slot i).qreg q).kind.toNat == kind)

/-- R115: whether the result FIFO of a slot's engine endpoint has room for a word. -/
def State.resultRoom (s : State) (i : SlotId) (kind : Nat) (t : Option TaskRef) : Bool :=
  (s.core i.core).sealed.isSome || !s.sameTask i t || !s.bound i kind || ((s.slot i).fifoOf kind).res.length < 8

/-- R115: whether a copy engine is kept from its next command by a finished one that finds no room for its result word. -/
def State.copyStalls (s : State) (core : Nat) : Bool :=
  (s.core core).copy.any (fun c => c.finished && c.pushed && !s.resultRoom ⟨core, c.slot⟩ 5 c.task)

/-- R306: a unit that a vector command may still be adding to. -/
def State.vecOpen (s : State) (u : UnitWrite) : Bool :=
  match u.owner with
  | .engine core slot kind => kind == kVEC && !s.unitWrites.any (fun v => v.owner == u.owner && u.id < v.id)
      && (s.core core).vec.any (fun v => v.slot == slot && v.started && !v.finished)
  | _ => false

/-- R145, R148, R156: whether a write is one of an engine of a core. The Jig is a unit of the die. -/
def WriteOwner.ofCore (o : WriteOwner) (core : Nat) : Bool :=
  match o with
  | .engine c _ kind => c == core && kind != kJIG
  | .flow _ _ => false

/-- R145: a core is sealed. Slots stop, chunks without a grant are discarded, engines stop and what they have on its way is
not written (R148, notes/assumptions/48.md), endpoints and inbox are sealed, peers learn of it, and every task of the core is
killed. -/
def State.seal (s : State) (core : Nat) (cause : BitVec 8) (causing : Option Nat) (xpc xval : Word) : State :=
  if (s.core core).sealed.isSome then s else
  let old := s.core core
  let ctx := old.tenant.toNat
  let l12 := ((s.ctx ctx).logical core).getD core
  let owners := (upFrom 0 8).filterMap (fun n =>
    match (old.slot n).task with
    | some t => if t.trailing then none else some (n, t)
    | none => none)
  let waiting := old.queues.flatMap (fun a => a.each.map (fun p => (a, p)))
  -- steps 1, 2, 3 and 5 on the core itself
  let s := s.modCore core (fun c => { c with
    sealed := some cause
    slots := c.slots.map (fun m => { m with
      status := .sealed, chunks := [], returns := [], removed := [], taken := [], pulled := [], wait := none, resume := none, trap := none
      lvq := [], cmp := [], q := Vector.replicate 16 Binding.unbound })
    sfuQ := [], sfuRun := [], tens := [], vec := [], copy := [], inbox := [], queues := [], granQ := [] })
  let s := { s with unitWrites := s.unitWrites.filter (fun u => !u.owner.ofCore core)
                    signals := s.signals.filter (fun e => !e.owner.ofCore core) }
  -- what waits on this core's granules gets an error (R114)
  -- R148: messages that its NIs have not begun to send are dropped; what waits for its inbox is mail (R138)
  let s := { s with cores := tmap (fun _ (c : Core) => { c with
    niWait := c.niWait.filter (fun (e : Option SlotId × Dest × Msg) => !e.1.any (fun (i : SlotId) => i.core == core)) }) s.cores }
  let s := (s.modCore core (fun c => { c with niWait := [] })).postAll
    (old.niWait.map (fun (e : Option SlotId × Dest × Msg) => Instr.inboxDeliver e.1 e.2.1 e.2.2))
  let s := old.granQ.foldl (fun (s : State) (w : GranWait) => if w.pkt.isNone && w.who.core == core then s else
    if w.result.isSome then s.modCore core (fun c => { c with granQ := c.granQ ++ [w] }) else s.granAnswer core w 0 0x0A) s
  -- step 5 at the peers
  let s := s.allSlots.foldl (fun (s : State) (i : SlotId) => if i.core == core then s else
    if (s.core i.core).tenant.toNat == ctx then
      let words := (s.slot i).sealWords i core l12
      (s.modSlot i (fun m => { m with q := m.q.map (fun b => b.sealPeer (b.peer.toNat == l12)) })).postAll words
    else s) s
  -- step 6
  let s := owners.foldl (fun s (n, t) =>
    let isCause := causing == some n || (t.n == 2 && causing == some (n + 4))
    let ids := (old.slot n).ids.toList
    s.killTask core t t.lead (t.job ids) cause isCause xpc xval) s
  waiting.foldl (fun s (a, p) =>
    match s.launch a.ctx a.lslot with
    | none => s
    | some l => s.killTask core (waitingTask l a.ctx a.lslot p) 0xFF p.2 cause false 0 0) s

-- traps

/-- R139 steps 4 and 5, R141, R144: the saved registers written and the slot at XVEC in supervisor mode; a trap with
XVEC = 0 or inside a handler seals the core. -/
def State.enterTrap (s : State) (i : SlotId) (c : Cause) (val pc : Word) : State :=
  let m := s.slot i
  if m.arch.xvec = 0 || m.arch.trapped then s.seal i.core c.code (some i.slot) pc val
  else s.setSlot i { m with
    status := .ready, trap := none, wait := none, resume := none, queued := false, sent := false
    supBefore := m.arch.sup, removed := m.removed ++ m.taken, taken := []
    arch := { m.arch with
      xcause := c.code.setWidth 64, xval := val, xpc := pc, trapped := true, sup := true, pc := m.arch.xvec } }

/-- R120: a trapping or stopped slot's SFU requests leave the queue and are kept in queue order; their destinations are
no longer pending. -/
def State.pullSfu (s : State) (i : SlotId) : State :=
  let c := s.core i.core
  let mine := (c.sfuRun.filter (fun r => r.1.slot == i.slot && !r.1.dropped)).map Prod.fst
    ++ c.sfuQ.filter (fun r => r.slot == i.slot)
  let s := s.modCore i.core (fun c => { c with
    sfuQ := c.sfuQ.filter (fun r => r.slot != i.slot), sfuRun := c.sfuRun.filter (fun r => r.1.slot != i.slot) })
  s.modSlot i (fun m => { m with taken := m.taken ++ mine, returns := m.returns.filter (fun r => !r.sfu) })

/-- R142, R155, R179: the open chunk is cut before the present instruction, and a series of one-instruction chunks ends. -/
def Slot.closeChunk (m : Slot) : Slot :=
  { m with chunks := (m.chunks.filter (fun c => c.count != 0)).map (fun c => { c with closed := true }), serial := 0 }

/-- R136, R153: a slot's place in every queue that its wait joined is removed (granules here; SYE queues in Sync). -/
def State.leaveGranules (s : State) (i : SlotId) : State :=
  { s with cores := s.cores.map (fun e => (e.1, { e.2 with granQ := e.2.granQ.filter (fun w => w.pkt.isSome || w.who != i) })) }

/-- R140: XVAL of a mismatch: the address of the leading effect where it has one, else its operation number. -/
def Effect.xval (e : Effect) : Word := if e.op ≤ 2 || 0x500 ≤ e.op then e.args.headD 0 else w64 e.op

/-- R122, R146: a pair seals its core with the leading effect at fault, or with the instruction where its threads part. -/
def State.sealMismatch (s : State) (i : SlotId) (e : Option Effect) (pc val : Word) : State :=
  match e with
  | some e => s.seal i.core Cause.mismatch.code (some i.slot) e.pc e.xval
  | none => s.seal i.core Cause.mismatch.code (some i.slot) pc val

/-- R139: taking a trap. The instruction has no effect, the chunk is cut, SFU requests leave the queue; the handler is
entered at once when no value is returning and no chunk is uncommitted, and by TRAP_ENTRY otherwise (R106, R142). A
thread of a redundant pair waits for the other's trap (R123); a trailing thread that traps where the leading thread
went on seals the core (R122). -/
def State.takeTrap (s : State) (i : SlotId) (c : Cause) (val pc : Word) : State :=
  let s := (s.pullSfu i).modSlot i (fun m =>
    let m := { m.closeChunk with wait := none, resume := none, queued := false, sent := false, 
                                 cmp := m.cmp.filter (fun e => !e.matched) }
    if c = .hazard then m.count 5 1 else m)
  let m := s.slot i
  let waiting := s.setSlot i { m with status := .trapping, trap := some (c, val, pc) }
  match s.partner i with
  | some j =>
    let o := s.slot j
    if (m.task.any (·.trailing)) && (m.issued < o.issued || o.cmp.any (fun e => !e.matched)) then
      s.sealMismatch i (o.cmp.find? (fun e => !e.matched)) pc val
    else waiting
  | none => if m.returns.isEmpty && m.chunks.isEmpty then s.enterTrap i c val pc else waiting

/-- R141, R379: returning from a trap: TRAPPED cleared, SUP as before the trap, removed SFU requests at the tail of the
queue with their destinations pending, and the slot at XPC. -/
def State.returnTrap (s : State) (i : SlotId) : State :=
  let m := s.slot i
  let s := s.setSlot i { m with
    removed := [], arch := { m.arch with trapped := false, sup := m.supBefore, pc := m.arch.xpc } }
  s.requeue i (m.removed.map (fun r => { r with chunk := none }))

-- issuing an instruction

/-- What an instruction's own effect comes to: done, a trap (R4), or a wait at the instruction (R3 PARK). -/
inductive Res where
  | done (s : State)
  /-- Done, with what follows held back until every returning value has been written (R353). -/
  | acquired (s : State)
  | trap (c : Cause) (val : Word)
  | park (w : Wait) (s : State)

/-- What the words say of an instruction beside its effect: the S bit, the length L in words, the codes of the
registers read and written (R105), whether it is synchronising (R175), whether its result comes from outside a
redundant pair (R121), the effect a pair compares (R122): an operation number and its operands, and whether each thread
performs it on its own slot once it has matched. -/
structure Info where
  s : Bool
  len : Nat
  reads : List Nat
  writes : List Nat
  sync : Bool
  ext : Bool
  eff : Option (Nat × List Word)
  both : Bool

def Wait.poll : Wait := ⟨false, false, 0, 0, false, false, false⟩
/-- The wait of a release for the writes that it covers. -/
def Wait.forCover : Wait := { Wait.poll with release := true }
def Wait.restartable (val : Word) : Wait := ⟨false, true, val, 0, false, false, false⟩
def Wait.regsPending : Wait := ⟨true, false, 0, 0, false, false, false⟩

/-- R105 rule 1: the first pending register that the instruction reads or writes. -/
def Slot.hazard (m : Slot) (codes : List Nat) : Option Nat :=
  codes.find? (fun c => c != 0 && m.pendingCodes.contains c)

/-- Whether the value of a register read is there to be tested: it is not pending and its parity is good. -/
def Slot.readable (m : Slot) (a : Reg) : Bool := a = 0 || (!m.pendingCodes.contains (codeG a) && !m.parity.contains (codeG a))

/-- R140, R388: the first register read whose parity is bad. -/
def Slot.soft (m : Slot) (reads : List Nat) : Option Nat := reads.find? (fun c => c != 0 && m.parity.contains c)

/-- R179: a chunk that was squashed 4 times in a row opens as a series of one-instruction chunks. -/
def Slot.startSeries (m : Slot) : Slot :=
  let e := tget m.streaks (0, 0) m.chunkNo
  if m.serial = 0 && 4 ≤ e.1 then { m with serial := e.2, streaks := [] } else m

/-- R179: whether the next instruction forms a chunk of a series, which opens only behind a committed one. -/
def Slot.inSeries (m : Slot) : Bool :=
  m.chunks.all (·.closed) && (m.serial != 0 || 4 ≤ (tget m.streaks (0, 0) m.chunkNo).1)

/-- R179: a chunk of a series that has read memory holds the grants of the dies that it touches. -/
def Slot.holdsGrants (m : Slot) : List Nat :=
  match m.chunks with
  | c :: _ => if c.serial && !c.reads.isEmpty then
      c.reads.map (fun l => paCore (l * 64) / 1024) ++ c.writes.map (fun w => paCore w.1 / 1024) else []
  | [] => []

/-- R179: the dies whose grants slots other than `i` hold. -/
def State.grantsHeld (s : State) (i : SlotId) : List Nat :=
  s.allSlots.flatMap (fun j => if j == i then [] else (s.slot j).holdsGrants)

/-- R174, R175: the slot's open chunk, opened with the registers as they stand if there is none. -/
def Slot.openChunk (m : Slot) : Slot :=
  if m.chunks.any (fun c => !c.closed) then m
  else
    let m := m.startSeries
    let lim := if m.serial = 0 then m.arch.chunkmax.toNat else 1
    { m with chunkNo := m.chunkNo + 1
             chunks := m.chunks ++ [⟨m.chunkNo, m.arch, 0, lim, [], [], [], [], [], false, false, m.serial != 0, []⟩] }

/-- The open chunk changed. -/
def Slot.modOpen (m : Slot) (f : Chunk → Chunk) : Slot :=
  { m with chunks := m.chunks.map (fun c => if c.closed then c else f c) }

/-- The present instruction noted as a place where its chunk may be cut: the first store of a probe, or a load. -/
def Slot.addCut (m : Slot) (key : Nat) (pc : Word) : Slot :=
  m.modOpen (fun c =>
    if c.cuts.any (fun k => k.key == key) then c
    else { c with cuts := c.cuts ++
      [⟨key, { m.arch with pc := pc }, c.count, c.writes, c.pushes.length, c.assay.length, m.lvqNo, m.cmp⟩] })

/-- R175: the instruction counted, and the chunk ended at its CHUNKMAX-th. -/
def Slot.countIn (m : Slot) : Slot :=
  let m := m.modOpen (fun c => { c with count := c.count + 1, closed := c.limit ≤ c.count + 1 })
  if m.chunks.any (fun c => !c.closed) then m else { m with serial := m.serial - 1 }

/-- The number of the chunk that is open. -/
def Slot.openNo (m : Slot) : Option Nat := (m.chunks.find? (fun c => !c.closed)).map (·.no)

/-- R103, R105 rule 3: after the instruction, the slot is ready, or parked by the S bit until nothing is pending. A slot
that its instruction has halted, stopped or ended stays so. -/
def Slot.afterIssue (m : Slot) (sBit : Bool) : Slot :=
  let m := { m.count 0 1 with wait := none, resume := none, queued := false, sent := false }
  let going := m.status = .ready || m.status = .parked
  if sBit && m.anyPending && going then { m with status := .parked, wait := some Wait.regsPending }
  else if going then { m with status := .ready } else m

/-- R105 rule 3: a slot parked by its S bit resumes when none of its registers is pending. -/
def Slot.settle (m : Slot) : Slot :=
  if !m.anyPending && m.status = .parked && m.wait.any (·.regs) then { m with status := .ready, wait := none } else m

/-- A wait at the present instruction: its PC stands, its count goes on if it waited before. -/
def Slot.parkAt (m : Slot) (pc : Word) (w : Wait) : Slot :=
  let n := match m.wait with | some v => if v.regs then 0 else v.count | none => 0
  { m with status := .parked, wait := some { w with count := n }, arch := { m.arch with pc := pc }
           chunks := m.chunks.filter (fun c => c.count != 0)
           chunkNo := m.chunkNo - (m.chunks.filter (fun c => c.count == 0)).length }

/-- What the trailing thread finds of an effect in the comparator (R122): nothing yet, a match, or a difference. -/
def Effect.firstOpen (es : List Effect) : Option Effect := es.find? (fun e => !e.matched)

/-- R122: the trailing thread's effect matched with the leading thread's oldest unmatched one; a plain store then
enters the leading thread's write-collect buffer. None when there is nothing to compare with; a difference seals. -/
def State.matchEffect (s : State) (lead : SlotId) (op : Nat) (args : List Word) : Option State :=
  match Effect.firstOpen (s.slot lead).cmp with
  | none => none
  | some e =>
    if e.op == op && e.args == args then
      some (s.modSlot lead (fun m =>
        let cmp := if e.store.isEmpty
          then m.cmp.map (fun x => if x == e then { x with matched := true } else x)
          else m.cmp.erase e
        { m with cmp := cmp, chunks := m.chunks.map (fun c =>
            if c.no == e.chunk then { c with writes := memSetAllRaw c.writes e.store } else c) }))
    else some (s.sealMismatch lead (some e) 0 0)
where
  /-- Bytes put over bytes. -/
  memSetAllRaw (w : List (Nat × Byte)) (cells : List (Nat × Byte)) : List (Nat × Byte) :=
    cells.foldl (fun w c => tset w c.1 c.2) w

/-- R121: the leading thread's result enters the load-value queue: at once if it is written, with its return if it is
pending; `ch` is the chunk it was issued in. -/
def State.pushLvq (s : State) (i : SlotId) (ch : Option Nat) (dest : Option Nat) : State :=
  s.modSlot i (fun m =>
    let no := m.lvqNo
    let pend := match dest with | some c => m.pendingCodes.contains c | none => false
    let v : Word := match dest with
      | some c => if c < 32 then m.arch.getG (BitVec.ofNat 5 c)
                  else if c < 64 then (m.arch.getF (BitVec.ofNat 5 c)).setWidth 64 else 0
      | none => 0
    { m with
      lvqNo := no + 1
      lvq := m.lvq ++ [⟨no, ch, !pend, v, 0, none, m.arch.brv⟩]
      returns := if pend then m.returns.map (fun r =>
          if some r.reg.toNat == dest && r.tag.isNone then { r with tag := some no } else r) else m.returns })

/-- R121: the head of the load-value queue written to the trailing thread's destination. -/
def State.popLvq (s : State) (i lead : SlotId) (dest : Option Nat) : Option State :=
  match (s.slot lead).lvq with
  | e :: rest =>
    if e.ready then
      let s := s.modSlot lead (fun m => { m with lvq := rest })
      some (s.modSlot i (fun m =>
        let m := match dest with
          | some c => if c < 32 then m.setG (BitVec.ofNat 5 c) e.value
                      else if c < 64 then m.setF (BitVec.ofNat 5 c) (e.value.setWidth 32) else m
          | none => m
        { m with arch := { m.arch with
            fstat := m.arch.fstat ||| e.flags, brv := e.brv
            bereaved := match e.bereaved with | some b => mergeBereaved m.arch.bereaved b | none => m.arch.bereaved } }))
    else none
  | [] => none

/-- The effect of an instruction that completes: counted in its chunk, its S bit obeyed. -/
def State.complete (s : State) (i : SlotId) (info : Info) : State :=
  s.modSlot i (fun m => ({ (if info.sync then m else m.countIn) with issued := m.issued + 1 } : Slot).afterIssue info.s)

/-- How the effect of an issued instruction came out. -/
inductive Ran where
  | done | trapped | waiting
  deriving DecidableEq, Repr

/-- The slot past the instruction's words, its chunk open if the instruction is chunked. -/
def State.advance (s : State) (info : Info) : State :=
  s.modMe (fun m =>
    let m := if info.sync then m else m.openChunk
    { m with arch := { m.arch with pc := m.arch.pc + w64 (2 * info.len) } })

/-- Issue by a slot that is no thread of a pair, or by the leading thread once its effect has matched. -/
def State.issueBody (s : State) (info : Info) (body : State → Res) : State × Ran :=
  let i := s.cur
  let pc := s.pc
  match body (s.advance info) with
  | .done s2 => (s2.complete i info, .done)
  | .acquired s2 => (s2.complete i { info with s := true }, .done)
  | .trap c v => (s.takeTrap i c v pc, .trapped)
  | .park w s2 => (s2.modSlot i (fun m => m.parkAt pc w), .waiting)

/-- R123: the trailing thread's chunk ends where the leading thread's chunk of the same number ended. -/
def Slot.mirror (m lead : Slot) : Slot :=
  m.modOpen (fun c => { c with closed := lead.chunks.any (fun d => d.no == c.no && d.closed && d.count == c.count) })

/-- Issue by the trailing thread of a redundant pair (R121 to R123). A value from outside comes from the load-value
queue; an effect is matched first, and a synchronising one waits until the leading thread has performed it; a trap that
the leading thread took at the same instruction is taken too. -/
def State.issueTrailing (s : State) (info : Info) (body : State → Res) : State :=
  let i := s.cur
  let pc := s.pc
  let lead : SlotId := ⟨i.core, i.slot - 4⟩
  let o := s.slot lead
  let s := s.modSlot i (fun m => m.mirror o)
  let wait (s : State) : State := s.modSlot i (fun m => m.parkAt pc Wait.poll)
  let stored (s : State) : State :=
    ((s.advance info).modSlot i (fun m => m.addCut (placeKey m.openCount) pc)).complete i info
  let finish (s : State) : State :=
    if info.both then (s.issueBody info body).1
    else if info.ext then
      match s.popLvq i lead info.writes.head? with
      | none => wait s
      | some s => (s.advance info).complete i info
    else (s.advance info).complete i info
  match (if o.status = .trapping && o.issued = s.me.issued then o.trap else none) with
  | some (c, v, p) => s.takeTrap i c v p
  | none =>
    match info.eff with
    | none => if info.ext then finish s else (s.issueBody info body).1
    | some (op, args) =>
      if s.me.queued then (if o.cmp.any (·.matched) then wait s else finish s)
      else if (Effect.firstOpen o.cmp).isNone && o.status = .trapping then
        s.sealMismatch lead none (match o.trap with | some t => t.2.2 | none => pc) (w64 op)
      else match s.matchEffect lead op args with
        | none => wait s
        | some s =>
          if (s.core i.core).sealed.isSome then s
          else if op = 0 then stored s
          else s.modSlot i (fun m => ({ m with queued := true } : Slot).parkAt pc Wait.poll)

/-- Issue by the leading thread of a redundant pair: an effect other than a plain store waits in the comparator until
it is matched and is then performed; what the pair obtains from outside enters the load-value queue. -/
def State.issueLeading (s : State) (info : Info) (body : State → Res) : State :=
  let i := s.cur
  let pc := s.pc
  let wait (s : State) : State := s.modSlot i (fun m => m.parkAt pc Wait.poll)
  let run (s : State) : State × Ran :=
    if info.ext && 64 ≤ s.me.lvq.length then (wait s, .waiting)
    else
      let (s', r) := s.issueBody info body
      let ch := if info.sync then none else some (s.me.openNo.getD s.me.chunkNo)
      if info.ext && r = .done then (s'.pushLvq i ch info.writes.head?, r) else (s', r)
  match info.eff with
  | none => (run s).1
  | some (op, args) =>
    if op = 0 then (run s).1        -- a plain store puts itself into the comparator
    else match s.me.cmp.find? (fun e => e.op == op && e.args == args && e.matched) with
      | some e =>
        let (s', r) := run s
        let s' := if r = .waiting then s' else s'.modSlot i (fun m => { m with cmp := m.cmp.erase e })
        if r = .trapped then
          match (s'.slot i).trap with
          | some (c, v, p) => s'.takeTrap ⟨i.core, i.slot + 4⟩ c v p
          | none => s'
        else s'
      | none =>
        if s.me.queued || 32 ≤ s.me.cmp.length then wait s
        else s.modSlot i (fun m =>
          ({ m with queued := true, cmp := m.cmp ++ [⟨op, args, pc, [], m.openNo.getD m.chunkNo, false⟩] } : Slot).parkAt pc Wait.poll)

/-- R179: a one-instruction chunk of a series opens once the chunks before it have committed and no other slot holds grants
for a series of its own. -/
def State.seriesWaits (s : State) (i : SlotId) : Bool :=
  let m := s.slot i
  m.inSeries && !m.task.any (·.trailing) && (!m.chunks.isEmpty || !(s.grantsHeld i).isEmpty)

/-- Issuing an instruction: the checks in the order of R139 (ILLEGAL and PRIV found by `pre`, then HAZARD, then SOFT),
a synchronising instruction only once every earlier chunk has committed (R177), then its effect. -/
def issue (s : State) (info : Info) (pre : Option (Cause × Word)) (body : State → Res) :
    Host.Outcome State Fault Refusal :=
  let i := s.cur
  let m := s.me
  match pre with
  | some (c, v) => .next (s.takeTrap i c v s.pc)
  | none =>
    if info.sync && !m.chunks.isEmpty then
      .next (s.modSlot i (fun m => (m.closeChunk).parkAt s.pc Wait.poll))
    else if !info.sync && s.seriesWaits i then .next (s.modSlot i (fun m => m.parkAt s.pc Wait.poll))
    else match m.hazard (info.reads ++ info.writes) with
      | some code => .next (s.takeTrap i .hazard (w64 code) s.pc)
      | none =>
        match m.soft info.reads with
        | some code => .next (s.takeTrap i .soft (w64 code) s.pc)
        | none =>
          match m.task with
          | some t =>
            if t.n = 2 then .next (if t.trailing then s.issueTrailing info body else s.issueLeading info body)
            else .next (s.issueBody info body).1
          | none => .next (s.issueBody info body).1

end Sys2Proof.Machine
end

