-- ==== Sys2Proof/Machine/Fetch.lean ====
section
/-!
DEFINITION. Page translation at the home (R166) and instruction fetch (R251, R255).
-/
namespace Sys2Proof.Machine

/-- R166: the map entries of a context in a core, valid ones with a frame below 48, lowest number first. -/
def Core.entryFor (c : Core) (ctx vpn : Nat) : Option (BitVec 32) :=
  ((upFrom 0 64).map (fun i => tget c.pageMap 0 (64 * ctx + i))).find? (fun e =>
    bits e.toNat 31 31 == 1 && bits e.toNat 19 0 == vpn && bits e.toNat 25 20 < 48)

/-- R8, R76: whether a core is neither fused nor, for this context, retired; the channel controller of one that is answers
nothing. -/
def State.coreExists (s : State) (ctx core : Nat) : Bool :=
  let d := s.die (core / 1024)
  d.hmap.getLsbD (core % 1024) || d.kept.contains (ctx, core % 1024)

/-- R166: the physical key of a BM offset at its home, with the W bit. The BM of a fused or retired core has no page
(R8; notes/assumptions/50.md). -/
def State.bmKey (s : State) (home ctx off : Nat) : Option (Nat × Bool) :=
  if !s.coreExists ctx home then none else
  match (s.core home).entryFor ctx (bits off 40 21) with
  | some e => some (pa spBM home (bits e.toNat 25 20 * 2 ^ 21 + off % 2 ^ 21), bits e.toNat 26 26 == 1)
  | none => none

-- the fields of a global address (R162)

def gaPkg (a : Nat) : Nat := bits a 63 56
def gaDie (a : Nat) : Nat := bits a 55 54
def gaY (a : Nat) : Nat := bits a 53 49
def gaX (a : Nat) : Nat := bits a 48 44
def gaSpace (a : Nat) : Nat := bits a 43 41
def gaOff (a : Nat) : Nat := bits a 40 0
/-- The logical core in the form of ID.CORE bits 11:0. -/
def gaCore (a : Nat) : Nat := gaX a + 32 * gaY a + 1024 * gaDie a
/-- A global address from its fields. -/
def gaOf (pkg core12 sp off : Nat) : Nat :=
  off % 2 ^ 41 + 2 ^ 41 * sp + 2 ^ 44 * (core12 % 32) + 2 ^ 49 * (core12 / 32 % 32) + 2 ^ 54 * (core12 / 1024 % 4)
    + 2 ^ 56 * pkg

/-- R15, R163: the tests that raise COORD for a space that uses X and Y, and for another package. -/
def State.coordOk (s : State) (ctx ga : Nat) : Bool :=
  let c := s.ctx ctx
  if gaPkg ga == s.pkg.toNat then
    match gaSpace ga with
    | 5 => bits ga 40 40 == 1 || c.hasWin (gaDie ga)
    | 6 => true
    | 7 => true
    | _ => (c.phys (gaCore ga)).isSome
  else gaSpace ga != 6 && gaSpace ga != 7 && c.reach.getLsbD (gaPkg ga)

/-- R255: the key of one instruction word, or the trap its fetch raises. -/
def State.fetchKey (s : State) (ctx addr : Nat) : Except (Cause × Word) Nat :=
  let bad (c : Cause) : Except (Cause × Word) Nat := .error (c, w64 addr)
  if addr % 2 ≠ 0 then bad .align
  else if gaPkg addr ≠ s.pkg.toNat || !s.coordOk ctx addr then bad .coord
  else if gaSpace addr ≠ spBM then bad .space
  else match (s.ctx ctx).phys (gaCore addr) with
    | none => bad .coord
    | some home => match s.bmKey home ctx (gaOff addr) with
      | some (k, false) => if (s.die (home / 1024)).fenced then .error (.fenced, w64 (0x100 + gaDie addr)) else .ok k
      | _ => bad .xlate

/-- The words from an address up to the first that cannot be fetched, at most `n`, and that word's trap. -/
def State.fetchWords (s : State) (ctx addr : Nat) : Nat → List Half × Option (Cause × Word)
  | 0 => ([], none)
  | n + 1 =>
    match s.fetchKey ctx addr with
    | .error e => ([], some e)
    | .ok k =>
      let (ws, e) := s.fetchWords ctx ((addr + 2) % 2 ^ 64) n
      (BitVec.ofNat 16 (s.num k 2) :: ws, e)

/-- What a slot finds at its PC: an instruction, or the trap of R251, R252 or R255. -/
def State.fetch (s : State) (i : SlotId) : Except (Cause × Word) Instr :=
  let ctx := (s.core i.core).tenant.toNat
  let (ws, e) := s.fetchWords ctx (s.slot i).arch.pc.toNat 5
  match decode ws with
  | .ok ins => .ok ins
  | .error .truncated => .error (e.getD (.illegal, (ws.headD 0).setWidth 64))
  | .error _ => .error (.illegal, (ws.headD 0).setWidth 64)

/-- The size of an instruction-cache line and the number of lines of 16 KiB: no part of the architecture (R404), they
decide only ICMISS and when a slot parks for a line (notes/assumptions/5.md). -/
def icLine (k : Nat) : Nat := k / 64
def icLines : Nat := 256

/-- The cache lines that the words of an instruction at a slot's PC lie in. -/
def State.icNeeds (s : State) (i : SlotId) (len : Nat) : List Nat :=
  let ctx := (s.core i.core).tenant.toNat
  let pc := (s.slot i).arch.pc.toNat
  (upFrom 0 len).filterMap (fun n => (s.fetchKey ctx (pc + 2 * n)).toOption.map icLine)

/-- R103: the lines of the slot's PC that the cache lacks. -/
def State.icMiss (s : State) (i : SlotId) (len : Nat) : List Nat :=
  (s.icNeeds i len).filter (fun l => !(s.core i.core).icache.contains l)

end Sys2Proof.Machine
end

