-- ==== Sys2Proof/Machine/Flags.lean ====
section
/-!
DEFINITION. Flags and conditions: FSTAT and MSTAT flag bits (R201, R315), the comparisons of SET, BZ and MINMAX (R262,
R273), and exact integer division (R202). Integer results set no flag (R202, R262).
-/
namespace Sys2Proof.Machine

/-- The exception flags that an operation raises. -/
structure Fl where
  nv : Bool := false
  dz : Bool := false
  of : Bool := false
  uf : Bool := false
  nx : Bool := false
  deriving DecidableEq, Repr

def Fl.or (a b : Fl) : Fl := ⟨a.nv || b.nv, a.dz || b.dz, a.of || b.of, a.uf || b.uf, a.nx || b.nx⟩
def Fl.none : Fl := {}
/-- NV, DZ, OF, UF, NX in bits 4:0, the order of R308 and R310. -/
def Fl.bits (f : Fl) : Nat := f.nv.toNat + 2 * f.dz.toNat + 4 * f.of.toNat + 8 * f.uf.toNat + 16 * f.nx.toNat
def Fl.word (f : Fl) : Word := w64 f.bits
/-- NV, OF, UF, NX in bits 3:0, the order of MSTAT (R315), a check record and a Jig completion (R229). -/
def Fl.bits4 (f : Fl) : Nat := f.nv.toNat + 2 * f.of.toNat + 4 * f.uf.toNat + 8 * f.nx.toNat

/-- The conditions of SET by COND (R262); 6 and 7 never decode. -/
def setCond (cond : BitVec 3) (x y : Word) : Bool :=
  match cond.toNat with
  | 0 => x == y
  | 1 => x != y
  | 2 => x.toInt < y.toInt
  | 3 => y.toInt ≤ x.toInt
  | 4 => x.toNat < y.toNat
  | _ => y.toNat ≤ x.toNat

/-- The conditions of BZ by COND (R273). -/
def bzCond (cond : BitVec 2) (x : Word) : Bool :=
  match cond.toNat with
  | 0 => x == 0
  | 1 => x != 0
  | 2 => x.toInt < 0
  | _ => 0 ≤ x.toInt

end Sys2Proof.Machine
end

