-- ==== Sys2Proof/Machine/Operands.lean ====
section
/-!
DEFINITION. Every operand form: immediates (R253), the second operand (R261), effective addresses with their checks
(R165, R269), the addresses of descriptors and records (R298 step 1), sync operands, atomic targets and objects
(R349), CF pages (R10 to R13), level-2 write checks (R171, R172), and the Info of each word layout.
-/
namespace Sys2Proof.Machine

-- immediates and second operands

/-- R253: the payloads as one number, the most significant first. -/
def imxNum (ws : Imx) : Nat := ws.foldl (fun v w => v * 512 + w.toNat) 0
/-- R253 without b: 9·m bits, sign-extended. -/
def imxVal (ws : Imx) : Int := sext (9 * ws.length) (imxNum ws)
/-- R253 with b: 9·m + 5 bits, sign-extended. -/
def immVal (i : ImmB) : Int := sext (9 * i.hi.length + 5) (imxNum i.hi * 32 + i.lo.toNat)

/-- R261: y. -/
def Src.val (y : Src) (s : State) : Word :=
  match y with
  | .reg c => s.g c
  | .imm ws => i64 (imxVal ws)
def Src.codes : Src → List Nat
  | .reg c => [codeG c]
  | .imm _ => []
def Src.n : Src → Nat
  | .reg _ => 0
  | .imm ws => ws.length

/-- An instruction that stays inside the slot's chunk: S bit, length, registers read and written. -/
def Info.chunked (sBit : Bool) (len : Nat) (reads writes : List Nat) : Info :=
  ⟨sBit, len, reads, writes, false, false, none, false⟩
/-- A synchronising instruction that is a matched effect of a redundant pair (R122): `op` names the operation. -/
def Info.synch (sBit : Bool) (len : Nat) (reads writes : List Nat) (ext : Bool) (op : Nat) (args : List Word) : Info :=
  ⟨sBit, len, reads, writes, true, ext, some (op, args), false⟩

/-- The length of a page 0 chain with an optional RGX word. -/
def len0 (h : Hdr) (m : Nat) : Nat := 1 + h.rgx.toNat + m
/-- The length of a chain with a PGX word and an optional RGX word. -/
def lenP (rgx : Bool) (m : Nat) : Nat := 2 + rgx.toNat + m

-- coordinates and other packages

/-- The physical die that an address of the own package lands on. -/
def State.dieOf (s : State) (ctx ga : Nat) : Nat :=
  match gaSpace ga with
  | 5 => (s.ctx ctx).physDie (gaDie ga)
  | 7 => (s.ctx ctx).physDie (gaDie ga)
  | _ => ((s.ctx ctx).phys (gaCore ga)).getD 0 / 1024

/-- R10, R164: whether an access of the own package meets a fenced die. -/
def State.fencedAt (s : State) (ctx ga : Nat) : Bool :=
  gaPkg ga == s.pkg.toNat && gaSpace ga != 6 && !(gaSpace ga == 5 && bits ga 40 40 == 1)
    && (s.die (s.dieOf ctx ga)).fenced

/-- Where an address leads once its checks have passed. -/
inductive Place where
  /-- A byte of the package under its key. -/
  | here (key : Nat)
  /-- A byte of a die's CF page. -/
  | cf (die off : Nat)
  /-- A byte of another package, by global address. -/
  | far (ga : Nat)
  deriving DecidableEq, Repr

/-- R112, R162, R166, R167: bounds and translation of an address of the own package, for a core's space. -/
def State.placeOf (s : State) (ctx ga : Nat) (write : Bool) : Option Place :=
  if gaPkg ga != s.pkg.toNat then some (.far ga)
  else
    let off := gaOff ga
    match gaSpace ga with
    | 0 => match (s.ctx ctx).phys (gaCore ga) with
      | some home => match s.bmKey home ctx off with
        | some (k, w) => if write && !w then none else some (.here k)
        | none => none
      | none => none
    | 5 => some (.here (pa spSY ((s.ctx ctx).physDie (gaDie ga)) off))
    | 6 => if off < (s.ctx ctx).hostLimit then some (.here (paHost ((s.ctx ctx).hostBase + off))) else none
    | 7 => some (.cf (gaDie ga) off)
    | sp => match (s.ctx ctx).phys (gaCore ga) with
      | some home => if off < bufSize sp then some (.here (pa sp home off)) else none
      | none => none

-- level 2 (R171, R172)

/-- R349: the holding identifier of an object address. -/
def objectHid (ga : Nat) : Nat :=
  match gaSpace ga with
  | 0 => ga / 2 ^ 21 * 2 ^ 21
  | 5 => ga
  | _ => ga / 2 ^ 41 * 2 ^ 41

/-- R171: the home's copy of an object's holder. -/
def State.holderOf (s : State) (ctx home : Nat) (hid : Nat) : Option Holder :=
  (s.core home).holders.find? (fun h => h.ctx == ctx && h.hid.toNat == hid)

/-- R172: whether a write to BM, LM or AB is accepted from a root task of a launch (or from a die's supervisor). -/
def State.mayWrite (s : State) (ctx lslot root : Nat) (sup : Bool) (supDie ga : Nat) : Bool :=
  if gaSpace ga ≤ 2 then
    match (s.ctx ctx).phys (gaCore ga) with
    | some home => match s.holderOf ctx home (objectHid ga) with
      | some h => s.inGroup h.ref ctx lslot root sup supDie
      | none => false
    | none => true
  else true

/-- R172: the check of a write by the issuing slot: level 2 only, supervisor mode exempt. -/
def State.capOk (s : State) (ga : Nat) : Bool :=
  let m := s.me
  if m.detlvl == 2 && !m.arch.sup && gaPkg ga == s.pkg.toNat then
    match m.task with
    | some t => s.mayWrite t.ref.ctx t.ref.lslot (rootOf t.ref.path) t.sup t.supDie ga
    | none => true
  else true

-- scalar effective addresses (R165, R269)

/-- Own die, x and y of the issuing core, from ID.CORE (R86). -/
def State.ownCore (s : State) : Nat := wbits ((s.me.ids[0]?).getD 0) 11 0

/-- R165: the absolute address of a relative one; none raises COORD. -/
def State.absolute (s : State) (a : Nat) : Option Nat :=
  if gaPkg a ≠ 0 then none else
  let own := s.ownCore
  let dd := sext 2 (gaDie a)
  let flat := gaSpace a == spHW || gaSpace a == spCF || gaSpace a == spSY
  let ya : Int := if flat then 0 else (own / 32 % 32 : Nat) + sext 5 (gaY a)
  let xa : Int := if flat then 0 else (own % 32 : Nat) + sext 5 (gaX a)
  let da : Int := (own / 1024 : Nat) + dd
  if da < 0 || 3 < da || xa < 0 || 31 < xa || ya < 0 || 31 < ya then none
  else some (gaOf s.pkg.toNat (xa.toNat + 32 * ya.toNat + 1024 * da.toNat) (gaSpace a) (gaOff a))

/-- R269: the address formed from base and displacement: the exact offset and ea. -/
def formEa (base : Word) (imm : Int) : Int × Nat :=
  let off : Int := (wbits base 40 0 : Nat) + imm
  (off, wbits base 63 41 * 2 ^ 41 + (off % (2 ^ 41 : Int)).toNat)

/-- R269: which spaces a scalar access reaches. -/
def scalarSpace (sp : Nat) (write qual : Bool) : Bool :=
  match sp with
  | 0 => !qual
  | 1 => true
  | 7 => !write && !qual
  | _ => false

/-- R269 to R271, R163, R172: the checks of a scalar access of k bytes, in the order of R139, and where it leads. -/
def State.scalarEa (s : State) (base : Word) (imm : Int) (k : Nat) (rc write qual : Bool) :
    Except (Cause × Word) (Place × Nat) :=
  let ctx := s.myCtx
  let (off, ea) := formEa base imm
  let rel := w64 ea
  if gaOff ea % k ≠ 0 then .error (.align, rel)
  else match (if rc then s.absolute ea else some ea) with
    | none => .error (.coord, rel)
    | some ga =>
      if !s.coordOk ctx ga then .error (.coord, rel)
      else if !scalarSpace (gaSpace ga) write qual then .error (.space, w64 ga)
      else if off < 0 || (2 ^ 41 : Int) ≤ off then .error (.xlate, w64 ga)
      else if gaPkg ga != s.pkg.toNat && gaSpace ga != spBM && bufSize (gaSpace ga) ≤ gaOff ga then
        .error (.xlate, w64 ga)
      else match s.placeOf ctx ga write with
        | none => .error (.xlate, w64 ga)
        | some p =>
          if write && !s.capOk ga then .error (.capfault, w64 ga)
          else if s.fencedAt ctx ga then .error (.fenced, w64 (0x100 + gaDie ga))
          else .ok (p, ga)

-- records and descriptors in the issuing core's LM (R298 step 1)

/-- R298 step 1: a record of n bytes in the issuing core's own LM, aligned: its LM offset. -/
def State.ownRecord (s : State) (a : Word) (align n : Nat) : Except (Cause × Word) Nat :=
  let ga := a.toNat
  if gaOff ga % align ≠ 0 then .error (.align, a)
  else if gaPkg ga ≠ s.pkg.toNat then .error (.coord, a)
  else if gaCore ga ≠ s.ownCore || gaSpace ga ≠ spLM then .error (.space, a)
  else if bufSize spLM < gaOff ga + n then .error (.xlate, a)
  else .ok (gaOff ga)

/-- The same for a record that the instruction writes, which a kernel at level 2 may write or not (R172). -/
def State.ownTarget (s : State) (a : Word) (align n : Nat) : Except (Cause × Word) Nat :=
  match s.ownRecord a align n with
  | .ok off => if s.capOk a.toNat then .ok off else .error (.capfault, a)
  | e => e

/-- The key of an offset of the issuing core's own buffer. -/
def State.ownKey (s : State) (sp off : Nat) : Nat := pa sp s.cur.core off

-- CF pages (R10 to R13)

/-- R10: a byte of the CF page that the reading context sees at a logical die. -/
def State.cfByte (s : State) (ctx d off : Nat) : Byte :=
  let c := s.ctx ctx
  let p := s.die (c.physDie d)
  if off < 4 then BitVec.ofNat 8 (4 / 2 ^ (8 * off))
  else if 0x8 ≤ off && off < 0x88 then p.hmap.extractLsb' (8 * (off - 0x8)) 8
  else if 0x88 ≤ off && off < 0x8C then
    let n := ((upFrom 0 1024).filter (fun i => p.hmap.getLsbD i)).length
    BitVec.ofNat 8 (n / 2 ^ (8 * (off - 0x88)))
  else if 0x100 ≤ off && off < 0x104 then
    BitVec.ofNat 8 ((c.wx d + 256 * c.wy d) / 2 ^ (8 * (off - 0x100)))
  else if 0x1000 ≤ off && off < 0x2000 && c.hasWin d then
    let e := (tget c.cte 0 (1024 * d + (off - 0x1000) / 4)).toNat
    let v := bits e 11 0 + 2 ^ 15 * bits e 15 15
    BitVec.ofNat 8 (v / 2 ^ (8 * (off % 4)))
  else 0

-- sync operands, atomic targets and objects (R349, R164)

/-- R164: the number of sync variables of a die. -/
def Die.vars (d : Die) : Nat := 262144 + d.novf

/-- R164: the key of a sync variable's data bytes: in the SYE's SRAM, or in the overflow area in BM. -/
def State.varKey (s : State) (die v : Nat) : Nat :=
  if v < 262144 then pa spSY die (16 * v) else (s.die die).ovfBase + 16 * (v - 262144)

/-- A sync variable by physical die and number. -/
structure VarId where
  die : Nat
  v : Nat
  deriving DecidableEq, Repr

/-- R164: whether a sync operand names a variable beyond the overflow area of its die. -/
def State.beyondVars (s : State) (a : Word) : Bool :=
  (s.die ((s.ctx s.myCtx).physDie (gaDie a.toNat))).vars ≤ gaOff a.toNat / 16

/-- R15, R164, R349, R346: the checks of a sync operand in the order of R139. A variable beyond the overflow area of a live die
is answered `none`, for operations that report it later (R164). -/
def State.syncOperand (s : State) (a : Word) : Except (Cause × Word) (Option VarId) :=
  let ga := a.toNat
  let ctx := s.myCtx
  if gaOff ga % 16 ≠ 0 then .error (.align, a)
  else if gaPkg ga ≠ s.pkg.toNat || !s.coordOk ctx ga then .error (.coord, a)
  else if gaSpace ga ≠ spSY || bits ga 40 40 ≠ 0 then .error (.space, a)
  else
    let die := (s.ctx ctx).physDie (gaDie ga)
    if (s.die die).fenced then .error (.fenced, w64 (0x100 + gaDie ga))
    else if s.beyondVars a then .ok none
    else .ok (some ⟨die, gaOff ga / 16⟩)

/-- R139, R164: for an instruction that waits, a variable beyond the overflow area raises XLATE, before FENCED. -/
def State.syncVar (s : State) (a : Word) : Except (Cause × Word) VarId :=
  match s.syncOperand a with
  | .ok (some v) => .ok v
  | .ok none => .error (.xlate, a)
  | .error (.fenced, x) => if s.beyondVars a then .error (.xlate, a) else .error (.fenced, x)
  | .error e => .error e

end Sys2Proof.Machine
end

