-- ==== Sys2Proof/Machine/Paths.lean ====
section
/-!
DEFINITION. The paths of the package (R7, R9): its V/F islands, the places between which messages travel, and what holds a
message up: a stopped island (R18) or a bridge that stalls (R19).
-/
namespace Sys2Proof.Machine

/-- R9: the island of a physical core. -/
def islandOf (core : Nat) : Nat := 128 * (core / 1024) + 8 * (core / 32 % 32 / 2) + core % 32 / 4

/-- A place of the package: a physical core, or with 4096 added a die, of which 4 is the I/O die. -/
def dieAt (d : Nat) : Nat := 4096 + d
def ioDie : Nat := dieAt 4
def placeDie (p : Nat) : Nat := if p < 4096 then p / 1024 else p - 4096

/-- Whether the relock of an island has stopped its clock. -/
def State.islandStops (s : State) (i : Nat) : Bool :=
  match (s.island i).relock with | some (_, some _) => true | _ => false

/-- R19: whether the bridge FIFOs with an endpoint on a die stall: for the 3 µs for which its octets stop together. -/
def State.bridgeStalls (s : State) (die : Nat) : Bool := (s.die die).wide && s.islandStops (128 * die)

/-- R18, R19: whether what travels between two places is held up: in the routers of a stopped island at its end, or at a
bridge between two dies of which one stalls. -/
def State.blocked (s : State) (a b : Nat) : Bool :=
  (a != b && ((a < 4096 && s.islandStops (islandOf a)) || (b < 4096 && s.islandStops (islandOf b))))
    || (placeDie a != placeDie b && (s.bridgeStalls (placeDie a) || s.bridgeStalls (placeDie b)))

/-- The place of a memory key: its core, or the I/O die for host memory and other packages. -/
def keyPlace (k : Nat) : Nat := if k < 2 ^ 64 then paCore k else ioDie

/-- The place that a global address names for a context. -/
def State.gaPlace (s : State) (ctx ga : Nat) : Nat :=
  if gaPkg ga != s.pkg.toNat then ioDie
  else if gaSpace ga == spSY then dieAt (s.dieOf ctx ga)
  else if gaSpace ga == spHW then ioDie
  else ((s.ctx ctx).phys (gaCore ga)).getD ioDie

end Sys2Proof.Machine
end

