-- ==== Sys2Proof/Machine/Flow.lean ====
section
/-!
DEFINITION. The sending side of Edyth: packet and flit layouts (R26, R28, R29), the two CRCs, route tables (R31),
a packet's residence and its way into a link's replay buffer (R27, R32), and the source of a flow (R33, R34).
-/
namespace Sys2Proof.Machine

/-- R26: CRC-16, polynomial 0x1021, most significant bit first. -/
def crc16Byte (c : BitVec 16) (b : Byte) : BitVec 16 :=
  (upFrom 0 8).foldl (fun c _ => if c.getLsbD 15 then (c <<< 1) ^^^ 0x1021 else c <<< 1) (c ^^^ (b.setWidth 16 <<< 8))
def crc16 (bs : List Byte) : BitVec 16 := bs.foldl crc16Byte 0xFFFF

/-- R29: CRC-32C, reflected, with the usual initial value and final inversion. -/
def crc32Byte (c : BitVec 32) (b : Byte) : BitVec 32 :=
  (upFrom 0 8).foldl (fun c _ => if c.getLsbD 0 then (c >>> 1) ^^^ 0x82F63B78 else c >>> 1) (c ^^^ b.setWidth 32)
def crc32c (bs : List Byte) : BitVec 32 := ~~~ (bs.foldl crc32Byte 0xFFFFFFFF)

/-- R29: the 32 header bytes. -/
def pktHeader (p : Packet) : List Byte :=
  [p.typ, (0#2 ++ p.cls ++ p.len : BitVec 8), p.src, p.dst] ++ toBytes p.seq.toNat 3 ++ [p.gen]
  ++ toBytes p.floor.toNat 3 ++ [(p.rsel ++ p.hops : BitVec 8)] ++ toBytes p.dctx.toNat 2 ++ [p.opc, p.cslot]
  ++ toBytes p.addr.toNat 8 ++ toBytes p.aux.toNat 4 ++ toBytes p.ecrc.toNat 4

/-- R28: the data as its flits carry it, the last one filled up with zeros. -/
def pktData (p : Packet) : List Byte :=
  p.data ++ List.replicate (64 * ceilDiv p.data.length 64 - p.data.length) 0

/-- R29: the check over the whole packet but byte 11 and ECRC itself. -/
def pktCheck (p : Packet) : BitVec 32 :=
  let h := (pktHeader p)
  crc32c (h.take 11 ++ (h.drop 12).take 16 ++ p.inl ++ pktData p)

/-- R28: the flits a packet takes. -/
def pktFlits (p : Packet) : Nat := 1 + ceilDiv p.data.length 64

/-- A packet with its length and ECRC set. -/
def pktSeal (p : Packet) : Packet :=
  let p := { p with len := BitVec.ofNat 4 (pktFlits p) }
  { p with ecrc := (pktCheck p) }

/-- A packet read from its bytes (R29). -/
def pktParse (h inl data : List Byte) : Packet :=
  let f := field h
  { typ := BitVec.ofNat 8 (f 0 1), len := BitVec.ofNat 4 (f 1 1), cls := BitVec.ofNat 2 (bits (f 1 1) 5 4)
    src := BitVec.ofNat 8 (f 2 1), dst := BitVec.ofNat 8 (f 3 1), seq := BitVec.ofNat 24 (f 4 3)
    gen := BitVec.ofNat 8 (f 7 1), floor := BitVec.ofNat 24 (f 8 3), hops := BitVec.ofNat 5 (f 11 1)
    rsel := BitVec.ofNat 3 (bits (f 11 1) 7 5), dctx := BitVec.ofNat 16 (f 12 2), opc := BitVec.ofNat 8 (f 14 1)
    cslot := BitVec.ofNat 8 (f 15 1), addr := BitVec.ofNat 64 (f 16 8), aux := BitVec.ofNat 32 (f 24 4)
    ecrc := BitVec.ofNat 32 (f 28 4), inl := inl, data := data }

/-- R27: the virtual channel of a class. -/
def vcOf (cls : BitVec 2) : Nat := if cls.toNat < 2 then 0 else cls.toNat - 1

/-- R26: one flit with its CRC. -/
def mkFlit (lseq : BitVec 8) (ctl : Bool) (vc : Nat) (head tail : Bool) (body : List Byte) : Flit :=
  let lo := 8 * tail.toNat + 16 * head.toNat + 32 * (vc % 4) + 128 * ctl.toNat
  let crc := crc16 (lseq :: BitVec.ofNat 8 lo :: body)
  ⟨BitVec.ofNat 32 (crc.toNat * 65536 + lseq.toNat * 256 + lo), body⟩

def flitCrc (f : Flit) : Nat := bits f.hdr.toNat 31 16
def flitSeq (f : Flit) : BitVec 8 := f.hdr.extractLsb' 8 8
def flitCtl (f : Flit) : Bool := f.hdr.getLsbD 7
def flitVc (f : Flit) : Nat := bits f.hdr.toNat 6 5
def flitHead (f : Flit) : Bool := f.hdr.getLsbD 4
def flitTail (f : Flit) : Bool := f.hdr.getLsbD 3
/-- R27: whether the LCRC holds. The header bits enter with the high byte first. -/
def flitOk (f : Flit) : Bool :=
  (crc16 (f.hdr.extractLsb' 8 8 :: f.hdr.extractLsb' 0 8 :: f.body)).toNat == flitCrc f

/-- R26, R28: the bodies of a packet's flits. -/
def pktBodies (p : Packet) : List (List Byte) :=
  ((pktHeader p) ++ p.inl) :: (upFrom 0 (ceilDiv p.data.length 64)).map (fun i => ((pktData p).drop (64 * i)).take 64)

-- counters (R53)

def ctCRCERR : Nat := 0
def ctLRETRY : Nat := 1
def ctSTALE : Nat := 2
def ctDUPDROP : Nat := 3
def ctHOPDROP : Nat := 4
def ctRESDROP : Nat := 5
def ctREPLAY : Nat := 6

/-- R53: a port counter increased, saturating. -/
def State.countPort (s : State) (port ct : Nat) : State :=
  let p := s.port port
  let v := (p.counters[ct]?).getD 0
  s.setPort port { p with counters := p.counters.setIfInBounds ct (if v = BitVec.allOnes 32 then v else v + 1) }

-- sending

/-- R31: the route entry of a destination and selector. -/
def State.route (s : State) (dst rsel : Nat) : BitVec 4 × Bool := tget s.routes (0, false) (dst * 8 + rsel)

/-- R27: the first packet of each port that waits at the die moved into the link's replay buffer of 128 flits. -/
def State.pump (s : State) : Nat → State
  | 0 => s
  | n + 1 =>
    match s.transit.find? (fun t => t.tail.isNone && (s.port t.port).up && !(s.port t.port).training
        && (s.port t.port).replay.length + pktFlits t.p ≤ 128) with
    | none => s
    | some t =>
      let pt := s.port t.port
      let bodies := pktBodies t.p
      let fl := (bodies.zipIdx).map (fun e =>
        let q := pt.txSeq + BitVec.ofNat 8 e.2
        (q, mkFlit q false (vcOf t.p.cls) (e.2 == 0) (e.2 + 1 == bodies.length) e.1))
      let s := s.setPort t.port { pt with replay := pt.replay ++ fl, txSeq := pt.txSeq + BitVec.ofNat 8 bodies.length }
      State.pump { s with transit := s.transit.map (fun x => if x == t then
        { x with tail := some (pt.txSeq + BitVec.ofNat 8 (bodies.length - 1)) } else x) } n

/-- R31: a packet handed to the die's switch for another package: the port that it came by and the arrival of its head. -/
def State.forward (s : State) (came since : Nat) (p : Packet) : State :=
  let (port, valid) := s.route p.dst.toNat p.rsel.toNat
  if !valid then s.countPort came ctHOPDROP
  else if !(s.port port.toNat).up then s.countPort port.toNat ctRESDROP
  else State.pump { s with transit := s.transit ++ [⟨p, port.toNat, since, none⟩] } 4

/-- A packet of this package handed to the die's switch (notes/assumptions/11.md on its port). -/
def State.transmit (s : State) (p : Packet) : State := s.forward 0 s.now p

/-- R42, R33: the flow classes. -/
def clORD : Nat := 0
def clUNO : Nat := 1
def clRSP : Nat := 2
def clCTL : Nat := 3

def flowKey (peer cls : Nat) : Nat := peer * 4 + cls
def State.flowOut (s : State) (peer cls : Nat) : FlowSrc := tget s.flowsOut FlowSrc.reset (flowKey peer cls)
def State.setFlowOut (s : State) (peer cls : Nat) (f : FlowSrc) : State :=
  { s with flowsOut := tset s.flowsOut (flowKey peer cls) f }
def State.flowIn (s : State) (peer cls : Nat) : FlowDst := tget s.flowsIn FlowDst.reset (flowKey peer cls)
def State.setFlowIn (s : State) (peer cls : Nat) (f : FlowDst) : State :=
  { s with flowsIn := tset s.flowsIn (flowKey peer cls) f }

/-- R34: what a die's retry buffer of 8 MiB holds. The spec does not say how it is counted: the model counts flits of 68 bytes
(notes/assumptions/37.md). -/
def State.retryFlits (s : State) : Nat :=
  (s.flowsOut.map (fun e => ((e.2.held.filter (fun h => !h.retired)).map (fun h => (pktFlits h.p))).foldl (· + ·) 0)).foldl
    (· + ·) 0
def retryLimit : Nat := 8 * 2 ^ 20 / 68

/-- R152: whether a packet is one that a flooded context's units no longer send: every one but a response and the
report of a launch. -/
def State.muted (s : State) (h : Held) : Bool :=
  (s.ctx h.ctx).flooded && h.p.typ.toNat != 0x10 && h.p.typ.toNat != 0x21

/-- R33, R34: whether a flow's window of 4,096 and the package's retry buffer have room: a packet enters while the buffer has
room for a flit (notes/assumptions/37.md). -/
def State.windowOpen (s : State) (f : FlowSrc) : Bool := (f.next - f.floor).toNat < 4096 && s.retryFlits < retryLimit

/-- R33, R34: whether a new packet enters the flow at once. Where it does not, its issuer sees back-pressure. -/
def State.flowOpen (s : State) (dst cls : Nat) : Bool :=
  (s.flowOut dst cls).stalled.isEmpty && s.windowOpen (s.flowOut dst cls)

/-- R33: a packet given the flow's next SEQ and sent. -/
def State.sendNew (s : State) (h : Held) : State :=
  let dst := h.p.dst.toNat
  let cls := h.p.cls.toNat
  let f := s.flowOut dst cls
  let p := pktSeal { h.p with seq := f.next, gen := f.gen, floor := f.floor, rsel := f.rsel, hops := 0 }
  let s := s.setFlowOut dst cls { f with
    next := f.next + 1, held := f.held ++ [{ h with p := p, sentAt := s.now }], lastSent := s.now
    floorSent := f.floor }
  s.transmit p

/-- R33, R34: a sequenced packet issued on its flow, behind those that the window or the retry buffer keeps back. One that
comes to a failed flow ends there with its operation (R41). -/
def State.issuePacket (s : State) (h : Held) : State :=
  let dst := h.p.dst.toNat
  let cls := h.p.cls.toNat
  let f := s.flowOut dst cls
  let wait (s : State) : State := s.setFlowOut dst cls { f with stalled := f.stalled ++ [h] }
  if s.muted h then s
  else if f.failed then (wait s).post (.generationAdvance dst cls)
  else if !s.flowOpen dst cls then wait s
  else s.sendNew h

/-- R34: packets of a flow kept back are issued in order as room appears. -/
def State.unstall (s : State) (dst cls : Nat) : Nat → State
  | 0 => s
  | n + 1 =>
    let f := s.flowOut dst cls
    match f.stalled with
    | [] => s
    | h :: rest =>
      if s.muted h then State.unstall (s.setFlowOut dst cls { f with stalled := rest }) dst cls n
      else if f.failed || !s.windowOpen f then s
      else State.unstall ((s.setFlowOut dst cls { f with stalled := rest }).sendNew h) dst cls n

/-- R34: the same for every flow, for the retry buffer is the package's. -/
def State.unstallAll (s : State) : State :=
  (s.flowsOut.filter (fun e => !e.2.stalled.isEmpty)).foldl
    (fun s e => s.unstall (e.1 / 4) (e.1 % 4) e.2.stalled.length) s

/-- A packet from this package with the fields that its operation names (R29, R30). -/
def State.packet (s : State) (typ cls dst ctx opc addr aux : Nat) (inl data : List Byte) : Packet :=
  ⟨BitVec.ofNat 8 typ, 0, BitVec.ofNat 2 cls, s.pkg, BitVec.ofNat 8 dst, 0, 0, 0, 0, 0, (s.ctx ctx).dctx, 0,
    BitVec.ofNat 8 opc, BitVec.ofNat 64 addr, BitVec.ofNat 32 aux, 0, inl ++ List.replicate (32 - inl.length) 0, data⟩

/-- R30: the packet types. -/
def tyPUT : Nat := 0x01
def tyPUTSG : Nat := 0x02
def tyGET : Nat := 0x03
def tyAMO : Nat := 0x04
def tyCAS : Nat := 0x05
def tyRED : Nat := 0x06
def tyFAMO : Nat := 0x07
def tyFRED : Nat := 0x08
def tyRSP : Nat := 0x10
def tyACK : Nat := 0x11
def tyFLR : Nat := 0x12
def tyLNCH : Nat := 0x20
def tyRRPT : Nat := 0x21
def tyRDC : Nat := 0x30
def tyRDR : Nat := 0x31
/-- R403: DGST, which no packet carries. -/
def tyDGST : Nat := 0x40

/-- R114, R163: what the inline field of a qualified access says (notes/assumptions/10.md). -/
def qualBit (p : Packet) (n : Nat) : Bool := p.typ.toNat == tyGET && ((p.inl[0]?).getD 0).getLsbD n
def isQualified (p : Packet) : Bool := qualBit p 0

/-- The base of a granule as a global address (R140, R153). -/
def granAddr (ga : Nat) : Word := w64 (ga / 16 * 16)

/-- R38: a free returning slot towards a package, taken. -/
def State.takeReturning (s : State) (dst : Nat) : Option (Nat × State) :=
  let used := tget s.retSlots [] dst
  match (upFrom 0 256).find? (fun n => !used.contains n) with
  | none => none
  | some n => some (n, { s with retSlots := tset s.retSlots dst (setInsert used n) })

/-- R28: a write of bytes at consecutive global addresses as data flits: each stands for one aligned 64-byte block. -/
def dataFlits (ga : Nat) (bs : List Byte) : List Byte :=
  let body := List.replicate (ga % 64) 0 ++ bs
  body ++ List.replicate (64 * ceilDiv body.length 64 - body.length) 0

/-- The writer's identity that R172 wants carried with a write, and the path that R206 sorts by, in inline bytes 16 to
31 (notes/assumptions/10.md): ID.PATH, then bit 63 set where the write is checked, bit 62 for a supervisor of the die in
bits 41:40, LSLOT in bits 39:32 and the root in bits 31:0. -/
def writerMark (m : Slot) (sup : Bool) : List Byte :=
  match m.task with
  | some t => toBytes t.ref.path.toNat 8 ++ toBytes ((if m.detlvl == 2 && !sup then 2 ^ 63 else 0)
      + (if t.sup then 2 ^ 62 + 2 ^ 40 * t.supDie else 0) + 2 ^ 32 * t.ref.lslot + rootOf t.ref.path) 8
  | none => List.replicate 16 0

/-- The pieces of a far write: runs that end at 512-byte boundaries (R28, R341). -/
def pieces512 (ga : Nat) (bs : List Byte) : Nat → List (Nat × List Byte)
  | 0 => []
  | n + 1 =>
    if bs.isEmpty then [] else
    let k := min bs.length (512 - ga % 512)
    (ga, bs.take k) :: pieces512 (ga + k) (bs.drop k) n

/-- Runs that end at granule boundaries (R113). -/
def pieces16 (ga : Nat) (bs : List Byte) : Nat → List (Nat × List Byte)
  | 0 => []
  | n + 1 =>
    if bs.isEmpty then [] else
    let k := min bs.length (16 - ga % 16)
    (ga, bs.take k) :: pieces16 (ga + k) (bs.drop k) n

/-- A PUT of bytes to another package on a flow (R28, R184), covered by a release until it is acknowledged (R191). -/
def State.sendPut (s : State) (ctx cls ga : Nat) (bs mark : List Byte) (who : Option (SlotId × Nat)) :
    State × List Nat :=
  (pieces512 ga bs (bs.length / 512 + 2)).foldl (fun (s, ids) (a, b) =>
    let p := s.packet tyPUT cls (gaPkg a) ctx 0 a b.length (List.replicate 16 0 ++ mark) (dataFlits a b)
    let id := s.nextWrite
    ({ s with nextWrite := id + 1 }.issuePacket ⟨p, s.now, false, some id, who, ctx⟩, ids ++ [id])) (s, [])

/-- R38, R39: the response to a returning request, stored in the response cache and sent on the RSP flow. Its inline
field holds the value, the error cause and the flags in bytes 8 and 9, and XVAL in bytes 16 to 23
(notes/assumptions/10.md). -/
def State.respond (s : State) (req : Packet) (ctx : Nat) (value : Word) (flags cause : Nat) (xval : Word)
    (data : List Byte) : State :=
  let inl := toBytes value.toNat 8 ++ toBytes cause 1 ++ toBytes flags 1 ++ List.replicate 6 0 ++ toBytes xval.toNat 8
  let p := { s.packet tyRSP clRSP req.src.toNat ctx 0 req.addr.toNat req.seq.toNat inl data with
    dctx := req.dctx, cslot := req.cslot }
  let s := { s with respCache := tset s.respCache (req.src.toNat * 256 + req.cslot.toNat) (req.seq, req.cls, p) }
  s.issuePacket ⟨p, s.now, false, none, none, ctx⟩

/-- R41: whether the flow to a package has failed. -/
def State.flowFailed (s : State) (dst cls : Nat) : Bool := (s.flowOut dst cls).failed

/-- R114: the qualified access of another package that a slot waits for. -/
def State.farWait (s : State) (i : SlotId) : Option Packet :=
  (s.flowsOut.findSome? (fun e => (e.2.held ++ e.2.stalled).find? (fun h =>
    !h.retired && isQualified h.p && h.who.any (fun w => w.1 == i)))).map (·.p)

/-- R136, R153, R155: a waiting access of another package withdrawn: its home is told, unless it has been already
(notes/assumptions/10.md). -/
def State.withdrawFar (s : State) (i : SlotId) : State :=
  match s.farWait i with
  | none => s
  | some q =>
    let dst := q.dst.toNat
    let told := s.flowsOut.any (fun e => (e.2.held ++ e.2.stalled).any (fun h =>
      qualBit h.p 4 && h.p.dst == q.dst && (h.p.inl[8]?).getD 0 == q.cslot))
    if told || s.flowFailed dst clORD || !s.flowOpen dst clORD then s
    else match s.takeReturning dst with
      | none => s
      | some (n, s) =>
        let ctx := (s.core i.core).tenant.toNat
        let p := { s.packet tyGET clORD dst ctx 0 q.addr.toNat q.aux.toNat (toBytes 16 8 ++ [q.cslot]) [] with
          cslot := BitVec.ofNat 8 n }
        s.issuePacket ⟨p, s.now, false, none, some (i, n), ctx⟩

/-- R155, R161: the reads under SWAIT that a copy has on their way withdrawn in the same way. -/
def State.withdrawGets (s : State) (ctx : Nat) (gets : List (Nat × Nat × Nat × Nat)) : State :=
  gets.foldl (fun s (dst, slot, ga, _) =>
    let mine (h : Held) : Bool := !h.retired && isQualified h.p && h.p.dst.toNat == dst && h.p.cslot.toNat == slot
    let told (h : Held) : Bool := qualBit h.p 4 && h.p.dst.toNat == dst && (h.p.inl[8]?).getD 0 == BitVec.ofNat 8 slot
    match s.flowsOut.find? (fun e => (e.2.held ++ e.2.stalled).any mine) with
    | none => s
    | some (key, f) =>
      let cls := key % 4
      if (f.held ++ f.stalled).any told || f.failed || !s.flowOpen dst cls then s
      else match s.takeReturning dst with
        | none => s
        | some (n, s) =>
          let p := { s.packet tyGET cls dst ctx 0 ga 0x10 (toBytes 16 8 ++ [BitVec.ofNat 8 slot]) [] with
            cslot := BitVec.ofNat 8 n }
          s.issuePacket ⟨p, s.now, false, none, none, ctx⟩) s

/-- R36, R183: whether a write that left the package still awaits its acknowledgement. -/
def State.unackedWrite (s : State) (id : Nat) : Bool :=
  s.flowsOut.any (fun e => (e.2.held ++ e.2.stalled).any (fun h => h.write == some id && !h.retired))

/-- R181, R187, R191: whether a write has not yet been performed at its home. -/
def State.openWrite (s : State) (id : Nat) : Bool :=
  s.homeWrites.any (fun w => w.id == id) || s.unitWrites.any (fun u => u.id == id) || s.signals.any (fun e => e.id == id)
    || s.unackedWrite id

/-- The package that an unacknowledged write of a failed flow goes to (R41). -/
def State.lostWrite (s : State) (ids : List Nat) : Option Nat :=
  (s.flowsOut.find? (fun e => e.2.failed && (e.2.held ++ e.2.stalled).any (fun h => match h.write with
    | some id => ids.contains id && !h.retired | none => false))).map (fun e => e.1 / 4)

end Sys2Proof.Machine
end

