-- ==== Sys2Proof/Machine/Scalar.lean ====
section
/-!
DEFINITION. Page 0 integer arithmetic, logic and constants (R262 to R267), and the meanings of MOV to LDI.
-/
namespace Sys2Proof.Machine

/-- R262: under W32 the low 32 bits of a result, sign-extended. -/
def narrow (w32 : Bool) (v : Word) : Word := if w32 then (v.setWidth 32).signExtend 64 else v

/-- The operand of an unsigned operation at width 64 or 32. -/
def opU (w32 : Bool) (x : Word) : Nat := if w32 then x.toNat % 2 ^ 32 else x.toNat
/-- The operand of a signed operation at width 64 or 32. -/
def opS (w32 : Bool) (x : Word) : Int := if w32 then (x.setWidth 32).toInt else x.toInt

/-- R262: the high half of the exact product. -/
def mulHigh (u : Bool) (x y : Word) : Word :=
  if u then w64 (x.toNat * y.toNat / 2 ^ 64) else i64 (x.toInt * y.toInt / 2 ^ 64)

/-- R202: the quotient. -/
def divQ (u w32 : Bool) (x y : Word) : Word :=
  narrow w32 (if u then
      (if opU w32 y = 0 then BitVec.allOnes 64 else w64 (opU w32 x / opU w32 y))
    else
      (if opS w32 y = 0 then BitVec.allOnes 64 else i64 ((opS w32 x).tdiv (opS w32 y))))

/-- R202: the remainder. -/
def divR (u w32 : Bool) (x y : Word) : Word :=
  narrow w32 (if u then
      (if opU w32 y = 0 then x else w64 (opU w32 x % opU w32 y))
    else
      (if opS w32 y = 0 then x else i64 ((opS w32 x).tmod (opS w32 y))))

/-- R262: the shift amount, y mod w. -/
def shiftBy (w32 : Bool) (y : Word) : Nat := y.toNat % (if w32 then 32 else 64)
def shl (w32 : Bool) (x y : Word) : Word := narrow w32 (x <<< shiftBy w32 y)
def shr (w32 ar : Bool) (x y : Word) : Word :=
  narrow w32 (if ar then i64 (opS w32 x / 2 ^ shiftBy w32 y) else w64 (opU w32 x / 2 ^ shiftBy w32 y))

/-- R262: MIN or MAX, signed or unsigned. -/
def minMax (mx u : Bool) (x y : Word) : Word :=
  let below : Bool := if u then x.toNat ≤ y.toNat else x.toInt ≤ y.toInt
  if below != mx then x else y

/-- R264: the low bytes of a source by SZ, sign- or zero-extended. -/
def sizeOf (sz : BitVec 2) : Nat := match sz.toNat with | 0 => 8 | 1 => 1 | 2 => 2 | _ => 4
def extend (k : Nat) (z : Bool) (v : Nat) : Word := if z then w64 (v % 2 ^ (8 * k)) else i64 (sext (8 * k) v)

/-- R265: the extracted or inserted field. -/
def bfx (sx ins : Bool) (old x y : Word) : Word :=
  let pos := wbits y 5 0
  let len := if wbits y 11 6 = 0 then 64 else wbits y 11 6
  let e := min len (64 - pos)
  if ins then
    let m : Word := w64 (2 ^ e - 1)
    (old &&& ~~~(m <<< pos)) ||| ((x &&& m) <<< pos)
  else
    let f := (x.toNat / 2 ^ pos) % 2 ^ e
    if sx then i64 (sext e f) else w64 f

/-- R266: counts at width w. -/
def popCount (x : Nat) : Nat → Nat
  | 0 => 0
  | n + 1 => x % 2 + popCount (x / 2) n
def trailZeros (x : Nat) : Nat → Nat
  | 0 => 0
  | n + 1 => if x % 2 = 1 then 0 else 1 + trailZeros (x / 2) n
def leadZeros (x : Nat) : Nat → Nat
  | 0 => 0
  | n + 1 => if x / 2 ^ n % 2 = 1 then 0 else 1 + leadZeros x n
def count (op : BitVec 2) (w32 : Bool) (x : Word) : Word :=
  let w := if w32 then 32 else 64
  match op.toNat with
  | 0 => w64 (popCount (opU w32 x) w)
  | 1 => w64 (leadZeros (opU w32 x) w)
  | _ => w64 (trailZeros (opU w32 x) w)

/-- R262: an instruction of two operands whose result is written at once. -/
def binary (h : Hdr) (a b : Reg) (y : Src) (f : Word → Word → Word) (s : State) : Host.Outcome State Fault Refusal :=
  issue s (Info.chunked h.s (len0 h (Src.n y)) (codeG b :: Src.codes y) [codeG a]) none
    (fun s => .done (s.setG a (f (s.g b) (Src.val y s))))

/-- A returning value of the present chunk; `due` is the core cycle of a stated latency (R104, R263, R270), `src` the place
it comes from. -/
def State.returning (s : State) (reg : Nat) (v : Word) (due : Option Nat) (src : Option Nat := none) : State :=
  s.addRet { Ret.plain reg v with due := due, chunk := s.me.openNo, src := src }

/-- R263: the latency of a division by width. -/
def divCycles (w32 : Bool) : Nat := if w32 then 18 else 34

/-- R263: an instruction whose result returns after the division's latency. -/
def dividing (h : Hdr) (a b : Reg) (y : Src) (w32 : Bool) (f : Word → Word → Word) (s : State) :
    Host.Outcome State Fault Refusal :=
  issue s (Info.chunked h.s (len0 h (Src.n y)) (codeG b :: Src.codes y) [codeG a]) none
    (fun s => .done (s.returning (codeG a) (f (s.g b) (Src.val y s)) (some (s.myCore.cyc.toNat + divCycles w32))))

def execMov (h : Hdr) (a b : Reg) (sz : BitVec 2) (z : Bool) (s : State) : Host.Outcome State Fault Refusal :=
  issue s (Info.chunked h.s (len0 h 0) [codeG b] [codeG a]) none
    (fun s => .done (s.setG a (extend (sizeOf sz) z (s.g b).toNat)))

def execAdd (h : Hdr) (a b : Reg) (y : Src) (w32 : Bool) (s : State) : Host.Outcome State Fault Refusal :=
  binary h a b y (fun x y => narrow w32 (x + y)) s
def execSub (h : Hdr) (a b : Reg) (y : Src) (w32 : Bool) (s : State) : Host.Outcome State Fault Refusal :=
  binary h a b y (fun x y => narrow w32 (x - y)) s
def execMul (h : Hdr) (a b : Reg) (y : Src) (w32 : Bool) (s : State) : Host.Outcome State Fault Refusal :=
  binary h a b y (fun x y => narrow w32 (x * y)) s
def execMulh (h : Hdr) (a b : Reg) (y : Src) (u : Bool) (s : State) : Host.Outcome State Fault Refusal :=
  binary h a b y (mulHigh u) s
def execDiv (h : Hdr) (a b : Reg) (y : Src) (u w32 : Bool) (s : State) : Host.Outcome State Fault Refusal :=
  dividing h a b y w32 (divQ u w32) s
def execRem (h : Hdr) (a b : Reg) (y : Src) (u w32 : Bool) (s : State) : Host.Outcome State Fault Refusal :=
  dividing h a b y w32 (divR u w32) s
def execAnd (h : Hdr) (a b : Reg) (y : Src) (s : State) : Host.Outcome State Fault Refusal :=
  binary h a b y (fun x y => x &&& y) s
def execOr (h : Hdr) (a b : Reg) (y : Src) (s : State) : Host.Outcome State Fault Refusal :=
  binary h a b y (fun x y => x ||| y) s
def execXor (h : Hdr) (a b : Reg) (y : Src) (s : State) : Host.Outcome State Fault Refusal :=
  binary h a b y (fun x y => x ^^^ y) s
def execShl (h : Hdr) (a b : Reg) (y : Src) (w32 : Bool) (s : State) : Host.Outcome State Fault Refusal :=
  binary h a b y (shl w32) s
def execShr (h : Hdr) (a b : Reg) (y : Src) (w32 ar : Bool) (s : State) : Host.Outcome State Fault Refusal :=
  binary h a b y (shr w32 ar) s
def execSet (h : Hdr) (a b : Reg) (y : Src) (cond : BitVec 3) (s : State) : Host.Outcome State Fault Refusal :=
  binary h a b y (fun x y => if setCond cond x y then 1 else 0) s
def execMinmax (h : Hdr) (a b : Reg) (y : Src) (mx u : Bool) (s : State) : Host.Outcome State Fault Refusal :=
  binary h a b y (minMax mx u) s

/-- R265: the insert form reads g[a] too. -/
def execBfx (h : Hdr) (a b : Reg) (y : Src) (sx ins : Bool) (s : State) : Host.Outcome State Fault Refusal :=
  issue s (Info.chunked h.s (len0 h (Src.n y)) ((if ins then [codeG a] else []) ++ codeG b :: Src.codes y) [codeG a]) none
    (fun s => .done (s.setG a (bfx sx ins (s.g a) (s.g b) (Src.val y s))))

def execCnt (h : Hdr) (a b : Reg) (op : BitVec 2) (w32 : Bool) (s : State) : Host.Outcome State Fault Refusal :=
  issue s (Info.chunked h.s (len0 h 0) [codeG b] [codeG a]) none (fun s => .done (s.setG a (count op w32 (s.g b))))

def execLdi (sBit : Bool) (a : Reg) (i : ImmB) (s : State) : Host.Outcome State Fault Refusal :=
  issue s (Info.chunked sBit (1 + i.hi.length) [] [codeG a]) none (fun s => .done (s.setG a (i64 (immVal i))))

end Sys2Proof.Machine
end

