-- ==== Sys2Proof/Machine/LoadStore.lean ====
section
/-!
DEFINITION. Scalar memory accesses: LD, ST, ADDR (R268 to R272) and FLD, FST (R288, R289), plain and qualified, inside
the package and to another package; and the granule's and the home's event steps (R114, R181).
-/
namespace Sys2Proof.Machine

/-- R174, R176: a byte as the slot sees it: its own uncommitted stores first, the latest last. Stores of a redundant
pair that wait for their match count as the slot's own. -/
def Slot.sees (m : Slot) (k : Nat) (v : Byte) : Byte :=
  let v := m.chunks.foldl (fun v c => (tfind c.writes k).getD v) v
  m.cmp.foldl (fun v e => (tfind e.store k).getD v) v

def State.loadNum (s : State) (k n : Nat) : Nat :=
  fromBytes ((upFrom k n).map (fun a => s.me.sees a (s.byte a)))

/-- R177: a line entered in the open chunk's read signature. -/
def State.reads (s : State) (k : Nat) : State :=
  s.modMe (fun m => m.modOpen (fun c => { c with reads := setInsert c.reads (lineOf k) }))

/-- A load's returned value by its destination: bytes, extension and register code. -/
structure LoadForm where
  dest : Nat
  size : Nat
  zext : Bool
  deriving DecidableEq, Repr

def LoadForm.value (f : LoadForm) (v : Nat) : Word := extend f.size f.zext v

/-- R174: whether a write of the slot to one of n bytes of another package is still on its way there. -/
def State.ownWriteTo (s : State) (dst ga n : Nat) : Bool :=
  let f := s.flowOut dst clORD
  !f.failed && (f.held ++ f.stalled).any (fun h => !h.retired && h.who.any (fun w => w.1 == s.cur)
    && h.p.addr.toNat < ga + n && ga < h.p.addr.toNat + max h.p.aux.toNat 8)

/-- R270: a load from another package: a GET on the UNO flow with a returning slot (R38, R184). It leaves once the slot's
own earlier writes to its bytes have been performed there (R174). -/
def State.loadFar (s : State) (pc : Word) (f : LoadForm) (ga : Nat) : Res :=
  let dst := gaPkg ga
  if s.flowFailed dst clUNO then .trap .fenced (w64 dst)
  else if s.ownWriteTo dst ga f.size || !s.flowOpen dst clUNO then .park Wait.poll s
  else match s.takeReturning dst with
    | none => .park Wait.poll s
    | some (n, s) =>
        let s := s.modMe (fun m => m.addCut (placeKey m.openCount) pc)
        let p := { s.packet tyGET clUNO dst s.myCtx 0 ga f.size [] [] with cslot := BitVec.ofNat 8 n }
        let m := s.me
        let mine := (upFrom 0 f.size).filterMap (fun i =>
          let k := paFar (ga + i)
          if m.chunks.any (fun c => (tfind c.writes k).isSome) || m.cmp.any (fun e => (tfind e.store k).isSome)
          then some (i, m.sees k 0) else none)
        let s := s.issuePacket ⟨p, s.now, false, none, some (s.cur, n), s.myCtx⟩
        .done (s.addRet { Ret.plain f.dest 0 with
          value := none, chunk := m.openNo, remote := some (dst, n), addr := w64 ga
          size := f.size, zext := f.zext, own := mine })

/-- R270: a plain load. -/
def State.loadPlain (s : State) (pc : Word) (f : LoadForm) (base : Word) (imm : Int) (rc : Bool) : Res :=
  match s.scalarEa base imm f.size rc false false with
  | .error (c, v) => .trap c v
  | .ok (.here k, _) =>
    let v := f.value (s.loadNum k f.size)
    let localLm := paSpace k == spLM && paCore k == s.cur.core
    .done (((s.reads k).observe s.cur (unitOf k)).returning f.dest v (if localLm then some (s.myCore.cyc.toNat + 10) else none)
      (some (keyPlace k)))
  | .ok (.cf d off, _) =>
    .done (s.returning f.dest (f.value (fromBytes ((upFrom off f.size).map (s.cfByte s.myCtx d)))) none
      (some (dieAt ((s.ctx s.myCtx).physDie d))))
  | .ok (.far ga, _) => s.loadFar pc f ga

/-- R114: a qualified access at its granule's home. It arrives behind those already there; on the issuing core it is
served in the same step, on another core by GRANULE_ACCESS. `after` is what the served value does. -/
def State.qualified (s : State) (k ga size : Nat) (write waits change : Bool) (data : Word)
    (after : Word → State → State) : Res :=
  let home := paCore k
  let gran := unitOf k
  let wait := if waits then Wait.restartable (granAddr ga) else Wait.poll
  let finish (s : State) : Res :=
    match s.me.resume with
    | some r => match r.err with
      | some c => .trap (Cause.ofCode c) (granAddr ga)
      | none => .done (after r.value s)
    | none => .park wait s
  if s.me.resume.isSome then finish s
  else if (s.core home).sealed.isSome then .trap .qdead (granAddr ga)
  else if (s.core home).granQ.any (fun w => w.pkt.isNone && w.who == s.cur) then .park wait s
  else
    let s := s.modCore home (fun c => { c with
      granQ := c.granQ ++ [⟨gran, s.cur, k, size, write, data, change, waits, none, none⟩] })
    if home = s.cur.core then finish (s.serve gran) else .park wait (s.post (.granuleAccess gran))

/-- R114, R163: a qualified access at a granule of another package. It travels as a returning packet whose inline field
says what it asks for (notes/assumptions/10.md), and the slot waits for the answer. -/
def State.qualifiedFar (s : State) (ga size : Nat) (write waits change : Bool) (data : Word)
    (after : Word → State → State) : Res :=
  let dst := gaPkg ga
  let wait := if waits then Wait.restartable (granAddr ga) else Wait.poll
  match s.me.resume with
  | some r => match r.err with
    | some c => .trap (Cause.ofCode c) r.value
    | none => .done (after r.value s)
  | none =>
    if s.me.sent then .park wait s
    else if s.flowFailed dst clORD then .trap .fenced (w64 dst)
    else if !s.flowOpen dst clORD then .park wait s
    else match s.takeReturning dst with
      | none => .park wait s
      | some (n, s) =>
        let inl := toBytes (1 + 2 * write.toNat + 4 * waits.toNat + 8 * change.toNat) 8 ++ toBytes data.toNat 8
        let p := { s.packet tyGET clORD dst s.myCtx 0 ga size (inl ++ writerMark s.me s.me.arch.sup) [] with
          cslot := BitVec.ofNat 8 n }
        .park wait ((s.modMe (fun m => { m with sent := true })).issuePacket ⟨p, s.now, false, none, some (s.cur, n), s.myCtx⟩)

/-- R270, R268: a qualified load. -/
def State.loadQualified (s : State) (f : LoadForm) (base : Word) (imm : Int) (rc waits clr : Bool) : Res :=
  match s.scalarEa base imm f.size rc false true with
  | .error (c, v) => .trap c v
  | .ok (.here k, ga) =>
    s.qualified k ga f.size false waits clr 0 (fun v s =>
      s.returning f.dest (f.value v.toNat) (if paCore k == s.cur.core then some (s.myCore.cyc.toNat + 10) else none)
        (some (keyPlace k)))
  | .ok (.far ga, _) =>
    s.qualifiedFar ga f.size false waits clr 0 (fun v s => s.returning f.dest (f.value v.toNat) none)
  | .ok (.cf _ _, ga) => .trap .space (w64 ga)

/-- R176: the entries of the slot's write-collect buffer, which hold until their chunk has committed: 16-byte units and
pushes. -/
def Slot.entries (m : Slot) : Nat × List Nat :=
  let cells := m.chunks.flatMap (·.writes) ++ m.cmp.flatMap (·.store)
  ((m.chunks.map (·.pushes.length)).foldl (· + ·) 0, cells.foldl (fun u x => setInsert u (unitOf x.1)) [])

/-- R175, R176: whether the buffer of 64 entries holds a store or push beside what it has. A trailing thread ends its chunks
where the leading thread does (R123). -/
def State.hasRoom (s : State) (units : List Nat) (pushes : Nat) : Bool :=
  let (p, us) := s.me.entries
  s.me.task.any (·.trailing) || p + pushes + (setUnion us units).length ≤ 64

/-- R175: a store or push that would need a 65th entry ends the chunk before itself, and waits for room. -/
def State.awaitRoom (s : State) : Host.Outcome State Fault Refusal :=
  .next (s.modMe (fun m => m.closeChunk.parkAt s.pc Wait.poll))

/-- Where a plain store goes, for the entry count. -/
def State.storeUnits (s : State) (base : Word) (imm : Int) (k : Nat) (rc : Bool) : List Nat :=
  match s.scalarEa base imm k rc true false with
  | .ok (.here key, _) => [unitOf key]
  | .ok (.far ga, _) => [unitOf (paFar ga)]
  | _ => []

/-- R176, R122: bytes of a plain store into the write-collect buffer, or into the comparator of a redundant pair. -/
def State.putStore (s : State) (pc : Word) (cells : List (Nat × Byte)) (probe : Option Nat) (args : List Word) : Res :=
  let s := probe.toList.foldl (fun s k => s.modMe (fun m =>
    (m.addCut k pc).modOpen (fun c => { c with probes := setInsert c.probes k }))) s
  if s.me.task.any (fun t => t.n == 2) then
    if 32 ≤ s.me.cmp.length then .park Wait.poll s
    else .done (s.modMe (fun m => { m with cmp := m.cmp ++ [⟨0, args, pc, cells, (m.openNo).getD m.chunkNo, false⟩] }))
  else .done (s.modMe (fun m => m.modOpen (fun c => { c with writes := cells.foldl (fun w x => tset w x.1 x.2) c.writes })))

/-- R168: the probe of a store's BM page or capability object, as a key of its own kind: 2^80 and above. -/
def probeKey (home ctx : Nat) (hid : Nat) : Nat := 2 ^ 80 + (home * 16 + ctx) * 2 ^ 64 + hid

/-- R271: a plain store of k bytes. -/
def State.storePlain (s : State) (pc data : Word) (base : Word) (imm : Int) (k : Nat) (rc : Bool) (args : List Word) : Res :=
  match s.scalarEa base imm k rc true false with
  | .error (c, v) => .trap c v
  | .ok (.here key, ga) =>
    let home := ((s.ctx s.myCtx).phys (gaCore ga)).getD 0
    s.putStore pc (cellsOf key (toBytes data.toNat k)) (some (probeKey home s.myCtx (objectHid ga))) args
  | .ok (.far ga, _) =>
    if s.flowFailed (gaPkg ga) clORD then .trap .fenced (w64 (gaPkg ga))
    else s.putStore pc (cellsOf (paFar ga) (toBytes data.toNat k)) none args
  | .ok (.cf _ _, ga) => .trap .space (w64 ga)

/-- R271: a qualified store. -/
def State.storeQualified (s : State) (data : Word) (base : Word) (imm : Int) (k : Nat) (rc waits full : Bool) : Res :=
  match s.scalarEa base imm k rc true true with
  | .error (c, v) => .trap c v
  | .ok (.here key, ga) => s.qualified key ga k true waits full data (fun _ s => s)
  | .ok (.far ga, _) => s.qualifiedFar ga k true waits full data (fun _ s => s)
  | .ok (.cf _ _, ga) => .trap .space (w64 ga)

/-- A load as an instruction. -/
def loading (sBit : Bool) (len : Nat) (b : Reg) (f : LoadForm) (imm : Int) (rc waits clr : Bool) (s : State) :
    Host.Outcome State Fault Refusal :=
  let base := s.g b
  if waits || clr then
    let args := [w64 (formEa base imm).2, w64 f.size, w64 (waits.toNat + 2 * clr.toNat), w64 rc.toNat]
    issue s (Info.synch sBit len [codeG b] [f.dest] true 1 args) none
      (fun s => s.loadQualified f base imm rc waits clr)
  else
    issue s { Info.chunked sBit len [codeG b] [f.dest] with ext := true } none (fun t => t.loadPlain s.pc f base imm rc)

/-- A store as an instruction: `src` is the data register's code. -/
def storing (sBit : Bool) (len : Nat) (b : Reg) (src : Nat) (data : Word) (imm : Int) (k : Nat) (rc waits full : Bool)
    (s : State) : Host.Outcome State Fault Refusal :=
  let base := s.g b
  let d := w64 (data.toNat % 2 ^ (8 * k))
  let args := [w64 (formEa base imm).2, w64 k, w64 (waits.toNat + 2 * full.toNat), w64 rc.toNat, d]
  if waits || full then
    issue s (Info.synch sBit len [codeG b, src] [] false 2 args) none
      (fun s => s.storeQualified data base imm k rc waits full)
  else if s.hasRoom (s.storeUnits base imm k rc) 0 then
    issue s { Info.chunked sBit len [codeG b, src] [] with eff := some (0, args) } none
      (fun t => t.storePlain s.pc data base imm k rc args)
  else s.awaitRoom

def execLd (h : Hdr) (a b : Reg) (wait clr : Bool) (sz : BitVec 2) (z rc : Bool) (ws : Imx) (s : State) :
    Host.Outcome State Fault Refusal :=
  loading h.s (len0 h ws.length) b ⟨codeG a, sizeOf sz, z⟩ (imxVal ws) rc wait clr s

def execSt (h : Hdr) (a b : Reg) (wait full : Bool) (sz : BitVec 2) (rc : Bool) (ws : Imx) (s : State) :
    Host.Outcome State Fault Refusal :=
  storing h.s (len0 h ws.length) b (codeG a) (s.g a) (imxVal ws) (sizeOf sz) rc wait full s

/-- R272: the address as R269 forms it, with no access. -/
def execAddr (h : Hdr) (a b : Reg) (rc : Bool) (ws : Imx) (s : State) : Host.Outcome State Fault Refusal :=
  issue s (Info.chunked h.s (len0 h ws.length) [codeG b] [codeG a]) none (fun s =>
    let (off, ea) := formEa (s.g b) (imxVal ws)
    match (if rc then s.absolute ea else some ea) with
    | none => .trap .coord (w64 ea)
    | some ga => if off < 0 || (2 ^ 41 : Int) ≤ off then .trap .xlate (w64 ga) else .done (s.setG a (w64 ga)))

/-- R289: FLD reads 4 bytes, or 2 under BF into the low half. -/
def execFld (h : Hdr) (a b : Reg) (wait clr bf rc : Bool) (ws : Imx) (s : State) : Host.Outcome State Fault Refusal :=
  loading h.s (lenP h.rgx ws.length) b ⟨codeF a, if bf then 2 else 4, true⟩ (imxVal ws) rc wait clr s

/-- R289. -/
def execFst (h : Hdr) (a b : Reg) (wait full bf rc : Bool) (ws : Imx) (s : State) : Host.Outcome State Fault Refusal :=
  storing h.s (lenP h.rgx ws.length) b (codeF a) ((s.f a).setWidth 64) (imxVal ws) (if bf then 2 else 4) rc wait full s

end Sys2Proof.Machine
end

