-- ==== Sys2Proof/Machine/Control.lean ====
section
/-!
DEFINITION. Branches and jumps (R273), system registers (R108, R109, R274), FENCE (R276), NOP, CHUNK and BRK (R277,
R279), identity (R375), counters (R386), PLIVE (R377), TRAP and XRET (R378, R379).
-/
namespace Sys2Proof.Machine

-- branches

/-- R273: PC + 2·IMM. -/
def target (pc : Word) (i : ImmB) : Word := pc + i64 (2 * immVal i)

def execBr (sBit : Bool) (i : ImmB) (s : State) : Host.Outcome State Fault Refusal :=
  let pc := s.pc
  issue s (Info.chunked sBit (1 + i.hi.length) [] []) none (fun s => .done (s.setPc (target pc i)))

def execBz (h : Hdr) (a : Reg) (cond : BitVec 2) (i : ImmB) (s : State) : Host.Outcome State Fault Refusal :=
  let pc := s.pc
  issue s (Info.chunked h.s (len0 h i.hi.length) [codeG a] []) none
    (fun s => .done (if bzCond cond (s.g a) then s.setPc (target pc i) else s))

def execJal (sBit : Bool) (a : Reg) (i : ImmB) (s : State) : Host.Outcome State Fault Refusal :=
  let pc := s.pc
  issue s (Info.chunked sBit (1 + i.hi.length) [] [codeG a]) none
    (fun s => .done ((s.setG a s.pc).setPc (target pc i)))

def execJr (sBit : Bool) (a b : Reg) (s : State) : Host.Outcome State Fault Refusal :=
  issue s (Info.chunked sBit 1 [codeG b] [codeG a]) none (fun s => .done ((s.setG a s.pc).setPc (s.g b)))

/-- R273: LOOP with A = 0 is ILLEGAL. -/
def execLoop (sBit : Bool) (a : Reg) (i : ImmB) (s : State) : Host.Outcome State Fault Refusal :=
  let pc := s.pc
  issue s (Info.chunked sBit (1 + i.hi.length) [codeG a] [codeG a])
    (if a = 0 then some (.illegal, (Instr.firstWord (.loop sBit a i)).setWidth 64) else none)
    (fun s =>
      let n := s.g a - 1
      let s := s.setG a n
      .done (if n = 0 then s else s.setPc (target pc i)))

-- system registers (R108)

/-- R311: VBUSY: every command counts until VECDONE completes it (R307). -/
def Core.vbusy (c : Core) : Word :=
  let live := c.vec
  let at8 (p : VCmd → Bool) : Nat := ((upFrom 0 8).map (fun n =>
    if live.any (fun v => v.slot == n && p v) then 2 ^ n else 0)).foldl (· + ·) 0
  let run := live.find? (fun v => v.started)
  let cnt : Nat := ((upFrom 0 8).map (fun n =>
    2 ^ (32 + 3 * n) * (live.filter (fun v => v.slot == n)).length)).foldl (· + ·) 0
  w64 (at8 (fun _ => true) + 2 ^ 8 * at8 (fun v => v.started && v.waiting)
    + (match run with | some v => 2 ^ 16 * v.slot + 2 ^ 19 | none => 0) + cnt)

/-- R315: MSTAT. The flags, CKOUT and ACT are held as they stand; CKEN and RQ are read from the slot and its queue. -/
def State.mstat (s : State) (i : SlotId) : Word :=
  let m := s.slot i
  let on := (s.core i.core).checks.any (fun c => c.slot == i.slot && m.task.any (fun t => t.life == c.life))
  let rq := ((s.core i.core).tens.filter (fun t => t.slot == i.slot)).length
  (m.mstat &&& 0x1071F) ||| w64 (2 ^ 11 * on.toNat + 2 ^ 12 * rq)

/-- R109: XSTAT. -/
def Slot.xstat (m : Slot) : Word :=
  w64 (m.arch.ap.toNat + 2 * m.arch.sup.toNat + 4 * (m.task.any (fun t => t.n == 2)).toNat + 8 * m.arch.brv.toNat
    + 16 * m.arch.trapped.toNat)

/-- R169: NETCAP. -/
def netcap : Word := w64 (16 + 2 ^ 8 * 16 + 2 ^ 16 * 64 + 2 ^ 24 * 8 + 2 ^ 32 * 16)

/-- R133: the fields of BEREAVED. -/
def bereavedMask : Word := 0x3FFFF0F07

/-- R108: the registers and the value each reads as. -/
def State.sysReg (s : State) (idx : Int) : Option Word :=
  let m := s.me
  let c := s.myCore
  match idx with
  | 0x000 => some m.arch.xcause
  | 0x001 => some m.arch.xval
  | 0x002 => some m.arch.xpc
  | 0x003 => some m.xstat
  | 0x004 => some m.arch.xvec
  | 0x005 => some m.arch.xscratch
  | 0x010 => some m.arch.fstat
  | 0x011 => some m.arch.waitlim
  | 0x012 => some m.arch.chunkmax
  | 0x013 => some m.squashes
  | 0x014 => some c.vbusy
  | 0x015 => some (s.mstat s.cur)
  | 0x016 => some m.arch.cktol
  | 0x017 => some m.arch.bereaved
  | 0x018 => some (m.detlvl.setWidth 64)
  | 0x019 => some netcap
  | 0x01A => some (c.tenant.setWidth 64)
  | 0x01B => some c.preemptdl
  | 0x01C => some c.recastwait
  | 0x020 => some c.finj
  | 0x030 => some c.cyc
  | 0x031 => some c.ncyc
  | 0x032 => some (s.die (s.cur.core / 1024)).refc
  | _ => none

/-- R108: the indexes that user mode may not name. -/
def sysPriv (idx : Int) : Bool := idx == 0x01B || idx == 0x020
/-- R108: the indexes that an SWR in user mode leaves as they are. -/
def sysUserRo (idx : Int) : Bool :=
  idx == 0 || idx == 1 || idx == 2 || idx == 3 || idx == 0x01C
/-- R274: an SWR to MSTAT or to a core-scope register is synchronising. -/
def sysSync (idx : Int) : Bool :=
  idx == 0x014 || idx == 0x015 || idx == 0x019 || idx == 0x01A || idx == 0x01B || idx == 0x01C || idx == 0x020
    || idx == 0x030 || idx == 0x031 || idx == 0x032
/-- R121: the registers whose value a redundant pair obtains once. -/
def sysExt (idx : Int) : Bool :=
  idx == 0x013 || idx == 0x014 || idx == 0x015 || idx == 0x030 || idx == 0x031 || idx == 0x032

/-- R222: a write of FINJ. The first matrix instruction accepted after a write of ARM = 1 is injected. -/
def Core.writeFinj (c : Core) (v : Word) : Core := { c with finj := v &&& 0x3FFFFF, finjSeen := false }

/-- R108, R109, R140, R274: a write by the mode of the slot. -/
def State.setSysReg (s : State) (idx : Int) (v : Word) : State :=
  let m := s.me
  if sysUserRo idx && !m.arch.sup then s else
  let arch (f : Arch → Arch) : State := s.modArch f
  let core (f : Core → Core) : State := s.modCore s.cur.core f
  match idx with
  | 0x000 => arch (fun r => { r with xcause := v &&& 0xFF })
  | 0x001 => arch (fun r => { r with xval := v })
  | 0x002 => arch (fun r => { r with xpc := v })
  | 0x003 => arch (fun r => { r with ap := v.getLsbD 0 })
  | 0x004 => arch (fun r => { r with xvec := v })
  | 0x005 => arch (fun r => { r with xscratch := v })
  | 0x010 => arch (fun r => { r with fstat := v &&& 0x3F })
  | 0x011 => arch (fun r => { r with waitlim := v })
  | 0x012 => arch (fun r => { r with chunkmax := w64 (min (max v.toNat 16) 1024) })
  | 0x015 => s.modMe (fun m => { m with mstat := (m.mstat &&& ~~~(0x1F : Word)) ||| (v &&& 0x1F) })
  | 0x016 => arch (fun r => { r with cktol := v })
  | 0x017 => arch (fun r => { r with bereaved := v &&& bereavedMask })
  | 0x01B => core (fun c => { c with preemptdl := v })
  | 0x01C => core (fun c => { c with recastwait := v })
  | 0x020 => core (fun c => c.writeFinj v)
  | _ => s

/-- R274, R139: ILLEGAL for an index outside the table, PRIV for a supervisor's index in user mode. -/
def State.sysCheck (s : State) (idx : Int) : Option (Cause × Word) :=
  if (s.sysReg idx).isNone then some (.illegal, i64 idx)
  else if sysPriv idx && !s.me.arch.sup then some (.priv, i64 idx)
  else none

def execSrd (sBit : Bool) (a : Reg) (i : ImmB) (s : State) : Host.Outcome State Fault Refusal :=
  let idx := immVal i
  issue s { Info.chunked sBit (1 + i.hi.length) [] [codeG a] with ext := sysExt idx } (s.sysCheck idx)
    (fun s => .done (s.setG a ((s.sysReg idx).getD 0)))

/-- R274: in a redundant pair each thread writes its own slot's register; a core-scope register is written once. -/
def execSwr (sBit : Bool) (a : Reg) (i : ImmB) (s : State) : Host.Outcome State Fault Refusal :=
  let idx := immVal i
  issue s { Info.synch sBit (1 + i.hi.length) [codeG a] [] false 3 [i64 idx, s.g a] with
      sync := sysSync idx, both := !sysSync idx || idx == 0x015 }
    (s.sysCheck idx) (fun s => .done (s.setSysReg idx (s.g a)))

-- FENCE

/-- R149: a fault record of the issuing task. -/
def State.myRecord (s : State) (typ cause : Nat) (addr data : Word) : State :=
  let (l, p) := match s.me.task with
    | some t => (t.ref.lslot, if t.sup then 0 else t.ref.path)
    | none => (0, 0)
  s.faultRecord typ cause s.myCtx s.ownCore s.cur.slot l addr p data

/-- R192: the record of release-check mode, for a release whose target is at `addr`. -/
def State.releaseCheck (s : State) (addr : Word) (w : Half) : State :=
  if (s.ctx s.myCtx).releaseCheck && !s.me.unacquired.isEmpty then s.myRecord 1 0 addr (w.setWidth 64) else s

/-- R191: what the slot's release covers and that is not yet where it must be: inside the package a granted commit that
its home has not accepted, outside it a write that is not acknowledged. -/
def State.coverHere (s : State) : Bool := s.me.cover.any (fun id => s.openWrite id && !s.unackedWrite id)
def State.coverFar (s : State) : Bool := s.me.cover.any s.unackedWrite

/-- R185, R191: what the slot's release covers and is not performed, kept for those who read what the slot writes from now on. -/
def State.keepCover (s : State) : State :=
  let s := { s with relAt := tmap (fun _ (ids : List Nat) => ids.filter s.openWrite) s.relAt }
  s.modMe (fun m => { m with released := (setUnion m.released m.cover).filter s.openWrite })

/-- R185, R191: an acquire takes over what had been released before the writes that the slot has read
(notes/assumptions/46.md). -/
def State.joinCover (s : State) : State := s.modMe (fun m => { m with cover := setUnion m.cover m.seen })

def execFence (h : Hdr) (scope : BitVec 3) (kind : BitVec 2) (s : State) : Host.Outcome State Fault Refusal :=
  let pc := s.pc
  issue s (Info.synch h.s (len0 h 0) [] [] false 4 [scope.setWidth 64, kind.setWidth 64]) none (fun s =>
    let rel := kind != 2
    let acq := kind != 1
    match (if rel && 5 ≤ scope.toNat then s.lostWrite s.me.cover else none) with
    | some dst => .trap .fenced (w64 dst)
    | none =>
      if rel && scope == 5 && (s.coverHere || s.coverFar) then .park Wait.forCover s
      else if rel && scope == 6 && s.coverFar then .park Wait.forCover s
      else if acq && 5 ≤ scope.toNat && !s.me.returns.isEmpty then .park Wait.poll s
      else
        let s := if rel && 5 ≤ scope.toNat then s.keepCover else s
        let s := if rel then s.releaseCheck 0 ((s.fetchWords s.myCtx pc.toNat 1).1.headD 0) else s
        .done (if acq && 5 ≤ scope.toNat then s.joinCover else s))

-- CTL

def execNop (sBit : Bool) (s : State) : Host.Outcome State Fault Refusal :=
  issue s (Info.chunked sBit 1 [] []) none (fun s => .done s)

/-- R175, R277: the chunk ends after the instruction. -/
def Slot.endAfter (m : Slot) : Slot := m.modOpen (fun c => { c with limit := 0 })

def execChunk (sBit : Bool) (s : State) : Host.Outcome State Fault Refusal :=
  issue s (Info.chunked sBit 1 [] []) none (fun s => .done (s.modMe (·.endAfter)))

/-- R279, R143: BREAK, or a halt in debug at the BRK. -/
def execBrk (sBit : Bool) (s : State) : Host.Outcome State Fault Refusal :=
  let pc := s.pc
  issue s { Info.chunked sBit 1 [] [] with sync := true } none (fun s =>
    if (s.ctx s.myCtx).debugArm then
      .done (s.modMe (fun m => { m with status := .halted, arch := { m.arch with xpc := pc, pc := pc } }))
    else .trap .brk 0)

/-- R143: system software resumes a slot halted in debug, at XPC. -/
def execDebugResume (i : SlotId) (s : State) : Host.Outcome State Fault Refusal :=
  if (s.slot i).status = .halted then
    .next (s.modSlot i (fun m => { m with status := .ready, arch := { m.arch with pc := m.arch.xpc } }))
  else .next s

-- page 6

/-- R375: an index above 20 is ILLEGAL with XVAL = B. A recast changes ID.ROLE (18) of every task on the core (R101). -/
def execIdr (sBit : Bool) (a b : Reg) (s : State) : Host.Outcome State Fault Refusal :=
  issue s (Info.chunked sBit 2 [] [codeG a])
    (if 20 < b.toNat then some (.illegal, b.setWidth 64) else none)
    (fun s => .done (s.setG a ((s.me.ids[b.toNat]?).getD 0)))

/-- R386: a redundant pair counts its leading slot. -/
def execCntr (h : Hdr) (a b : Reg) (clr : Bool) (s : State) : Host.Outcome State Fault Refusal :=
  issue s { Info.chunked h.s (lenP h.rgx 0) [] [codeG a] with ext := true }
    (if 7 < b.toNat then some (.illegal, b.setWidth 64) else none)
    (fun s =>
      let v := (s.me.counters[b.toNat]?).getD 0
      let s := if clr then s.modMe (fun m => { m with counters := m.counters.setIfInBounds b.toNat 0 }) else s
      .done (s.setG a v))

/-- Whether the slot has a request in the SFU queue (R120). -/
def State.inSfu (s : State) (i : SlotId) : Bool :=
  (s.core i.core).sfuQ.any (fun r => r.slot == i.slot)
    || (s.core i.core).sfuRun.any (fun r => r.1.slot == i.slot && !r.1.dropped)

/-- R377: what a slot does at a PLIVE: a trailing thread waits until its leading one has executed it, and stops where that
one stopped; any other slot stops where a pre-emption is pending. -/
inductive AtPlive where
  | waits | goes | stops
  deriving DecidableEq, Repr

def State.atPlive (s : State) (i : SlotId) : AtPlive :=
  let m := s.slot i
  match (if m.task.any (·.trailing) then s.partner i else none) with
  | some j =>
    let o := s.slot j
    if o.issued ≤ m.issued then .waits
    else if o.plive.isSome && o.issued == m.issued + 1 then .stops else .goes
  | none => if (s.ctx s.myCtx).preempt.isSome then .stops else .goes

/-- R377: a stop point, where the slot stops after the instruction with its entry noted. -/
def execPlive (sBit : Bool) (i : ImmB) (s : State) : Host.Outcome State Fault Refusal :=
  issue s (Info.chunked sBit (2 + i.hi.length) [] []) none (fun s =>
    if s.inSfu s.cur then .park Wait.poll s
    else match s.atPlive s.cur with
      | .waits => .park Wait.poll s
      | .goes => .done s
      | .stops => .done (s.modMe (fun m =>
          { m.endAfter with status := .stopped, plive := some ((immVal i).toNat + (if immVal i < 0 then 2 ^ 64 else 0)) })))

/-- R378: BREAK with XVAL from IMM and the length. -/
def execTrap (sBit : Bool) (i : ImmB) (s : State) : Host.Outcome State Fault Refusal :=
  let len := 2 + i.hi.length
  issue s (Info.chunked sBit len [] []) none
    (fun _ => .trap .brk (w64 ((i64 (immVal i)).toNat % 2 ^ 32 + 2 ^ 32 * len)))

/-- R379: ILLEGAL outside a handler, then PRIV; else the return of R141. -/
def execXret (sBit : Bool) (s : State) : Host.Outcome State Fault Refusal :=
  let w := (Instr.firstWord (.xret sBit)).setWidth 64
  let m := s.me
  issue s { Info.synch sBit 2 [] [] false 5 [] with both := true }
    (if !m.arch.trapped then some (.illegal, w) else if !m.arch.sup then some (.priv, w) else none)
    (fun s => .done (s.returnTrap s.cur))

end Sys2Proof.Machine
end

