-- ==== Sys2Proof/Machine/Commit.lean ====
section
/-!
DEFINITION. The event steps of a slot: returning values (R104), probes (R168), commits (R177, R178, R180, R181), trap
entry (R139), a seal by an uncorrectable error (R144), WAITLIMIT (R153) and instruction-cache fills (R103).
-/
namespace Sys2Proof.Machine

-- returning values

/-- R104: whether a returning value may be written: it is known and its stated latency has passed. -/
def Ret.ready (r : Ret) (cyc : Nat) : Bool := r.value.isSome && !r.sfu && r.due.all (· ≤ cyc)

/-- R104, R121, R133, R385: the value written, with its flags, its bereaved marks, its assay update and its load-value
queue entry. -/
def Slot.writeRet (m : Slot) (r : Ret) (handle cyc : Nat) : Slot :=
  let v := r.value.getD 0
  let m := ({ m with returns := m.returns.erase r } : Slot).receive r v
  let m := { m with
    chunks := match r.assay, r.chunk with
      | some (idx, at_), some no => m.chunks.map (fun (c : Chunk) =>
          if c.no == no then { c with assay := c.assay ++ [(⟨handle, idx, 1, ceilDiv (cyc - at_) 8⟩ : AssayAdd)] } else c)
      | _, _ => m.chunks
    lvq := match r.tag with
      | some no => m.lvq.map (fun (e : LvqEntry) => if e.no == no then
          { e with ready := true, value := v, flags := r.flags, bereaved := r.bereaved
                   brv := m.arch.brv } else e)
      | none => m.lvq }
  m.settle

/-- R381: an update added to the core's assay cache. -/
def assayAdd (cache : List AssayAdd) (a : AssayAdd) : List AssayAdd :=
  match cache.find? (fun b => b.handle == a.handle && b.index == a.index) with
  | some b => cache.map (fun x => if x == b then { x with inc0 := x.inc0 + a.inc0, inc1 := x.inc1 + a.inc1 } else x)
  | none => cache ++ [a]

def execReturningWrite (i : SlotId) (index : Nat) (s : State) : Host.Outcome State Fault Refusal :=
  let c := s.core i.core
  let m := s.slot i
  match m.returns[index]? with
  | some r =>
    if r.ready c.cyc.toNat then
      let h := (m.task.map (·.handle)).getD 0
      let s := s.setSlot i (m.writeRet r h c.cyc.toNat)
      -- R179, R381: an APF of a chunk that has committed records in the core's cache
      .next (match r.assay, r.chunk with
        | some (idx, at_), none => s.modCore i.core (fun c => { c with
            assay := assayAdd c.assay ⟨h, idx, 1, ceilDiv (c.cyc.toNat - at_) 8⟩ })
        | _, _ => s)
    else .next s
  | none => .next s

-- probes

/-- R168: what one probe finds now, for the page or object it named. -/
def State.probeOk (s : State) (m : Slot) (c : Chunk) (key : Nat) : Bool :=
  let k := key - 2 ^ 80
  let hid := k % 2 ^ 64
  let ctx := k / 2 ^ 64 % 16
  let home := k / 2 ^ 68
  let mapped := if gaSpace hid == spBM then
      (match s.bmKey home ctx (gaOff hid) with | some (_, w) => w | none => false) else true
  let may := if m.detlvl == 2 && !c.saved.sup then
      (match m.task with
       | some t => s.mayWrite t.ref.ctx t.ref.lslot (rootOf t.ref.path) t.sup t.supDie hid
       | none => true) else true
  mapped && may && !(s.die (home / 1024)).fenced

/-- R123: whether both threads of a pair have come to the end of a chunk and every effect in it has matched. -/
def State.pairMatched (s : State) (i : SlotId) (no : Nat) : Bool :=
  match s.partner i with
  | none => true
  | some j => (s.slot j).chunks.any (fun d => d.no == no && d.closed) && !(s.slot i).cmp.any (fun e => e.chunk == no)

/-- R168: the oldest finished chunk's probes answered. A failing probe cuts the chunk at the first store that needs it, and
that store, issued again, raises the trap. A redundant pair is cut in both threads, once both have come to the chunk's end with
every effect matched (R123). -/
def execProbeResponse (i : SlotId) (s : State) : Host.Outcome State Fault Refusal :=
  let m := s.slot i
  match m.chunks with
  | c :: _ =>
    if c.closed && !c.probed && !c.probes.isEmpty then
      if c.probes.all (s.probeOk m c) then
        .next (s.setSlot i { m with chunks := m.chunks.map (fun d => if d.no == c.no then { d with probed := true } else d) })
      else if !s.pairMatched i c.no then .next s
      else match c.cuts.find? (fun k => c.probes.contains k.key && !s.probeOk m c k.key) with
        | some k => .next (s.cutPair i c k)
        | none => .next (s.squash i c.no)
    else .next s
  | [] => .next s

-- commits

/-- The dies whose grants a chunk asks for (R180): the homes of its stores inside the package. -/
def Chunk.grants (c : Chunk) : List Nat :=
  (c.writes.filter (fun w => !isFar w.1)).map (fun w => paCore w.1 / 1024)

/-- R33: whether the flows that take a chunk's stores to other packages have room. -/
def Chunk.farOpen (c : Chunk) (s : State) : Bool :=
  c.writes.all (fun w => !isFar w.1 || (let d := gaPkg (w.1 - 2 ^ 72); s.flowFailed d clORD || s.flowOpen d clORD))

/-- R177, R123: whether a slot's oldest chunk may ask for its grant and is given it. -/
def State.mayCommit (s : State) (i : SlotId) : Bool :=
  let m := s.slot i
  match m.chunks with
  | [] => false
  | c :: _ =>
    c.closed && (c.probed || c.probes.isEmpty)
      && !m.returns.any (fun r => r.chunk == some c.no)
      && m.status != .sealed
      && !m.cmp.any (fun e => e.chunk == c.no)
      && !c.grants.any (s.grantsHeld i).contains
      && c.farOpen s
      && (match s.partner i with
          | none => true
          | some j =>
            let o := s.slot j
            !(m.task.any (·.trailing))
              && o.chunks.head?.any (fun d => d.no == c.no && d.closed
                    && !o.returns.any (fun r => r.chunk == some c.no)))

/-- The bytes of a commit by home core. -/
def byHome (cells : List (Nat × Byte)) : Tab (List (Nat × Byte)) :=
  cells.foldl (fun t c => tset t (paCore c.1) (tget t [] (paCore c.1) ++ [c])) []

/-- R184: the runs of a commit's bytes for other packages, in ascending address. -/
def farRuns : List (Nat × Byte) → List (Nat × List Byte)
  | [] => []
  | (k, b) :: t =>
    let ga := k - 2 ^ 72
    match farRuns t with
    | (g, bs) :: rest => if g == ga + 1 then (ga, b :: bs) :: rest else (ga, [b]) :: (g, bs) :: rest
    | [] => [(ga, [b])]

/-- R177, R178, R180, R181: a slot's oldest chunk commits. Its stores inside the package, its pushes and its assay
updates become visible together; stores to other packages leave as PUTs; its write signature goes to every open
chunk. -/
def State.commit (s : State) (i : SlotId) : State :=
  let m := s.slot i
  match m.chunks with
  | [] => s
  | c :: rest =>
    let ctx := (s.core i.core).tenant.toNat
    let near := c.writes.filter (fun w => !isFar w.1)
    let far := c.writes.filter (fun w => isFar w.1)
    let homes : List (List (Nat × Byte)) := (byHome near).map (fun e => e.2)
    let ids := upFrom s.nextWrite homes.length
    let s := { s with
      homeWrites := s.homeWrites ++ (homes.zip ids).map (fun (e : List (Nat × Byte) × Nat) => (⟨e.2, ctx, i.core, e.1⟩ : HomeWrite))
      nextWrite := s.nextWrite + homes.length }
    let (s, farIds) := (farRuns far).foldl (fun (s, ids) (ga, bs) =>
      let (s, more) := s.sendPut ctx clORD ga bs (writerMark (s.slot i) c.saved.sup) (some (i, 256))
      (s, ids ++ more)) (s, [])
    let s := s.postAll (c.pushes.map (fun (p : Push) => Instr.channelWordArrive ⟨p.target, i⟩ p.gen (some p.word)))
    let s := s.modCore i.core (fun k => { k with assay := c.assay.foldl assayAdd k.assay })
    let s := s.modSlot i (fun m =>
      let m := m.count 3 1
      { m with
        chunks := rest, streaks := tdel m.streaks c.no
        returns := m.returns.map (fun (r : Ret) => if r.chunk == some c.no then { r with chunk := none } else r)
        cover := (m.cover.filter s.openWrite) ++ ids ++ farIds })
    let s := match s.partner i with
      | some j => s.modSlot j (fun m => { m with chunks := m.chunks.filter (fun d => d.no != c.no), streaks := tdel m.streaks c.no })
      | none => s
    let s := s.markUnits m.released (near.foldl (fun us (w : Nat × Byte) => setInsert us (unitOf w.1)) [])
    s.squashHits (near.foldl (fun ls (w : Nat × Byte) => setInsert ls (lineOf w.1)) [])

/-- R180: a commit is granted. `falseHits` names chunks whose read signature reports a hit on a line that was not
touched (R177, notes/assumptions/6.md). -/
def execCommitGrant (i : SlotId) (falseHits : List SlotId) (s : State) : Host.Outcome State Fault Refusal :=
  if s.mayCommit i then
    let s := s.commit i
    .next (falseHits.foldl (fun s j =>
      match ((s.slot j).chunks.find? (fun c => !c.reads.isEmpty && !c.serial)) with
      | some c => s.squash j c.no
      | none => s) s)
  else .next s

-- traps, errors, limits

/-- R106, R142, R123: whether a trapping slot's handler may be entered. -/
def Slot.trapReady (m : Slot) : Bool :=
  m.status == .trapping && m.trap.isSome && m.returns.isEmpty && m.chunks.isEmpty

def execTrapEntry (i : SlotId) (s : State) : Host.Outcome State Fault Refusal :=
  let m := s.slot i
  match m.trap with
  | none => .next s
  | some (c, v, pc) =>
    if !m.trapReady then .next s
    else match s.partner i with
      | none => .next (s.enterTrap i c v pc)
      | some j =>
        let o := s.slot j
        if !o.trapReady then .next s
        else if o.trap = m.trap then .next ((s.enterTrap i c v pc).enterTrap j c v pc)
        else .next (s.sealMismatch i none pc v)

/-- R136, R153: a slot leaves every SYE queue that its wait joined. -/
def Mode.leave (m : Mode) (i : SlotId) : Mode :=
  match m with
  | .lock st h q => .lock st h (q.filter (fun e => e.1 != i))
  | .barrier c a p l ms ws => .barrier c a p l ms (ws.filter (fun e => e.1 != i))
  | m => m
def State.leaveQueues (s : State) (i : SlotId) : State :=
  let s := s.leaveGranules i
  { s with dies := s.dies.map (fun e => (e.1, { e.2 with
      sync := tmap (fun _ m => m.leave i) e.2.sync
      pwait := e.2.pwait.filter (fun w => w.1 != i), capWait := e.2.capWait.filter (fun w => w.1 != i) })) }

/-- R153: whether a wait has gone past WAITLIM. -/
def Slot.overLimit (m : Slot) : Bool :=
  m.status == .parked && m.arch.waitlim != 0
    && (match m.wait with | some w => w.counted && !w.regs && m.arch.waitlim.toNat < w.count | none => false)

/-- R153: the wait is withdrawn from its queue and raises WAITLIMIT at the waiting instruction. One that has gone to another
package ends so when its home answers that it has left the queue there. -/
def execWaitlimit (i : SlotId) (s : State) : Host.Outcome State Fault Refusal :=
  let m := s.slot i
  if m.overLimit && m.resume.isNone then
    .next (if m.sent then s.withdrawFar i else (s.leaveQueues i).takeTrap i .waitlimit ((m.wait.map (·.value)).getD 0) m.arch.pc)
  else .next s

/-- R103: the missing instruction lines of a slot arrive, and the slot goes on. The oldest lines leave the cache of
16 KiB (notes/assumptions/5.md). -/
def execIcacheFill (i : SlotId) (s : State) : Host.Outcome State Fault Refusal :=
  let lines := s.icMiss i 5
  .next (s.modCore i.core (fun c =>
    let all := c.icache ++ lines
    { c with icache := all.drop (all.length - icLines) }))

end Sys2Proof.Machine
end

