-- ==== Sys2Proof/Machine/Num.lean ====
section
/-!
DEFINITION. Number formats and exact arithmetic (R193 to R201): FP32 and BF16 by their precision p (24 and 8), exact
values as integers times powers of two, ROUND (R195), signs of zero (R196), conversions (R197), NaN selection (R199),
minimum and maximum (R200), and the functions of the SFU (R198, R290, R291).
-/
namespace Sys2Proof.Machine

/-- A decoded float: NaN, infinity, or (−1)^neg · m · 2^e. -/
inductive FV where
  | nan
  | inf (neg : Bool)
  | fin (neg : Bool) (m : Nat) (e : Int)
  deriving DecidableEq, Repr

/-- R193: the formats by precision. -/
def pFP32 : Nat := 24
def pBF16 : Nat := 8

def fInf (p : Nat) (neg : Bool) : Nat := 255 * 2 ^ (p - 1) + (if neg then 2 ^ (p + 7) else 0)
def fZero (p : Nat) (neg : Bool) : Nat := if neg then 2 ^ (p + 7) else 0
/-- R199: the default NaN. -/
def fNan (p : Nat) : Nat := 255 * 2 ^ (p - 1) + 2 ^ (p - 2)
def fNeg (p x : Nat) : Bool := x / 2 ^ (p + 7) % 2 == 1
def fExp (p x : Nat) : Nat := x / 2 ^ (p - 1) % 256
def fFrac (p x : Nat) : Nat := x % 2 ^ (p - 1)
def fIsNan (p x : Nat) : Bool := fExp p x == 255 && fFrac p x != 0
def fIsSnan (p x : Nat) : Bool := fIsNan p x && x / 2 ^ (p - 2) % 2 == 0
/-- R199: a NaN quieted, sign and payload kept. -/
def fQuiet (p x : Nat) : Nat := if x / 2 ^ (p - 2) % 2 == 1 then x else x + 2 ^ (p - 2)

/-- R193: the value of a bit pattern. -/
def fDecode (p x : Nat) : FV :=
  if fExp p x == 255 then (if fFrac p x == 0 then .inf (fNeg p x) else .nan)
  else if fExp p x == 0 then .fin (fNeg p x) (fFrac p x) (-126 - (p - 1 : Nat))
  else .fin (fNeg p x) (2 ^ (p - 1) + fFrac p x) ((fExp p x : Int) - 127 - (p - 1 : Nat))

/-- ⌊log2 (n / d)⌋ for n, d > 0. -/
def floorLog (n d : Nat) : Int :=
  let k : Int := (Nat.log2 n : Int) - (Nat.log2 d : Nat)
  let ok : Bool := if 0 ≤ k then d * 2 ^ k.toNat ≤ n else d ≤ n * 2 ^ (-k).toNat
  if ok then k else k - 1

/-- R195: the integer next to a nonnegative quotient under a rounding mode. -/
def roundInt (rm : Nat) (neg : Bool) (num den : Nat) : Nat :=
  let n := num / den
  let r := num % den
  let up : Bool := match rm with
    | 0 => den < 2 * r || (2 * r == den && n % 2 == 1)
    | 2 => !neg && r != 0
    | 3 => neg && r != 0
    | _ => false
  if up then n + 1 else n

/-- R195: ROUND of (−1)^neg · n / d · 2^e, with n, d > 0, to the format of precision p. -/
def roundQ (p rm : Nat) (neg : Bool) (n d : Nat) (e : Int) : Nat × Fl :=
  let fl := floorLog n d + e
  let ex := max fl (-126)
  let qe := ex - p + 1
  let sh := e - qe
  let num := if 0 ≤ sh then n * 2 ^ sh.toNat else n
  let den := if 0 ≤ sh then d else d * 2 ^ (-sh).toNat
  let k := roundInt rm neg num den
  let inexact : Bool := num % den != 0
  let mag := (ex + 126).toNat * 2 ^ (p - 1) + k
  let sgn := if neg then 2 ^ (p + 7) else 0
  if 255 * 2 ^ (p - 1) ≤ mag then
    let toInf : Bool := rm == 0 || (rm == 2 && !neg) || (rm == 3 && neg)
    ((if toInf then 255 * 2 ^ (p - 1) else 255 * 2 ^ (p - 1) - 1) + sgn, { of := true, nx := true })
  else (mag + sgn, { nx := inexact, uf := inexact && fl < -126 })

/-- ROUND of a dyadic value; a zero takes the given sign. -/
def roundDy (p rm : Nat) (neg : Bool) (m : Nat) (e : Int) : Nat × Fl :=
  if m = 0 then (fZero p neg, {}) else roundQ p rm neg m 1 e

/-- An exact dyadic number m · 2^e. -/
structure Dy where
  m : Int
  e : Int
  deriving DecidableEq, Repr

def Dy.zero : Dy := ⟨0, 0⟩
def Dy.add (a b : Dy) : Dy :=
  if a.m = 0 then b else if b.m = 0 then a else
  let e := min a.e b.e
  ⟨a.m * 2 ^ (a.e - e).toNat + b.m * 2 ^ (b.e - e).toNat, e⟩
def Dy.mul (a b : Dy) : Dy := ⟨a.m * b.m, a.e + b.e⟩
def Dy.neg (a : Dy) : Dy := ⟨-a.m, a.e⟩
def Dy.ofFin (neg : Bool) (m : Nat) (e : Int) : Dy := ⟨if neg then -(m : Int) else m, e⟩
def Dy.ofInt (n : Int) : Dy := ⟨n, 0⟩
/-- a ≤ b. -/
def Dy.le (a b : Dy) : Bool := (Dy.add a (Dy.neg b)).m ≤ 0
/-- The order of two exact values: a < b. -/
def Dy.lt (a b : Dy) : Bool := (Dy.add a (Dy.neg b)).m < 0

/-- R196: ROUND of an exact sum; a zero sum takes `zneg` under every mode if every addend is −0, else + but in RDN. -/
def roundSum (p rm : Nat) (allNegZero : Bool) (v : Dy) : Nat × Fl :=
  if v.m = 0 then (fZero p (allNegZero || rm == 3), {}) else roundQ p rm (v.m < 0) v.m.natAbs 1 v.e

/-- R199: the first NaN of a priority list, quieted. NV is set if any input is signalling. -/
def pickNan (p : Nat) (xs : List Nat) : Option (Nat × Fl) :=
  match xs.find? (fIsNan p) with
  | some x => some (fQuiet p x, { nv := xs.any (fIsSnan p) })
  | none => none

def isZero : FV → Bool
  | .fin _ 0 _ => true
  | _ => false
def FV.neg : FV → Bool
  | .nan => false
  | .inf n => n
  | .fin n _ _ => n

/-- R199, R282: ROUND(±(x·y) + z), with NaN priority z, y, x. -/
def fFma (p rm : Nat) (flip : Bool) (x y z : Nat) : Nat × Fl :=
  let a := fDecode p x
  let b := fDecode p y
  let c := fDecode p z
  let zeroInf : Bool := match a, b with
    | .inf _, v => isZero v
    | v, .inf _ => isZero v
    | _, _ => false
  match pickNan p [z, y, x] with
  | some (v, f) => (v, { f with nv := f.nv || zeroInf })
  | none =>
    if zeroInf then (fNan p, { nv := true }) else
    let sg := (FV.neg a != FV.neg b) != flip
    match a, b, c with
    | .fin _ m e, .fin _ n f, .fin cn k g =>
      roundSum p rm (m * n == 0 && sg && k == 0 && cn) (Dy.add (Dy.ofFin sg (m * n) (e + f)) (Dy.ofFin cn k g))
    | .fin _ _ _, .fin _ _ _, c => (fInf p (FV.neg c), {})
    | _, _, .inf cn => if cn == sg then (fInf p sg, {}) else (fNan p, { nv := true })
    | _, _, _ => (fInf p sg, {})

/-- R282: ROUND(x + y). -/
def fAdd (p rm x y : Nat) : Nat × Fl :=
  match pickNan p [x, y] with
  | some r => r
  | none => match fDecode p x, fDecode p y with
    | .fin a m e, .fin b n f => roundSum p rm (m == 0 && n == 0 && a && b) (Dy.add (Dy.ofFin a m e) (Dy.ofFin b n f))
    | .inf a, .inf b => if a == b then (fInf p a, {}) else (fNan p, { nv := true })
    | .inf a, _ => (fInf p a, {})
    | _, v => (fInf p (FV.neg v), {})

/-- The sign bit of a number inverted; a NaN stays. -/
def fFlip (p x : Nat) : Nat :=
  if fIsNan p x then x else if fNeg p x then x - 2 ^ (p + 7) else x + 2 ^ (p + 7)

/-- R282: ROUND(x − y). -/
def fSub (p rm x y : Nat) : Nat × Fl := fAdd p rm x (fFlip p y)

/-- R282: ROUND(x · y). -/
def fMul (p rm x y : Nat) : Nat × Fl :=
  match pickNan p [x, y] with
  | some r => r
  | none =>
    let a := fDecode p x
    let b := fDecode p y
    let sg := FV.neg a != FV.neg b
    match a, b with
    | .fin _ m e, .fin _ n f => roundDy p rm sg (m * n) (e + f)
    | u, v => if isZero u || isZero v then (fNan p, { nv := true }) else (fInf p sg, {})

/-- R291: FDIV. -/
def fDiv (p rm x y : Nat) : Nat × Fl :=
  match pickNan p [x, y] with
  | some r => r
  | none =>
    let a := fDecode p x
    let b := fDecode p y
    let sg := FV.neg a != FV.neg b
    match a, b with
    | .fin _ m e, .fin _ n f =>
      if n = 0 then (if m = 0 then (fNan p, { nv := true }) else (fInf p sg, { dz := true }))
      else if m = 0 then (fZero p sg, {}) else roundQ p rm sg m n (e - f)
    | .inf _, .inf _ => (fNan p, { nv := true })
    | .inf _, _ => (fInf p sg, {})
    | _, _ => (fZero p sg, {})

/-- x < y in the order of R200, −0 below +0; neither is a NaN. -/
def fBelow (p x y : Nat) : Bool :=
  match fNeg p x, fNeg p y with
  | true, false => true
  | false, true => false
  | false, false => x < y
  | true, true => y < x

/-- R200, R282: FMIN and FMAX. -/
def fMinMax (p : Nat) (mx : Bool) (x y : Nat) : Nat × Fl :=
  match pickNan p [x, y] with
  | some r => r
  | none => (if fBelow p x y != mx then x else y, {})

/-- The numeric order of two numbers, infinities included. -/
def fLess (p x y : Nat) : Bool :=
  match fDecode p x, fDecode p y with
  | .fin a m e, .fin b n f => Dy.lt (Dy.ofFin a m e) (Dy.ofFin b n f)
  | .inf a, .inf b => a && !b
  | .inf a, _ => a
  | _, .inf b => !b
  | _, _ => false
def fEqual (p x y : Nat) : Bool := !fIsNan p x && !fIsNan p y && !fLess p x y && !fLess p y x

/-- R285: FCMP. -/
def fCompare (p cond x y : Nat) : Bool × Fl :=
  let un := fIsNan p x || fIsNan p y
  let sn := fIsSnan p x || fIsSnan p y
  match cond with
  | 0 => (fEqual p x y, { nv := sn })
  | 1 => (!fEqual p x y, { nv := sn })
  | 2 => (!un && fLess p x y, { nv := un })
  | 3 => (!un && !fLess p y x, { nv := un })
  | _ => (un, { nv := sn })

/-- R286: FCLASS. -/
def fClassify (p x : Nat) : Nat :=
  let n := fNeg p x
  if fIsNan p x then (if fIsSnan p x then 2 ^ 8 else 2 ^ 9)
  else if fExp p x == 255 then (if n then 1 else 2 ^ 7)
  else if fExp p x == 0 then
    (if fFrac p x == 0 then (if n then 2 ^ 3 else 2 ^ 4) else (if n then 2 ^ 2 else 2 ^ 5))
  else (if n then 2 else 2 ^ 6)

/-- R197: a float to an integer of the range lo to hi. -/
def fToInt (p rm : Nat) (lo hi : Int) (x : Nat) : Int × Fl :=
  match fDecode p x with
  | .nan => (0, { nv := true })
  | .inf n => (if n then lo else hi, { nv := true })
  | .fin n m e =>
    let num := if 0 ≤ e then m * 2 ^ e.toNat else m
    let den := if 0 ≤ e then 1 else 2 ^ (-e).toNat
    let k : Int := roundInt rm n num den
    let v := if n then -k else k
    if v < lo then (lo, { nv := true }) else if hi < v then (hi, { nv := true })
    else (v, { nx := num % den != 0 })

/-- R197: an integer to a float. -/
def fOfInt (p rm : Nat) (n : Int) : Nat × Fl := roundDy p rm (n < 0) n.natAbs 0

/-- R197: FP32 to BF16. -/
def fNarrow (rm x : Nat) : Nat × Fl :=
  match fDecode pFP32 x with
  | .nan => (fQuiet pBF16 (x / 65536), { nv := fIsSnan pFP32 x })
  | .inf n => (fInf pBF16 n, {})
  | .fin n m e => roundDy pBF16 rm n m e

/-- R197: BF16 to FP32. -/
def fWiden (x : Nat) : Nat × Fl :=
  let y := x % 65536 * 65536
  if fIsNan pFP32 y then (fQuiet pFP32 y, { nv := fIsSnan pFP32 y }) else (y, {})

-- the SFU's functions

/-- ⌊√n⌋ by its bits from b − 1 down. -/
def isqrt (n : Nat) : Nat → Nat
  | 0 => 0
  | b + 1 =>
    -- the root of the higher bits, then this bit
    let r := isqrt (n / 4) b * 2
    if (r + 1) * (r + 1) ≤ n then r + 1 else r

/-- Half the bits of n, for isqrt. -/
def halfBits (n : Nat) : Nat := Nat.log2 n / 2 + 1

/-- R291: FSQRT. -/
def fSqrt (p rm x : Nat) : Nat × Fl :=
  match pickNan p [x] with
  | some r => r
  | none => match fDecode p x with
    | .fin n m e =>
      if m = 0 then (x, {}) else if n then (fNan p, { nv := true }) else
      -- m·2^e = M·2^(2k) with 128 bits or more in M; a sticky bit stands for the remainder
      let up : Nat := 128 + (e % 2).toNat
      let mm := m * 2 ^ up
      let r := isqrt mm (halfBits mm)
      roundQ p rm false (2 * r + (if r * r == mm then 0 else 1)) 1 ((e - up) / 2 - 1)
    | .inf n => if n then (fNan p, { nv := true }) else (x, {})
    | .nan => (x, {})

/-- R291: FRCP. -/
def fRcp (p rm x : Nat) : Nat × Fl :=
  match pickNan p [x] with
  | some r => r
  | none => match fDecode p x with
    | .fin n m e => if m = 0 then (fInf p n, { dz := true }) else roundQ p rm n 1 m (-e)
    | .inf n => (fZero p n, {})
    | .nan => (x, {})

/-- R291: FRSQ. -/
def fRsq (p rm x : Nat) : Nat × Fl :=
  match pickNan p [x] with
  | some r => r
  | none => match fDecode p x with
    | .fin n m e =>
      if m = 0 then (fInf p n, { dz := true }) else if n then (fNan p, { nv := true }) else
      -- 1/(m·2^e) = (2^(2k)/M)·2^(−2k−f), f even
      let od := (e % 2).toNat
      let mm := m * 2 ^ od
      let q := 2 ^ 256 / mm
      let r := isqrt q (halfBits q)
      roundQ p rm false (2 * r + (if r * r * mm == 2 ^ 256 then 0 else 1)) 1 (-((e - od) / 2) - 129)
    | .inf n => if n then (fNan p, { nv := true }) else (fZero p false, {})
    | .nan => (x, {})

/-- A real number that a function of the SFU gives: an exact dyadic one, or one strictly between two. -/
inductive Rl where
  | exact (neg : Bool) (m : Nat) (e : Int)
  | within (neg : Bool) (lo hi : Nat) (den : Nat) (e : Int)
  deriving DecidableEq, Repr

/-- R198: one rounding of the exact function value. Where the bounds round differently, the free value of Config. -/
def roundRl (p rm fn x : Nat) (r : Rl) : Nat × Fl :=
  match r with
  | .exact n m e => roundDy p rm n m e
  | .within n lo hi den e =>
    -- odd numerators just outside the bounds, so that neither rounds exactly
    let a := roundQ p rm n (2 * lo - 1) (2 * den) e
    let b := roundQ p rm n (2 * hi + 1) (2 * den) e
    if a = b then a
    else ((Config.elementary fn (BitVec.ofNat 32 x) p rm).toNat % 2 ^ (p + 8), { nx := true })

/-- The fixed point of the series below: 2^−256. -/
def fx : Nat := 2 ^ 256
/-- ⌊ln 2 · 2^256⌋. -/
def ln2 : Nat := 80260960185991308862233904206310070533990667611589946606122867505419956976171
/-- What a bound is moved by, 2^−200: more than every error of the series below. -/
def slack : Nat := 2 ^ 56

/-- Σ t_k with t_{k+1} = t_k·y/k: the exponential series from its k-th term on, y in fixed point. -/
def expSeries (y : Int) (t : Int) (k : Nat) : Nat → Int
  | 0 => 0
  | n + 1 => t + expSeries y (t * y / (fx * k : Nat)) (k + 1) n

/-- e^y for |y| < 1, in fixed point. -/
def expFx (y : Int) : Int := expSeries y fx 1 64

/-- 2^v for a dyadic v = m·2^e. -/
def exp2Rl (v : Dy) : Rl :=
  if 0 ≤ v.e then .exact false 1 (max (v.m * 2 ^ (min v.e 40).toNat) (-400))
  else
    let d : Nat := 2 ^ (-v.e).toNat
    let n := v.m / d
    let f := (v.m % d).toNat
    if f = 0 then .exact false 1 (max n (-400))
    else if n < -400 then .within false 1 2 1 (-400)
    else
      let y := f * ln2 / d
      let r := (expFx y).toNat
      .within false (r - slack) (r + slack) fx n

/-- Σ z^(2j+1)/(2j+1). -/
def atanhSeries (z2 : Nat) (t : Nat) (k : Nat) : Nat → Nat
  | 0 => 0
  | n + 1 => t / k + atanhSeries z2 (t * z2 / fx) (k + 2) n

/-- log2 of m·2^e, m > 0. -/
def log2Rl (m : Nat) (e : Int) : Rl :=
  let k := Nat.log2 m
  let n : Int := e + k
  if m = 2 ^ k then .exact (n < 0) n.natAbs 0
  else
    -- m = f·2^k with 1 < f < 2: ln f = 2·atanh((f − 1)/(f + 1))
    let z := (m - 2 ^ k) * fx / (m + 2 ^ k)
    let l := 2 * atanhSeries (z * z / fx) z 1 96
    let v : Int := n * fx + (l * fx / ln2 : Nat)
    let a := v.natAbs
    .within (v < 0) (a - slack) (a + slack) fx 0

/-- tanh of m·2^e, m > 0. -/
def tanhRl (neg : Bool) (m : Nat) (e : Int) : Rl :=
  if floorLog m 1 + e < -12 then
    -- x − x³/3 < tanh x < x − x³/3 + 2x⁵/15, with e < 0 here
    let d := 2 ^ (-e).toNat
    .within neg (5 * m * (3 * d * d - m * m) * d * d) (m * (15 * d ^ 4 - 5 * m * m * d * d + 2 * m ^ 4)) (15 * d ^ 5) 0
  else if 6 ≤ floorLog m 1 + e then .within neg (2 ^ 128 - 3) (2 ^ 128 - 2) (2 ^ 128) 0  -- all from 1 − 2^−64 to 1 round alike
  else
    -- t = e^(−2x) = 2^(−n)·e^(−r); tanh x = (1 − t)/(1 + t)
    let w := if 0 ≤ e then 2 * m * 2 ^ e.toNat * fx else 2 * m * fx / 2 ^ (-e).toNat
    let n := w / ln2
    let r : Int := (w % ln2 : Nat)
    let t := (expFx (-r)).toNat / 2 ^ n
    let q := (fx - t) * fx / (fx + t)
    .within neg (q - slack) (q + slack) fx 0

/-- R291: 2^v of a value that is no NaN; `x` is its bit pattern, for the free value of R198. -/
def exp2Of (p rm x : Nat) : FV → Nat × Fl
  | .inf n => if n then (fZero p false, {}) else (fInf p false, {})
  | .fin n m e => if m = 0 then roundDy p rm false 1 0 else roundRl p rm 0 x (exp2Rl (Dy.ofFin n m e))
  | .nan => (fNan p, {})

/-- e^v of m·2^e, m > 0 (R228). -/
def expRl (neg : Bool) (m : Nat) (e : Int) : Rl :=
  if 10 ≤ floorLog m 1 + e then (if neg then .within false 1 2 1 (-400) else .exact false 1 400)
  else
    let a : Nat := if 0 ≤ e then m * 2 ^ e.toNat * fx else m * fx / 2 ^ (-e).toNat
    let w : Int := if neg then -(a : Int) else a
    let n := w / (ln2 : Int)
    let r := (expFx (w % (ln2 : Int))).toNat
    if n < -400 then .within false 1 2 1 (-400) else .within false (r - slack) (r + slack) fx n

/-- R228: RNE(exp(x)) of FP32 bits. -/
def fNatExp (x : Nat) : Nat × Fl :=
  match pickNan pFP32 [x] with
  | some r => r
  | none => match fDecode pFP32 x with
    | .inf n => if n then (fZero pFP32 false, {}) else (fInf pFP32 false, {})
    | .fin n m e => if m = 0 then roundDy pFP32 0 false 1 0 else roundRl pFP32 0 3 x (expRl n m e)
    | .nan => (fNan pFP32, {})

/-- R291: FEXP2. -/
def fExp2 (p rm x : Nat) : Nat × Fl :=
  match pickNan p [x] with
  | some r => r
  | none => exp2Of p rm x (fDecode p x)

/-- R291: FLOG2. -/
def fLog2 (p rm x : Nat) : Nat × Fl :=
  match pickNan p [x] with
  | some r => r
  | none => match fDecode p x with
    | .inf n => if n then (fNan p, { nv := true }) else (x, {})
    | .fin n m e =>
      if m = 0 then (fInf p true, { dz := true })
      else if n then (fNan p, { nv := true })
      else roundRl p rm 1 x (log2Rl m e)
    | .nan => (x, {})

/-- R291: tanh of a value that is no NaN. -/
def tanhOf (p rm x : Nat) : FV → Nat × Fl
  | .inf n => roundDy p rm n 1 0
  | .fin n m e => if m = 0 then (fZero p n, {}) else roundRl p rm 2 x (tanhRl n m e)
  | .nan => (fNan p, {})

/-- R291: FTANH. -/
def fTanh (p rm x : Nat) : Nat × Fl :=
  match pickNan p [x] with
  | some r => r
  | none => tanhOf p rm x (fDecode p x)

end Sys2Proof.Machine
end

