-- ==== Sys2Proof/Machine/Channels.lean ====
section
/-!
DEFINITION. Channels (R115 to R117, R231, R232): QBIND, QUNB, QGRANT, QALT and QSTAT (R331 to R336), the messages of
mesh networks 2 and 3 that carry words, grants, revokes and returns (R332, R333), and roles with RECAST (R101, R233,
R344, R345).
-/
namespace Sys2Proof.Machine

/-- The physical core that a binding's peer names. -/
def State.peerCore (s : State) (ctx : Nat) (b : Binding) : Option Nat := (s.ctx ctx).phys b.peer.toNat

/-- R121, R331: the slot whose queue registers an instruction works on: both threads of a redundant pair use the leading
slot's. -/
def State.queueSlot (s : State) : Slot :=
  if s.me.task.any (·.trailing) then s.slot ⟨s.cur.core, s.cur.slot - 4⟩ else s.me

/-- R115, R139: ILLEGAL on a queue register. The trailing thread of a pair takes it with the leading thread. -/
def State.queueIllegal (s : State) (bad : Bool) (n : Nat) : Option (Cause × Word) :=
  if bad && !s.me.task.any (·.trailing) then some (.illegal, w64 n) else none

/-- R331: the RECV endpoint that a SEND names. -/
def State.sendTarget (s : State) (ctx : Nat) (b : Binding) : Option EndId :=
  (s.peerCore ctx b).map (fun c => ⟨c, b.pslot.toNat, b.pq.toNat⟩)

/-- The queue registers of a slot that are SENDs to an endpoint. -/
def State.sendsTo (s : State) (i : SlotId) (e : EndId) : List Nat :=
  let ctx := (s.core i.core).tenant.toNat
  (upFrom 0 16).filter (fun q => ((s.slot i).qreg q).kind == 1 && s.sendTarget ctx ((s.slot i).qreg q) == some e)

/-- R332: whether the endpoint is a RECV that names the sender. -/
def State.recvNames (s : State) (e : EndId) (sender : SlotId) : Bool :=
  let b := (s.slot ⟨e.core, e.slot⟩).qreg e.q
  b.kind == 2 && s.peerCore (s.core e.core).tenant.toNat b == some sender.core && b.pslot.toNat == sender.slot

def State.modQ (s : State) (i : SlotId) (q : Nat) (f : Binding → Binding) : State :=
  s.modSlot i (fun m => m.setQ q (f (m.qreg q)))

/-- R332, R333: whether the endpoint still has the binding whose allowance a word or a return carries. -/
def State.recvTakes (s : State) (e : EndId) (sender : SlotId) (gen : Nat) : Bool :=
  s.recvNames e sender && ((s.slot ⟨e.core, e.slot⟩).qreg e.q).gen == gen

/-- R116: a pushed word reaches its RECV, or is discarded there (R332, R333). None is the error entry of a sealed
sender, which also sets DEAD (R145). The sender's pushes in flight fall by one (R117). -/
def execChannelWordArrive (c : Channel) (gen : Nat) (w : Option Word) (s : State) :
    Host.Outcome State Fault Refusal :=
  let s := if w.isSome then
      match s.sendsTo c.send c.recv with
      | q :: _ => s.modQ c.send q (fun b => { b with sent := b.sent - 1 })
      | [] => s
    else s
  if s.recvTakes c.recv c.send gen && (s.core c.recv.core).sealed.isNone then
    let s := s.modCore c.recv.core (fun k => { k with emptySince := k.cyc.toNat })
    .next (s.modQ ⟨c.recv.core, c.recv.slot⟩ c.recv.q (fun b => { b with
      entries := b.entries ++ [w], allow := if w.isSome then b.allow - 1 else b.allow, dead := b.dead || w.isNone }))
  else .next s

/-- R231, R332, R334: a grant reaches the sender, waits at its NI for QBIND, or is dropped at a sealed sender. -/
def execGrantArrive (c : Channel) (n gen : Nat) (s : State) : Host.Outcome State Fault Refusal :=
  if (s.core c.send.core).sealed.isSome then .next s
  else match s.sendsTo c.send c.recv with
    | q :: _ => .next (s.modQ c.send q (fun b => { b with allow := b.allow + n, gen := gen }))
    | [] => .next (s.modCore c.send.core (fun k => { k with early := k.early ++ [(c.recv, c.send, n, gen)] }))

/-- R333: a revoke from an unbinding receiver reaches the sender that it named. -/
def execRevokeArrive (c : Channel) (s : State) : Host.Outcome State Fault Refusal :=
  let s := (s.sendsTo c.send c.recv).foldl (fun s q => s.modQ c.send q (fun b => { b with allow := 0, gen := 0 })) s
  .next (s.modCore c.send.core (fun k => { k with
    early := k.early.filter (fun g => !(g.1 == c.recv && g.2.1 == c.send)) }))

/-- R333: unused allowance returned by an unbinding sender. -/
def execAllowanceReturn (c : Channel) (n gen : Nat) (s : State) : Host.Outcome State Fault Refusal :=
  if s.recvTakes c.recv c.send gen then .next (s.modQ ⟨c.recv.core, c.recv.slot⟩ c.recv.q (fun b => { b with allow := b.allow - n }))
  else .next s

-- binding

/-- R331: the binding word's fields. -/
def bindingOf (w : Word) : Binding :=
  ⟨BitVec.ofNat 3 (wbits w 2 0), BitVec.ofNat 12 (wbits w 19 8), BitVec.ofNat 3 (wbits w 22 20),
    BitVec.ofNat 4 (wbits w 26 23), 0, [], 0, false, 0⟩

/-- R331: KIND 1 to 6, no RSV bit, no field that the kind does not use. -/
def bindingOk (w : Word) : Bool :=
  let b := bindingOf w
  b.kind != 0 && b.kind != 7 && wbits w 7 3 == 0 && wbits w 63 27 == 0 && (b.kind == 1 || b.pq == 0)
    && (b.kind.toNat ≤ 2 || (b.peer == 0 && b.pslot == 0))

def execQbind (sBit : Bool) (q : BitVec 4) (b : Reg) (s : State) : Host.Outcome State Fault Refusal :=
  let n := q.toNat
  issue s (Info.synch sBit 2 [codeG b] [codeQ q] false 10 [w64 n, s.g b])
    (s.queueIllegal ((s.me.qreg n).kind != 0) n)
    (fun s =>
      let w := s.g b
      let x := bindingOf w
      if !bindingOk w then .trap .illegal w
      else if x.kind.toNat ≤ 2 then
        match s.peerCore s.myCtx x with
        | none => .trap .coord w
        | some peer =>
          let dead := (s.core peer).sealed.isSome
          let e : EndId := ⟨peer, x.pslot.toNat, x.pq.toNat⟩
          if x.kind == 1 && s.allSlots.any (fun i => !(s.sendsTo i e).isEmpty) then .trap .illegal (w64 n) else
          let mine := s.myCore.early.filter (fun g => x.kind == 1 && g.1 == e && g.2.1 == s.cur)
          let allow := (mine.map (fun g => g.2.2.1)).foldl (· + ·) 0
          let gen := if x.kind == 2 then s.now + 1 else (mine.getLast?.map (fun g => g.2.2.2)).getD 0
          let s := s.modCore s.cur.core (fun c => { c with early := c.early.filter (fun g => !mine.contains g) })
          .done (s.modQ s.cur n (fun _ => { x with allow := allow, dead := dead, gen := gen }))
      else if (upFrom 0 16).any (fun k => (s.me.qreg k).kind == x.kind) then .trap .illegal (w64 n)
      else .done (s.modQ s.cur n (fun _ => x)))

/-- R333: a queue register unbound. -/
def State.unbind (s : State) (i : SlotId) (n : Nat) : State :=
  let b := (s.slot i).qreg n
  let ctx := (s.core i.core).tenant.toNat
  let s := match b.kind.toNat with
    | 1 => match s.sendTarget ctx b with
      | some e => if b.allow = 0 then s else s.post (.allowanceReturn ⟨e, i⟩ b.allow b.gen)
      | none => s
    | 2 => match s.peerCore ctx b with
      | some c => s.post (.revokeArrive ⟨⟨i.core, i.slot, n⟩, ⟨c, b.pslot.toNat⟩⟩)
      | none => s
    | 0 => s
    | k => s.modSlot i (fun m => m.setFifo k Fifo.empty)
  s.modQ i n (fun _ => Binding.unbound)

/-- R115, R117: the operand words of a slot's engine endpoint that its engine has not yet taken. Of the copies the engine has
taken the first one to be done, unless results keep it from its next one; of the Jig commands the one whose pass has begun. -/
def State.opsHeld (s : State) (i : SlotId) (kind : Nat) : Nat :=
  match kind with
  | 5 =>
    let open_ := (s.core i.core).copy.filter (fun c => !c.getr && !c.finished)
    ((if s.copyStalls i.core then open_ else open_.drop 1).filter (fun c => c.slot == i.slot && c.pushed)).length
  | 6 => ((s.die (i.core / 1024)).jig.filter (fun c => c.issuer == i && c.pushed && !c.begun)).length
  | k => ((s.slot i).fifoOf k).ops.length

def execQunb (sBit : Bool) (q : BitVec 4) (s : State) : Host.Outcome State Fault Refusal :=
  let n := q.toNat
  issue s (Info.synch sBit 2 [] [codeQ q] false 11 [w64 n])
    (s.queueIllegal ((s.me.qreg n).kind == 0) n)
    (fun s =>
      let k := (s.me.qreg n).kind.toNat
      if 3 ≤ k && s.opsHeld s.cur k != 0 then .park Wait.poll s else .done (s.unbind s.cur n))

/-- R334, R231. -/
def execQgrant (h : Hdr) (a : Reg) (q : BitVec 4) (y : Src) (s : State) : Host.Outcome State Fault Refusal :=
  let n := q.toNat
  issue s (Info.synch h.s (lenP h.rgx (Src.n y)) (codeQ q :: Src.codes y) [codeG a] true 12 [w64 n, Src.val y s])
    (s.queueIllegal ((s.me.qreg n).kind != 2) n)
    (fun s =>
      let b := s.me.qreg n
      let k := min (Src.val y s).toNat (16 - b.entries.length - b.allow)
      let s := s.modQ s.cur n (fun b => { b with allow := b.allow + k })
      let s := match k, s.peerCore s.myCtx b with
        | 0, _ => s
        | _, some c => s.post (.grantArrive ⟨⟨s.cur.core, s.cur.slot, n⟩, ⟨c, b.pslot.toNat⟩⟩ k b.gen)
        | _, none => s
      .done (s.setG a (w64 k)))

/-- R232: whether a queue register is ready. -/
def Slot.qReady (m : Slot) (n : Nat) : Bool :=
  let b := m.qreg n
  match b.kind.toNat with
  | 0 => false
  | 1 => b.dead || 0 < b.allow
  | 2 => b.dead || !b.entries.isEmpty
  | k => !(m.fifoOf k).res.isEmpty

/-- R335: the lowest-numbered ready register of the mask; XVAL of a WAITLIMIT is the mask. -/
def execQalt (sBit : Bool) (a b : Reg) (s : State) : Host.Outcome State Fault Refusal :=
  issue s (Info.synch sBit 2 [codeG b] [codeG a] true 13 [s.g b]) none (fun s =>
    let mask := wbits (s.g b) 15 0
    if mask = 0 then .trap .illegal ((Instr.firstWord (.qalt sBit a b)).setWidth 64)
    else match (upFrom 0 16).find? (fun n => mask / 2 ^ n % 2 == 1 && s.me.qReady n) with
      | some n => .done (s.addRet (Ret.plain (codeG a) (w64 n)))
      | none => .park (Wait.restartable (w64 mask)) s)

/-- R117: the state of a queue register of a slot. COUNT of an engine endpoint is its unread results and the operand words
that the engine has not yet taken. -/
def State.qstat (s : State) (i : SlotId) (n : Nat) : Word :=
  let m := s.slot i
  let b := m.qreg n
  let k := b.kind.toNat
  let count := match k with
    | 0 => 0
    | 1 => b.sent
    | 2 => b.entries.length
    | k => (m.fifoOf k).res.length + s.opsHeld i k
  w64 (k + 8 * b.dead.toNat + 2 ^ 8 * (count % 256) + 2 ^ 16 * (b.allow % 65536) + 2 ^ 32 * b.peer.toNat
    + 2 ^ 44 * b.pslot.toNat)

def execQstat (sBit : Bool) (a : Reg) (q : BitVec 4) (s : State) : Host.Outcome State Fault Refusal :=
  issue s { Info.chunked sBit 2 [codeQ q] [codeG a] with ext := true } none
    (fun s => .done (s.setG a (s.qstat s.cur q.toNat)))

-- roles

def execRole (sBit : Bool) (a : Reg) (s : State) : Host.Outcome State Fault Refusal :=
  issue s { Info.chunked sBit 2 [] [codeG a] with ext := true } none (fun s => .done (s.setG a ((s.me.ids[18]?).getD 0)))

/-- R344: a recast is sent on network 3; its status comes back to the waiting instruction. -/
def execRecast (sBit : Bool) (a b c : Reg) (s : State) : Host.Outcome State Fault Refusal :=
  issue s (Info.synch sBit 3 [codeG b, codeG c] [codeG a] true 14 [s.g b, s.g c]) none (fun s =>
    let role := wbits (s.g c) 3 0
    match (s.ctx s.myCtx).phys (wbits (s.g b) 11 0) with
    | none => .trap .coord (s.g b)
    | some t =>
      if role = 0 || 8 < role then .done (s.addRet (Ret.plain (codeG a) 3))
      else match s.me.resume with
        | some r => .done (s.addRet (Ret.plain (codeG a) r.value))
        | none =>
          if s.me.sent then .park Wait.poll s
          else .park Wait.poll ((s.modMe (fun m => { m with sent := true })).post (.recastArrival s.cur t (s.g c))))

/-- R101: whether every RECV endpoint of a core is empty. -/
def Core.recvEmpty (c : Core) : Bool :=
  c.slots.all (fun m => m.q.all (fun b => b.kind != 2 || b.entries.isEmpty))

/-- R101, R233: a recast decided at the target's NI, after the pushes that arrived in the same cycle. -/
def execRecastArrival (src : SlotId) (target : Nat) (word : Word) (s : State) :
    Host.Outcome State Fault Refusal :=
  let c := s.core target
  let answer (s : State) (v : Nat) : State :=
    s.modSlot src (fun m => if m.sent then { m with resume := some ⟨w64 v, none, none, false⟩ } else m)
  let s := s.modCore target (fun c => { c with recastAt := some c.cyc.toNat })
  if c.sealed.isSome then .next (answer s 2)
  else if c.recvEmpty && c.emptySince + 8 * c.recastwait.toNat ≤ c.cyc.toNat then
    let c := { s.core target with
      role := BitVec.ofNat 4 (wbits word 3 0), param := BitVec.ofNat 16 (wbits word 31 16), recast := true
      emptySince := c.cyc.toNat }
    .next (answer (s.setCore target { c with
      slots := c.slots.map (fun m => { m with ids := m.ids.set 18 c.roleWord }) }) 0)
  else .next (answer s 1)

end Sys2Proof.Machine
end

