-- ==== Sys2Proof/Machine/Estates.lean ====
section
/-!
DEFINITION. Holdings (R124 to R136): estate entries and acquisition numbers, status words (R351, R352), group references
(R353), grants and bereaved marks (R132), conveyance (R130), HEIRLESS (R134), the notices of R135, EXIT and its report
(R131), and HEIR, ESTQ, CAPGV, CAPTK and CAPQ (R365 to R369).
-/
namespace Sys2Proof.Machine

-- status words

/-- R352: the status codes. -/
def stOK : Nat := 0
def stPOISONED : Nat := 1
def stBROKEN : Nat := 2
def stNOESTATE : Nat := 3
def stMODE : Nat := 4
def stNOTHOLDER : Nat := 5
def stBUSY : Nat := 6
def stBADGROUP : Nat := 7
def stSELF : Nat := 8
def stNONE : Nat := 9

/-- R351: a status word. -/
def statusWord (code : Nat) (brv : Bool) (info edie : Nat) : Word :=
  w64 (code + 2 ^ 8 * brv.toNat + 2 ^ 16 * (info % 2 ^ 16) + 2 ^ 32 * (edie % 4))

/-- A status as a returning value; `marks` for LRW, CAPTK and PWAIT, which copy BRV into XSTAT (R351). -/
def State.answer (s : State) (a : Reg) (w : Word) (marks : Bool) (mark : Option Word) : State :=
  s.addRet { Ret.plain (codeG a) w with bereaved := mark, marksBrv := marks }

/-- A bare status code. -/
def State.stat (s : State) (a : Reg) (code : Nat) (marks : Bool) : Res :=
  .done (s.answer a (statusWord code false 0 0) marks none)

-- groups

/-- R353: the issuer's level-L group; none for a level that the launch does not have. -/
def State.myGroup (s : State) (lvl : Nat) : Option GroupRef :=
  match s.me.task with
  | none => none
  | some t => match s.launch t.ref.ctx t.ref.lslot with
    | none => none
    | some l => if l.nlvl ≤ lvl then none
      else if t.sup then some (mkSup t.ref.ctx t.ref.lslot t.supDie) else some (groupAt l t.ref lvl)

/-- R353: a group reference in a register, if it is valid. -/
def State.refOf (s : State) (w : Word) : Option GroupRef :=
  let r : GroupRef := w.setWidth 48
  let ctx := s.myCtx
  if wbits w 63 48 != 0 || refCtx r != ctx then none
  else match s.launch ctx (refLslot r) with
    | none => none
    | some l =>
      if refSup r then
        (if refLevel r == 0 && refNode r < 4 && (s.ctx ctx).hasWin (refNode r) then some r else none)
      else if l.nlvl ≤ refLevel r then none else some r

/-- Whether the issuer belongs to a group (R353). -/
def State.meIn (s : State) (r : GroupRef) : Bool := s.me.task.any (s.taskIn r)
/-- Whether the task of a slot belongs to a group. -/
def State.slotIn (s : State) (r : GroupRef) (i : SlotId) : Bool := (s.slot i).task.any (s.taskIn r)

/-- R147: the generation of the level-0 group that the task of a slot belongs to. -/
def State.slotGen (s : State) (i : SlotId) : Nat := ((s.slot i).task.map (·.gen)).getD 0

/-- Whether the task of a slot belongs to the holder of an entry. -/
def State.holds (s : State) (e : Estate) (i : SlotId) : Bool :=
  s.slotIn e.holder i && (refSup e.holder || refLevel e.holder != 0 || e.gen == s.slotGen i)
def State.meHolds (s : State) (e : Estate) : Bool := s.holds e s.cur

/-- R85, R353: the SCOPE of a group's level; a supervisor's is that of level 0. -/
def State.scopeOf (s : State) (r : GroupRef) : Nat :=
  match s.launch (refCtx r) (refLslot r) with
  | some l => Rec.scope l.record (if refSup r then 0 else refLevel r)
  | none => 0
def State.farScope (s : State) (r : GroupRef) : Bool := 5 ≤ s.scopeOf r

-- releases and acquires (R353, R185, R191)

/-- R353, R276: what a release of a scope still waits for, or the trap of a failed flow; none when it may go on. -/
def State.releaseWait (s : State) (scope : Nat) : Option Res :=
  match (if 5 ≤ scope then s.lostWrite s.me.cover else none) with
  | some dst => some (.trap .fenced (w64 dst))
  | none =>
    if scope = 5 && (s.coverHere || s.coverFar) then some (.park Wait.forCover s)
    else if scope = 6 && s.coverFar then some (.park Wait.forCover s)
    else none

/-- The key under which a die keeps what releases of an estate entry cover. -/
def entryKey (idx : Nat) : Nat := 2 ^ 30 + idx

/-- R191: a release leaves what it covers with the object. -/
def State.leaveCover (s : State) (die key : Nat) : State :=
  if s.me.cover.isEmpty then s
  else s.keepCover.modDie die (fun d => { d with covers := tset d.covers key (setUnion (tget d.covers [] key) s.me.cover) })
/-- R191: an acquire takes over what the object's releases covered. -/
def State.takeCover (s : State) (die key : Nat) : State :=
  s.joinCover.modMe (fun m => { m with cover := setUnion m.cover (tget (s.die die).covers [] key) })

/-- R192: the record of release-check mode for a release at an address, by an instruction of a page above 0. -/
def State.noteRelease (s : State) (addr : Word) : State := s.releaseCheck addr (0xFC05 : Half)

/-- The end of an instruction that acquired: what follows is held back at a far scope. -/
def Res.acquire (s : State) (far : Bool) : Res := if far then .acquired s else .done s

-- entries

/-- The lowest number that a table does not list. -/
def firstGap {α : Type} : Tab α → Nat → Nat
  | [], k => k
  | (j, _) :: t, k => if j = k then firstGap t (k + 1) else k

/-- R128: the next acquisition number of a die. -/
def State.takeAseq (s : State) (die : Nat) : Word × State :=
  let n := (s.die die).acq
  (n, s.modDie die (fun d => { d with acq := n + 1 }))

def State.entry (s : State) (die idx : Nat) : Estate := tget (s.die die).estates Estate.free idx
def State.setEntry (s : State) (die idx : Nat) (e : Estate) : State :=
  s.modDie die (fun d => { d with estates := tset d.estates idx e })
/-- R128: an entry freed. -/
def State.freeEntry (s : State) (die idx : Nat) : State :=
  s.modDie die (fun d => { d with estates := tdel d.estates idx, covers := tdel d.covers (entryKey idx) })

/-- R127, R365: an entry with its heir set; the supervisor of the entry's own die is HEIRK 2. -/
def State.withHeir (s : State) (die : Nat) (e : Estate) (h : Option GroupRef) : Estate :=
  match h with
  | none => { e with heirk := 1, heir := 0 }
  | some r =>
    if refSup r && refNode r % 4 == (s.ctx (refCtx r)).logDie die then { e with heirk := 2, heir := 0 }
    else { e with heirk := 0, heir := r }

/-- R129: an entry with the default heir of a group. -/
def State.withDefault (s : State) (die : Nat) (e : Estate) (g : GroupRef) : Estate :=
  s.withHeir die e (s.defaultHeir g ((s.ctx (refCtx g)).logDie die))

/-- R147: the generation under which a group holds what it is given. -/
def State.heldGen (s : State) (g : GroupRef) : Nat :=
  if refSup g || refLevel g != 0 then 0 else ((s.launch (refCtx g) (refLslot g)).map (fun l => l.heirGen (refNode g))).getD 0

/-- R128, R354: an entry whose holder becomes a group under a new acquisition number. -/
def State.hold (s : State) (die idx : Nat) (e : Estate) (g : GroupRef) : State :=
  let (n, s) := s.takeAseq die
  s.setEntry die idx (s.withDefault die
    { e with holder := g, brv := false, st := 0, depth := 0, aseq := n, offer := none, gen := s.heldGen g } g)

/-- R147: an entry obtained by the task of a slot. -/
def State.holdFor (s : State) (die idx : Nat) (e : Estate) (g : GroupRef) (i : SlotId) : State :=
  let s := s.hold die idx e g
  if refSup g || refLevel g != 0 then s else s.setEntry die idx { s.entry die idx with gen := s.slotGen i }

/-- R128: a free entry taken for the issuer, the lowest-numbered one; none where the table is full. -/
def State.newEntry (s : State) (die : Nat) (kind : BitVec 2) (hid : Word) (g : GroupRef) : Option (Nat × State) :=
  let idx := firstGap (s.die die).estates 0
  if 65536 ≤ idx then none else some (idx, s.holdFor die idx { Estate.free with kind := kind, hid := hid } g s.cur)

/-- The entry of a lock or promise, by its variable. -/
def State.varEntry (s : State) (v : VarId) : Option (Nat × Estate) :=
  (s.die v.die).estates.find? (fun e => (e.2.kind == 1 || e.2.kind == 3) && gaOff e.2.hid.toNat / 16 == v.v)

/-- The entry of an object of a context, by its holding identifier. -/
def State.objEntry (s : State) (die ctx hid : Nat) : Option (Nat × Estate) :=
  (s.die die).estates.find? (fun e => e.2.kind == 2 && refCtx e.2.holder == ctx && e.2.hid.toNat == hid)

/-- R127: the entry's die as a context names it. -/
def State.edie (s : State) (ctx die : Nat) : Nat := (s.ctx ctx).logDie die

-- sync variables

def State.mode (s : State) (v : VarId) : Mode := tget (s.die v.die).sync .plain v.v
def State.setMode (s : State) (v : VarId) (m : Mode) : State :=
  s.modDie v.die (fun d => { d with
    sync := if m = .plain then tdel d.sync v.v else tset d.sync v.v m
    modeBy := if m = .plain then tdel d.modeBy v.v else if s.mode v = .plain then tset d.modeBy v.v s.myCtx else d.modeBy })

/-- R350: at the start of a context every variable of its dies is PLAIN, but for those that another running context has in a
mode (notes/assumptions/56.md). -/
def State.plainVars (s : State) (ctx die : Nat) : State :=
  let other (v : Nat) : Bool := (tfind (s.die die).modeBy v).any (fun k => k != ctx && (s.ctx k).started)
  s.modDie die (fun d => { d with
    sync := d.sync.filter (fun e => other e.1), modeBy := d.modeBy.filter (fun e => other e.1) })

/-- R349: the holding identifier of a sync variable: its address without X and Y. -/
def varHid (ga : Nat) : Word := w64 (gaOf (gaPkg ga) (1024 * gaDie ga) spSY (gaOff ga))

/-- A served wait. -/
def State.resume (s : State) (i : SlotId) (w : Word) (mark : Option Word) (acq : Bool) : State :=
  s.modSlot i (fun m => { m with resume := some ⟨w, none, mark, acq⟩ })

-- the home's copy of a holder (R171)

/-- R168, R171: a holder change at the object's home; open chunks that probed it are squashed. -/
def State.setHolder (s : State) (ctx : Nat) (hid : Word) (h : Option Holder) : State :=
  match (s.ctx ctx).phys (gaCore hid.toNat) with
  | none => s
  | some home =>
    let s := s.modCore home (fun c => { c with
      holders := c.holders.filter (fun x => !(x.ctx == ctx && x.hid == hid)) ++ h.toList })
    s.squashHits [2 ^ 80 + (home * 16 + ctx) * 2 ^ 64 + hid.toNat]

/-- The copy as an entry gives it. -/
def Estate.copy (e : Estate) (ctx : Nat) : Holder := ⟨ctx, e.hid, e.holder, e.offer.isSome, e.brv⟩
def State.sendCopy (s : State) (die idx : Nat) : State :=
  let e := s.entry die idx
  if e.kind == 2 then s.setHolder (refCtx e.holder) e.hid (some (e.copy (refCtx e.holder))) else s

-- the bereaved mark (R132, R133)

/-- R133: the word that one told task receives. -/
def bereavedWord (e : Estate) (idx edie : Nat) : Word :=
  w64 (2 ^ (e.kind.toNat - 1) + 2 ^ 8 * e.depth.toNat + 2 ^ 16 * idx + 2 ^ 32 * edie)

/-- R132: a task of the holder is told: the mark it receives if the entry carries one, and the entry's bit cleared. -/
def State.told (s : State) (die idx : Nat) : Option Word × State :=
  let e := s.entry die idx
  if e.brv then
    (some (bereavedWord e idx (s.edie (refCtx e.holder) die)), (s.setEntry die idx { e with brv := false }).sendCopy die idx)
  else (none, s)

/-- A waiter of a lock or promise served with OK; `info` says whether the status names the entry. -/
def State.serveHolder (s : State) (die idx : Nat) (i : SlotId) (info : Bool) : State :=
  let e := s.entry die idx
  let (mark, s) := s.told die idx
  let ed := s.edie (refCtx e.holder) die
  s.resume i (statusWord stOK mark.isSome (if info then idx else 0) (if info then ed else 0)) mark (s.farScope e.holder)

/-- R368: waiting CAPTKs examined in arrival order after an offer. -/
def State.serveCaps (s : State) (die ctx hid : Nat) : List (SlotId × Nat) → State
  | [] => s
  | (i, h) :: rest =>
    if h ≠ hid || (s.core i.core).tenant.toNat ≠ ctx then s.serveCaps die ctx hid rest
    else match s.objEntry die ctx hid with
      | none => s
      | some (idx, e) =>
        let leave (s : State) : State := s.modDie die (fun d => { d with capWait := d.capWait.filter (fun w => w.1 != i) })
        match e.offer with
        | some t =>
          if s.slotIn t i then
            (((leave s).hold die idx e t).sendCopy die idx |>.serveHolder die idx i true).serveCaps die ctx hid rest
          else s.serveCaps die ctx hid rest
        | none => s.serveCaps die ctx hid rest

-- notices (R135)

/-- R135: a CONVEYED or HEIRLESS message. -/
def notice (typ : Nat) (e : Estate) (depth idx edie : Nat) (former : GroupRef) : Msg :=
  ⟨w64 (typ + 2 ^ 16 * e.kind.toNat + 2 ^ 24 * depth + 2 ^ 32 * idx + 2 ^ 48 * edie), e.hid, former.setWidth 64, 0⟩

-- grants and conveyance

/-- R132: GRANT of a conveyed holding: a queued or parked task of the heir is told. -/
def State.grant (s : State) (die idx : Nat) : State :=
  let e := s.entry die idx
  let v : VarId := ⟨die, gaOff e.hid.toNat / 16⟩
  match e.kind.toNat with
  | 1 => match s.mode v with
    | .lock _ _ q => match q.find? (fun w => s.holds e w.1) with
      | some w => (s.setMode v (.lock .held false (q.erase w))).serveHolder die idx w.1 true
      | none => s.setMode v (.lock .held false q)
    | _ => s
  | 3 =>
    let ws := (s.die die).pwait.filter (fun w => w.2 == v.v && s.holds e w.1)
    let s := s.modDie die (fun d => { d with pwait := d.pwait.filter (fun w => !ws.contains w) })
    match ws with
    | [] => s
    | w :: rest => rest.foldl (fun s x => s.resume x.1 (statusWord stSELF false 0 0) none false)
        (s.serveHolder die idx w.1 false)
  | _ => s.sendCopy die idx

/-- R134: a holding without an heir. -/
def State.heirless (s : State) (die idx : Nat) (former : GroupRef) : State :=
  let e := s.entry die idx
  let ctx := refCtx former
  let v : VarId := ⟨die, gaOff e.hid.toNat / 16⟩
  let s := match e.kind.toNat with
    | 1 =>
      let q : List (SlotId × GroupRef) := match s.mode v with | .lock _ _ q => q | _ => []
      let s := (s.setEntry die idx { e with st := 2 }).setMode v (.lock .poisoned false [])
      q.foldl (fun (s : State) (w : SlotId × GroupRef) => s.resume w.1 (statusWord stPOISONED false 0 0) none false) s
    | 3 =>
      let ws : List (SlotId × Nat) := (s.die die).pwait.filter (fun w => w.2 == v.v)
      let s := (s.setEntry die idx { e with st := 3 }).setMode v (.promise .broken)
      let s := s.modDie die (fun d => { d with pwait := d.pwait.filter (fun w => w.2 != v.v) })
      ws.foldl (fun (s : State) (w : SlotId × Nat) => s.resume w.1 (statusWord stBROKEN false 0 0) none false) s
    | _ => (s.freeEntry die idx).setHolder ctx e.hid none
  let sup := mkSup ctx (refLslot former) (s.edie ctx die)
  if s.exited sup then s.faultRecord 5 0 ctx 0 0xFF (refLslot former) 0 0 e.hid
  else s.post (.inboxDeliver none (.supervisor ctx (refLslot former) (s.edie ctx die))
    (notice 0x22 e e.depth.toNat idx (s.edie ctx die) former))

/-- R130: one entry conveyed to the first heir that lives, in one step at its SYE. -/
def State.conveyTo (s : State) (die idx : Nat) (former : GroupRef) (h : Option GroupRef) (n : Nat) : State :=
  match h with
  | none => s.heirless die idx former
  | some h =>
    let e := s.entry die idx
    let s := s.modDie die (fun d => { d with covers := match s.launch (refCtx former) (refLslot former) with
      | some l => if l.covers.isEmpty then d.covers else
          let key := if e.kind == 2 then entryKey idx else gaOff e.hid.toNat / 16
          tset d.covers key (setUnion (tget d.covers [] key) l.covers)
      | none => d.covers })
    let s := s.hold die idx e h
    let s := s.setEntry die idx { s.entry die idx with brv := true, depth := BitVec.ofNat 4 n }
    (s.grant die idx).post (.inboxDeliver none (.group h) (notice 0x21 e n idx (s.edie (refCtx h) die) former))

/-- R130: an entry conveyed after the exit of its holder. -/
def State.convey (s : State) (die : Nat) (x : GroupRef) (idx : Nat) : State :=
  let e := s.entry die idx
  match (match e.offer with | some t => if s.exited t then none else some t | none => none) with
  | some t => s.conveyTo die idx x (some t) 1
  | none =>
    let l := s.edie (refCtx x) die
    let first : Option GroupRef := match e.heirk.toNat with
      | 1 => none
      | 2 => some (mkSup (refCtx x) (refLslot x) l)
      | _ => some e.heir
    let (h, n) := s.heirChain l 9 first 1
    s.conveyTo die idx x h n

-- EXIT (R130, R131, R136)

/-- Insertion by acquisition number. -/
def byAseq (l : List (Nat × Estate)) : List (Nat × Estate) :=
  l.foldl (fun r e => (r.filter (fun x => x.2.aseq.toNat < e.2.aseq.toNat)) ++ [e]
    ++ r.filter (fun x => !(x.2.aseq.toNat < e.2.aseq.toNat))) []

/-- R136: the places of an exited group's killed tasks in the queues of a die. -/
def State.dropPlaces (s : State) (die : Nat) (x : GroupRef) : State :=
  let gone (i : SlotId) : Bool := (s.slot i).status == .sealed && s.slotIn x i
  s.modDie die (fun d => { d with
    sync := tmap (fun _ m => match m with
      | .lock st h q => .lock st h (q.filter (fun w => !gone w.1))
      | .barrier c a p l ms ws => .barrier c a p l ms (ws.filter (fun w => !gone w.1))
      | m => m) d.sync
    pwait := d.pwait.filter (fun w => !gone w.1), capWait := d.capWait.filter (fun w => !gone w.1) })

/-- The entries that a group holds on a die, in ascending acquisition number. -/
def State.heldBy (s : State) (die : Nat) (x : GroupRef) : List Nat :=
  (byAseq ((s.die die).estates.filter (fun e => e.2.holder == x && e.2.kind != 0 && e.2.st.toNat < 2))).map (fun e => e.1)

/-- R131, R183: whether the conveyance of a die must still wait for what the group's tasks committed: at scope PACKAGE until
it has been accepted at its homes, at DOMAIN until other packages have acknowledged it. -/
def State.exitWaits (s : State) (die : Nat) (x : GroupRef) : Bool :=
  match s.launch (refCtx x) (refLslot x) with
  | some l => s.farScope x && !(s.heldBy die x).isEmpty && (s.lostWrite l.covers).isNone
      && l.covers.any (fun id => if s.scopeOf x = 5 then s.openWrite id else s.unackedWrite id)
  | none => false

/-- R99: the launches of a launching package's identifier. -/
def State.launchesOf (s : State) (launcher lid : Nat) : List (Nat × Nat) :=
  s.ctxs.flatMap (fun c => (c.2.launches.filter (fun l =>
    l.2.launcher s.pkg.toNat == launcher && l.2.lid c.1 l.1 == lid)).map (fun l => (c.1, l.1)))

/-- R130: a notice about a group's exit to another package, EXIT or its acknowledgement (notes/assumptions/12.md). -/
def State.exitNotice (s : State) (ctx launcher lid : Nat) (ref : GroupRef) (pkg : Nat) (ack : Bool) : State :=
  let p := s.packet tyRRPT clCTL pkg ctx 0 0 0 (toBytes lid 4 ++ toBytes (0x100 + ack.toNat) 2 ++ [0, 0]
    ++ toBytes (ref.toNat % 2 ^ 36) 8 ++ toBytes launcher 8) []
  s.issuePacket ⟨p, s.now, false, none, none, ctx⟩

/-- R130: a notice of a launch's about a group's exit. -/
def State.tellExit (s : State) (l : Launch) (ref : GroupRef) (pkg : Nat) (ack : Bool) : State :=
  s.exitNotice (refCtx ref) (l.launcher s.pkg.toNat) (l.lid (refCtx ref) (refLslot ref)) ref pkg ack

/-- R147: whether an entry of a group's is held by the generation that exits; of several level-0 groups of one root each has
its own end. -/
def Estate.endsWith (e : Estate) (ref : GroupRef) (gen : Nat) : Bool := refSup ref || refLevel ref != 0 || e.gen == gen

/-- R130: EXIT(X) at one SYE: its conveyances in ascending acquisition number, then the acknowledgement. It stays until
what it releases at a far scope is acknowledged (R131). -/
def execExit (die : Nat) (ref : GroupRef) (s : State) : Host.Outcome State Fault Refusal :=
  let ctx := refCtx ref
  match s.launch ctx (refLslot ref) with
  | none => .next s
  | some l =>
    match l.exiting.find? (fun e => e.1 == ref && e.2.2.contains die) with
    | none => .next s
    | some (_, gen, left) =>
      let put (s : State) (left : List Nat) : State := s.modLaunch ctx (refLslot ref) (fun l => { l with
        exiting := l.exiting.map (fun e => if e.1 == ref && e.2.1 == gen then (ref, gen, left) else e) })
      if 512 ≤ die then .next s
      else if 256 ≤ die then
        .next (put (s.tellExit l ref (die - 256) false) (left.map (fun d => if d = die then d + 256 else d)))
      else if s.exitWaits die ref then .next s
      else
        let s := s.dropPlaces die ref
        let ended := (s.heldBy die ref).filter (fun idx => (s.entry die idx).endsWith ref gen)
        let s := if (s.ctx ctx).flooded then s else ended.foldl (fun s idx => s.convey die ref idx) s
        let left := left.filter (· != die)
        .next (if left.isEmpty then (put s left).post (.exitReport ref) else put s left)

/-- R130, R131: the group above one that has exited too, once the exits of all that it contains have been reported. -/
def State.nextExit (s : State) (l : Launch) (ref : GroupRef) : Option GroupRef :=
  let lv := refLevel ref
  if refSup ref || l.nlvl ≤ lv + 1 then none
  else
    let k := max (Rec.count l.record (lv + 1)) 1
    let node := refNode ref / k
    let up := mkRef (refCtx ref) (refLslot ref) (lv + 1) node
    let told (r : GroupRef) : Bool := l.reported.contains (r, l.groupGen r)
    let open_ (r : GroupRef) : Bool := l.exiting.any (fun e => e.1 == r)
    let below := (upFrom (node * k) k).map (fun n => mkRef (refCtx ref) (refLslot ref) lv n)
    if s.exited up && !open_ up && !told up && below.all (fun r => told r && !open_ r) then some up else none

/-- R130: whether no other part of the launch in this package still owes a package the acknowledgement of the same exit. -/
def State.lastAck (s : State) (l : Launch) (ctx ls : Nat) (ref : GroupRef) (src : Nat) : Bool :=
  (s.launchesOf (l.launcher s.pkg.toNat) (l.lid ctx ls)).all (fun e => e == (ctx, ls)
    || !(s.launch e.1 e.2).any (fun o => o.acks.any (fun a => a.2 == src && a.1.toNat % 2 ^ 36 == ref.toNat % 2 ^ 36)))

/-- R131: every SYE has acknowledged EXIT(X): the exit is reported, a package that sent the notice has its acknowledgement,
and a group that contains X and has exited follows. -/
def execExitReport (ref : GroupRef) (s : State) : Host.Outcome State Fault Refusal :=
  let ctx := refCtx ref
  let ls := refLslot ref
  match s.launch ctx ls with
  | none => .next s
  | some l =>
    match l.exiting.find? (fun e => e.1 == ref && e.2.2.isEmpty) with
    | none => .next s
    | some (_, gen, _) =>
      let back := (l.acks.filter (fun e => e.1 == ref)).filter (fun e => s.lastAck l ctx ls ref e.2)
      let l := { l with
        exiting := l.exiting.filter (fun e => !(e.1 == ref && e.2.1 == gen && e.2.2.isEmpty))
        reported := l.reported ++ [(ref, gen)], acks := l.acks.filter (fun e => e.1 != ref) }
      let s := back.foldl (fun s e => s.tellExit l ref e.2 true) (s.modLaunch ctx ls (fun _ => l))
      .next (match s.nextExit l ref with
        | some up => s.sendExit up (l.groupGen up)
        | none => s)

-- holding operands (R349)

/-- R349: an object or holding operand, checked in the order of R139: its die and holding identifier. `sy` says whether SY is
allowed. -/
def State.holdingOperand (s : State) (a : Word) (sy page : Bool) : Except (Cause × Word) (Nat × Nat) :=
  let ga := a.toNat
  let ctx := s.myCtx
  let sp := gaSpace ga
  if gaPkg ga ≠ s.pkg.toNat || !s.coordOk ctx ga then .error (.coord, a)
  else if sp == spSY && sy then
    if bits ga 40 40 ≠ 0 then .error (.space, a)
    else if (s.die ((s.ctx ctx).physDie (gaDie ga))).fenced then .error (.fenced, w64 (0x100 + gaDie ga))
    else .ok ((s.ctx ctx).physDie (gaDie ga), (varHid (ga / 16 * 16)).toNat)
  else if sp == spBM || sp == spLM || sp == spAB then
    match (s.ctx ctx).phys (gaCore ga) with
    | none => .error (.coord, a)
    | some home =>
      if sp == spBM && page && (s.bmKey home ctx (gaOff ga)).isNone then .error (.xlate, a)
      else if (s.die (home / 1024)).fenced then .error (.fenced, w64 (0x100 + gaDie ga))
      else .ok (home / 1024, objectHid ga)
  else .error (.space, a)

/-- The entry of a holding identifier on a die. -/
def State.hidEntry (s : State) (die hid : Nat) : Option (Nat × Estate) :=
  if gaSpace hid == spSY then s.varEntry ⟨die, gaOff hid / 16⟩ else s.objEntry die s.myCtx hid

-- HEIR and ESTQ

/-- R365. -/
def execHeir (h : Hdr) (a b c : Reg) (s : State) : Host.Outcome State Fault Refusal :=
  issue s (Info.synch h.s (lenP h.rgx 0) [codeG b, codeG c] [codeG a] true 0x510 [s.g b, s.g c]) none (fun s =>
    match s.holdingOperand (s.g b) true false with
    | .error (c, v) => .trap c v
    | .ok (die, hid) =>
      let all : Bool := s.g c == BitVec.allOnes 64
      match s.refOf (s.g c), all with
      | none, false => s.stat a stBADGROUP false
      | r, _ => match s.hidEntry die hid with
        | none => s.stat a stNONE false
        | some (idx, e) =>
          if !s.meHolds e then s.stat a stNOTHOLDER false
          else (s.setEntry die idx (s.withHeir die e (if all then none else r))).stat a stOK false)

/-- R127: the 32 bytes of an entry. -/
def Estate.toBytes (e : Estate) : List Byte :=
  Sys2Proof.Machine.toBytes e.hid.toNat 8
  ++ Sys2Proof.Machine.toBytes (e.kind.toNat + 4 * e.brv.toNat + 8 * e.st.toNat + 64 * e.heirk.toNat
      + 256 * e.depth.toNat + 2 ^ 16 * e.holder.toNat) 8
  ++ Sys2Proof.Machine.toBytes e.heir.toNat 8
  ++ Sys2Proof.Machine.toBytes e.aseq.toNat 8

/-- R139: the place of a cause in the order in which the causes of one instruction are raised. -/
def Cause.rank (c : Cause) : Nat :=
  match c with
  | .illegal => 0 | .priv => 1 | .hazard => 2 | .soft => 3 | .align => 4 | .coord => 5 | .space => 6 | .xlate => 7
  | .capfault => 8 | .fenced => 9 | c => 10 + c.code.toNat

/-- R139: of the traps of two operands the one raised; the first operand's where the causes are the same. -/
def firstCause (x y : Cause × Word) : Cause × Word := if y.1.rank < x.1.rank then y else x

/-- R366: the entry by HID, or by index and logical die. A die on which the context has no window holds none of its entries. -/
def execEstq (h : Hdr) (a b c : Reg) (idx : Bool) (s : State) : Host.Outcome State Fault Refusal :=
  issue s (Info.synch h.s (lenP h.rgx 0) [codeG b, codeG c] [codeG a] true 0x511 [s.g b, s.g c]) none (fun s =>
    let ctx := s.myCtx
    let found : Except (Cause × Word) (Nat × Option (Nat × Estate)) :=
      if idx && !(s.ctx ctx).hasWin (wbits (s.g b) 17 16) then .ok (0, none)
      else if idx && (s.die ((s.ctx ctx).physDie (wbits (s.g b) 17 16))).fenced then
        .error (.fenced, w64 (0x100 + wbits (s.g b) 17 16))
      else if idx then
        let die := (s.ctx ctx).physDie (wbits (s.g b) 17 16)
        let n := wbits (s.g b) 15 0
        let e := s.entry die n
        .ok (die, if e.kind != 0 && refCtx e.holder == ctx then some (n, e) else none)
      else match s.holdingOperand (s.g b) true false with
        | .error e => .error e
        | .ok (die, hid) => .ok (die, (s.hidEntry die hid).filter (fun e => refCtx e.2.holder == ctx))
    match s.ownTarget (s.g c) 16 48, found with
    | .error x, .error y => (fun (z : Cause × Word) => .trap z.1 z.2) (firstCause y x)
    | .ok _, .error (c, v) => .trap c v
    | .error (c, v), .ok _ => .trap c v
    | .ok off, .ok (die, some (n, e)) =>
      let out := e.toBytes ++ toBytes ((e.offer.map BitVec.toNat).getD 0) 8 ++ List.replicate 8 0
      let s := s.write (cellsOf (s.ownKey spLM off) out)
      .done (s.answer a (statusWord stOK false n (s.edie ctx die)) false none)
    | .ok off, .ok (_, none) => (s.write (cellsOf (s.ownKey spLM off) (List.replicate 48 0))).stat a stNONE false)

-- CAPGV, CAPTK and CAPQ

/-- R367. -/
def execCapgv (h : Hdr) (a b c : Reg) (s : State) : Host.Outcome State Fault Refusal :=
  issue s (Info.synch h.s (lenP h.rgx 0) [codeG b, codeG c] [codeG a] true 0x512 [s.g b, s.g c]) none (fun s =>
    match s.holdingOperand (s.g b) false true with
    | .error (c, v) => .trap c v
    | .ok (die, hid) =>
      let ctx := s.myCtx
      let all : Bool := s.g c == BitVec.allOnes 64
      let target := s.refOf (s.g c)
      if target.isNone && !all then s.stat a stBADGROUP false
      else match s.objEntry die ctx hid with
        | none => s.stat a stNOTHOLDER false
        | some (idx, e) =>
          if !s.meHolds e then s.stat a stNOTHOLDER false
          else if all then ((s.setEntry die idx { e with st := 0, offer := none }).sendCopy die idx).stat a stOK false
          else if target == some e.holder then s.stat a stBADGROUP false
          else if e.offer.isSome then s.stat a stBUSY false
          else match s.releaseWait (s.scopeOf e.holder) with
            | some r => r
            | none =>
              let s := (s.leaveCover die (entryKey idx)).noteRelease (s.g b)
              let s := (s.setEntry die idx { e with st := 1, offer := target }).sendCopy die idx
              (s.serveCaps die ctx hid (s.die die).capWait).stat a stOK false)

/-- R368. One that waits does so until the object is offered to it, whatever becomes of the holding before. -/
def execCaptk (sBit : Bool) (a b : Reg) (s : State) : Host.Outcome State Fault Refusal :=
  issue s (Info.synch sBit 2 [codeG b] [codeG a] true 0x513 [s.g b]) none (fun s =>
    match s.holdingOperand (s.g b) false true with
    | .error (c, v) => .trap c v
    | .ok (die, hid) =>
      let ctx := s.myCtx
      let take (s : State) (w : Word) (mark : Option Word) (far : Bool) : Res :=
        let key := entryKey (wbits w 31 16)
        Res.acquire ((s.takeCover die key).answer a w true mark) far
      match s.me.resume with
      | some r => take s r.value r.bereaved r.acq
      | none =>
        if (s.die die).capWait.any (fun w => w.1 == s.cur) then .park (Wait.restartable (w64 hid)) s else
        let ok (s : State) (idx : Nat) : Res :=
          let e := s.entry die idx
          let (mark, s) := s.told die idx
          take s (statusWord stOK mark.isSome idx (s.edie ctx die)) mark (s.farScope e.holder)
        match s.objEntry die ctx hid with
        | none =>
          if s.me.arch.sup then
            match s.me.task with
            | none => s.stat a stNOESTATE true
            | some t =>
              let g := mkSup ctx t.ref.lslot (s.ownCore / 1024)
              match s.newEntry die 2 (w64 hid) g with
              | none => s.stat a stNOESTATE true
              | some (idx, s) =>
                ok ((s.setEntry die idx { s.entry die idx with heirk := 1, heir := 0 }).sendCopy die idx) idx
          else wait s die hid
        | some (idx, e) =>
          if s.meHolds e then ok s idx
          else match e.offer with
            | some t => if s.meIn t then ok ((s.hold die idx e t).sendCopy die idx) idx else wait s die hid
            | none => wait s die hid)
where
  /-- R153, R368: the request waits at the SYE in arrival order. -/
  wait (s : State) (die hid : Nat) : Res :=
    .park (Wait.restartable (w64 hid)) (s.modDie die (fun d => { d with capWait := d.capWait ++ [(s.cur, hid)] }))

/-- R369: the home's copy of the holder. -/
def execCapq (sBit : Bool) (a b : Reg) (s : State) : Host.Outcome State Fault Refusal :=
  issue s (Info.synch sBit 2 [codeG b] [codeG a] true 0x514 [s.g b]) none (fun s =>
    match s.holdingOperand (s.g b) false true with
    | .error (c, v) => .trap c v
    | .ok (_, hid) =>
      let home := ((s.ctx s.myCtx).phys (gaCore hid)).getD 0
      let w : Word := match s.holderOf s.myCtx home hid with
        | none => w64 (2 ^ 48)
        | some h => w64 (h.ref.toNat + 2 ^ 49 * h.offered.toNat + 2 ^ 50 * h.brv.toNat)
      .done (s.addRet (Ret.plain (codeG a) w)))

end Sys2Proof.Machine
end

