-- ==== Sys2Proof/Machine/Sync.lean ====
section
/-!
DEFINITION. Page 5 locks, barriers and promises: LRW, SCH, RLS (R354, R355), SYMG (R358), BARR, BARA, BARW (R361),
PROM, FULF, PWAIT (R362 to R364). Each is performed at the variable's SYE when the instruction issues; a request that
has to wait joins its queue there and its slot parks (R102, R153).
-/
namespace Sys2Proof.Machine

-- locks

/-- R354, R132, R353: a lock or promise obtained: the status, the mark, and the acquire. -/
def State.obtain (s : State) (a : Reg) (v : VarId) (idx : Nat) (info : Bool) : Res :=
  let e := s.entry v.die idx
  let far := s.farScope e.holder
  let (mark, s) := s.told v.die idx
  let ed := s.edie s.myCtx v.die
  Res.acquire ((s.takeCover v.die v.v).answer a
    (statusWord stOK mark.isSome (if info then idx else 0) (if info then ed else 0)) true mark) far

/-- A wait on a variable that has been served. -/
def State.served (s : State) (a : Reg) (v : VarId) (r : Resume) : Res :=
  let s := if wbits r.value 7 0 = stOK then s.takeCover v.die v.v else s
  Res.acquire (s.answer a r.value true r.bereaved) r.acq

/-- Whether the slot waits in the reservation queue of a lock. -/
def State.inQueue (s : State) (v : VarId) : Bool :=
  match s.mode v with
  | .lock _ _ q => q.any (fun w => w.1 == s.cur)
  | _ => false

/-- R354. One that waits does so until it is granted or the lock is poisoned. -/
def execLrw (h : Hdr) (a b : Reg) (lvl : BitVec 3) (s : State) : Host.Outcome State Fault Refusal :=
  issue s (Info.synch h.s (lenP h.rgx 0) [codeG b] [codeG a] true 0x501 [s.g b, lvl.setWidth 64]) none (fun s =>
    match s.syncVar (s.g b) with
    | .error (c, x) => .trap c x
    | .ok v =>
      match s.me.resume, s.myGroup lvl.toNat with
      | some r, _ => s.served a v r
      | none, none => s.stat a stBADGROUP true
      | none, some g =>
        if s.inQueue v then .park (Wait.restartable (s.g b)) s else
        let s := if s.mode v = .plain then s.setMode v (.lock .free false []) else s
        match s.mode v with
        | .lock .poisoned _ _ => s.stat a stPOISONED true
        | .lock .free _ q =>
          match s.newEntry v.die 1 (varHid (s.g b).toNat) g with
          | none => s.stat a stNOESTATE true
          | some (idx, s) => (s.setMode v (.lock .held false q)).obtain a v idx true
        | .lock .held handed q =>
          match s.varEntry v with
          | none => s.stat a stMODE true
          | some (idx, e) =>
            if s.meHolds e then
              (if e.brv || handed then (s.setMode v (.lock .held false q)).obtain a v idx true else s.stat a stSELF true)
            else .park (Wait.restartable (s.g b)) (s.setMode v (.lock .held handed (q ++ [(s.cur, g)])))
        | _ => s.stat a stMODE true)

/-- R355: what SCH and RLS refuse, and the holding they end. -/
def State.lockHeld (s : State) (v : VarId) : Except Nat (Nat × Estate × List (SlotId × GroupRef)) :=
  match s.mode v with
  | .lock .poisoned _ _ => .error stPOISONED
  | .lock .held _ q => match s.varEntry v with
    | some (idx, e) => if s.meHolds e then .ok (idx, e, q) else .error stNOTHOLDER
    | none => .error stNOTHOLDER
  | .lock .free _ _ => .error stNOTHOLDER
  | _ => .error stMODE

/-- R355: RLS grants the head of the queue, or frees the lock. -/
def execRls (sBit : Bool) (a b : Reg) (s : State) : Host.Outcome State Fault Refusal :=
  issue s (Info.synch sBit 2 [codeG b] [codeG a] true 0x503 [s.g b]) none (fun s =>
    match s.syncVar (s.g b) with
    | .error (c, x) => .trap c x
    | .ok v => match s.lockHeld v with
      | .error code => s.stat a code false
      | .ok (idx, e, q) => match s.releaseWait (s.scopeOf e.holder) with
        | some r => r
        | none =>
          let s := (s.leaveCover v.die v.v).noteRelease (s.g b)
          let s := match q with
            | [] => (s.freeEntry v.die idx).setMode v (.lock .free false [])
            | w :: rest => ((s.holdFor v.die idx e w.2 w.1).setMode v (.lock .held false rest)).serveHolder v.die idx w.1 true
          s.stat a stOK false)

/-- R355: SCH hands the lock to group H, and where a task of H is queued grants the earliest such request as R354 does; to a
group that has exited it is conveyed at once. -/
def execSch (h : Hdr) (a b c : Reg) (s : State) : Host.Outcome State Fault Refusal :=
  issue s (Info.synch h.s (lenP h.rgx 0) [codeG b, codeG c] [codeG a] true 0x502 [s.g b, s.g c]) none (fun s =>
    match s.syncVar (s.g b) with
    | .error (c, x) => .trap c x
    | .ok v => match s.refOf (s.g c), s.lockHeld v with
      | none, _ => s.stat a stBADGROUP false
      | some _, .error code => s.stat a code false
      | some to_, .ok (idx, e, q) =>
        if to_ == e.holder then s.stat a stSELF false
        else match s.releaseWait (s.scopeOf e.holder) with
          | some r => r
          | none =>
            let s := (s.leaveCover v.die v.v).noteRelease (s.g b)
            let s :=
              if s.exited to_ then
                let l := s.edie s.myCtx v.die
                let (first, n) := s.heirChain l 9 (s.defaultHeir to_ l) 1
                s.conveyTo v.die idx e.holder first n
              else
                let handed := s.hold v.die idx e to_
                match q.find? (fun w => handed.holds (handed.entry v.die idx) w.1) with
                | some w =>
                  ((s.holdFor v.die idx e w.2 w.1).setMode v (.lock .held false (q.erase w))).serveHolder v.die idx w.1 true
                | none => handed.setMode v (.lock .held true q)
            s.stat a stOK false)

-- SYMG

/-- R358: whether a configuration word is legal for a mode. -/
def symgOk (mode : BitVec 2) (w : Word) : Bool :=
  let n := wbits w 31 0
  match mode.toNat with
  | 1 => 1 ≤ n && n ≤ 2 ^ 20 && wbits w 39 35 == 0 && wbits w 63 40 == 0
  | 2 => 1 ≤ n && n ≤ 65536 && wbits w 39 35 == 0 && wbits w 34 32 == 0
  | _ => w == 0

/-- R358: what keeps a variable from being reset. -/
def State.symgBusy (s : State) (v : VarId) : Bool :=
  (s.die v.die).pwait.any (fun w => w.2 == v.v) ||
  match s.mode v with
  | .plain => false
  | .lock st _ q => st == .held || !q.isEmpty
  | .promise st => st == .pending
  | .barrier _ n _ _ _ ws => n != 0 || !ws.isEmpty
  | .reduce _ _ _ held _ => !held.isEmpty

def execSymg (h : Hdr) (a b c : Reg) (mode : BitVec 2) (s : State) : Host.Outcome State Fault Refusal :=
  issue s (Info.synch h.s (lenP h.rgx 0) [codeG b, codeG c] [codeG a] true 0x50C
      [s.g b, s.g c, mode.setWidth 64]) none (fun s =>
    let w := s.g c
    if !symgOk mode w then .trap .illegal w
    else match s.syncVar (s.g b) with
      | .error (c, x) => .trap c x
      | .ok v =>
        match mode.toNat with
        | 1 =>
          if (s.myGroup (wbits w 34 32)).isNone then s.stat a stBADGROUP false
          else if s.mode v != .plain then s.stat a stMODE false
          else (s.setMode v (.barrier (wbits w 31 0) 0 0 (wbits w 34 32) [] [])).stat a stOK false
        | 2 =>
          if s.mode v != .plain then s.stat a stMODE false
          else (s.setMode v (.reduce (wbits w 31 0) (wbits w 63 40) s.me.detlvl.toNat [] 0)).stat a stOK false
        | _ =>
          if s.symgBusy v then s.stat a stBUSY false
          else
            let s := match s.varEntry v with
              | some (idx, _) => s.freeEntry v.die idx
              | none => s
            let s := s.modDie v.die (fun d => { d with covers := tdel d.covers v.v })
            ((s.setMode v .plain).write (cellsOf (s.varKey v.die v.v) (List.replicate 16 0))).stat a stOK false)

-- barriers

/-- R361: whether a wait on token P is satisfied. -/
def passed (phase p : BitVec 16) : Bool :=
  let d := (phase - p).toNat
  1 ≤ d && d ≤ 32767

/-- R353: the SCOPE of a barrier's level for the launch of a slot. -/
def State.levelScope (s : State) (i : SlotId) (lvl : Nat) : Nat :=
  match (s.slot i).task with
  | some t => match s.launch t.ref.ctx t.ref.lslot with
    | some l => Rec.scope l.record lvl
    | none => 0
  | none => 0

/-- R361: one arrival; the arrival that completes a phase releases the waiters in arrival order. `addr` is the operand that
names the barrier (R192). -/
def State.arrive (s : State) (v : VarId) (addr : Word) (count arrived : Nat) (phase : BitVec 16) (lvl : Nat) (members : List TaskRef)
    (ws : List (SlotId × BitVec 16)) : State :=
  let s := (s.leaveCover v.die v.v).noteRelease addr
  let members := match s.me.task with
    | some t => if members.contains t.ref then members else members ++ [t.ref]
    | none => members
  if arrived + 1 < count then s.setMode v (.barrier count (arrived + 1) phase lvl members ws)
  else
    let go := ws.filter (fun w => passed (phase + 1) w.2)
    let s := s.setMode v (.barrier count 0 (phase + 1) lvl members (ws.filter (fun w => !passed (phase + 1) w.2)))
    go.foldl (fun s w => s.resume w.1 (statusWord stOK false w.2.toNat 0) none (5 ≤ s.levelScope w.1 lvl)) s

/-- R153, R361: the slot waits on a token at the tail of the barrier's waiters. -/
def State.awaitPhase (s : State) (v : VarId) (addr : Word) (p : BitVec 16) : Res :=
  match s.mode v with
  | .barrier count n phase lvl ms ws =>
    .park (Wait.restartable addr)
      (if ws.any (fun w => w.1 == s.cur) then s else s.setMode v (.barrier count n phase lvl ms (ws ++ [(s.cur, p)])))
  | _ => .park (Wait.restartable addr) s

/-- R154: XSTAT.AP of the slot, and of both threads of a pair. -/
def State.setAp (s : State) (b : Bool) : State :=
  let f (m : Slot) : Slot := { m with arch := { m.arch with ap := b } }
  let s := s.modMe f
  match s.partner s.cur with
  | some j => s.modSlot j f
  | none => s

/-- R361, R154: the end of a BARR. -/
def State.barrDone (s : State) (v : VarId) (far : Bool) : Res := Res.acquire ((s.takeCover v.die v.v).setAp false) far

/-- R361, R154: the arrival writes g[a] and sets AP, so that a wait that is cut does not arrive again. -/
def execBarr (sBit : Bool) (a b : Reg) (s : State) : Host.Outcome State Fault Refusal :=
  issue s (Info.synch sBit 2 [codeG b] [codeG a] true 0x509 [s.g b])
    (if a = 0 then some (.illegal, (Instr.firstWord (.barr sBit a b)).setWidth 64) else none)
    (fun s =>
      match s.syncVar (s.g b) with
      | .error (c, x) => .trap c x
      | .ok v => match s.me.resume with
        | some r => s.barrDone v r.acq
        | none => match s.mode v with
          | .barrier count n phase lvl ms ws =>
            let scope := s.levelScope s.cur lvl
            if s.me.arch.ap then
              let p := (s.g a).extractLsb' 16 16
              if passed phase p then s.barrDone v (5 ≤ scope) else s.awaitPhase v (s.g b) p
            else match s.releaseWait scope with
              | some r => r
              | none =>
                let addr := s.g b
                let s := ((s.arrive v addr count n phase lvl ms ws).setG a (statusWord stOK false phase.toNat 0)).setAp true
                if n + 1 < count then s.awaitPhase v addr phase else s.barrDone v (5 ≤ scope)
          | _ => s.stat a stMODE false)

def execBara (sBit : Bool) (a b : Reg) (s : State) : Host.Outcome State Fault Refusal :=
  issue s (Info.synch sBit 2 [codeG b] [codeG a] true 0x50A [s.g b]) none (fun s =>
    match s.syncVar (s.g b) with
    | .error (c, x) => .trap c x
    | .ok v => match s.mode v with
      | .barrier count n phase lvl ms ws =>
        match s.releaseWait (s.levelScope s.cur lvl) with
        | some r => r
        | none => .done ((s.arrive v (s.g b) count n phase lvl ms ws).answer a (statusWord stOK false phase.toNat 0) false none)
      | _ => s.stat a stMODE false)

def execBarw (h : Hdr) (a b c : Reg) (s : State) : Host.Outcome State Fault Refusal :=
  issue s (Info.synch h.s (lenP h.rgx 0) [codeG b, codeG c] [codeG a] true 0x50B [s.g b, s.g c]) none (fun s =>
    match s.syncVar (s.g b) with
    | .error (c, x) => .trap c x
    | .ok v =>
      let p : BitVec 16 := (s.g c).extractLsb' 16 16
      let finish (s : State) (far : Bool) : Res :=
        Res.acquire ((s.takeCover v.die v.v).answer a (statusWord stOK false p.toNat 0) false none) far
      match s.me.resume with
      | some r => finish s r.acq
      | none => match s.mode v with
        | .barrier _ _ phase lvl _ _ =>
          if passed phase p then finish s (5 ≤ s.levelScope s.cur lvl) else s.awaitPhase v (s.g b) p
        | _ => s.stat a stMODE false)

-- promises

/-- R362. -/
def execProm (h : Hdr) (a b : Reg) (lvl : BitVec 3) (s : State) : Host.Outcome State Fault Refusal :=
  issue s (Info.synch h.s (lenP h.rgx 0) [codeG b] [codeG a] true 0x50D [s.g b, lvl.setWidth 64]) none (fun s =>
    match s.syncVar (s.g b) with
    | .error (c, x) => .trap c x
    | .ok v => match s.myGroup lvl.toNat with
      | none => s.stat a stBADGROUP false
      | some g =>
        let create : Res := match s.newEntry v.die 3 (varHid (s.g b).toNat) g with
          | none => s.stat a stNOESTATE false
          | some (idx, s) => .done ((s.setMode v (.promise .pending)).answer a
              (statusWord stOK false idx (s.edie s.myCtx v.die)) false none)
        match s.mode v with
        | .plain => create
        | .promise .fulfilled => create
        | .promise .pending => s.stat a stBUSY false
        | .promise .broken => s.stat a stBROKEN false
        | _ => s.stat a stMODE false)

/-- R363. -/
def execFulf (sBit : Bool) (a b : Reg) (s : State) : Host.Outcome State Fault Refusal :=
  issue s (Info.synch sBit 2 [codeG b] [codeG a] true 0x50E [s.g b]) none (fun s =>
    match s.syncVar (s.g b) with
    | .error (c, x) => .trap c x
    | .ok v => match s.mode v, s.varEntry v with
      | .promise .pending, some (idx, e) =>
        if !s.meHolds e then s.stat a stNOTHOLDER false
        else match s.releaseWait (s.scopeOf e.holder) with
          | some r => r
          | none =>
            let far := s.farScope e.holder
            let s := ((s.leaveCover v.die v.v).noteRelease (s.g b)).freeEntry v.die idx
            let ws := (s.die v.die).pwait.filter (fun w => w.2 == v.v)
            let s := (s.setMode v (.promise .fulfilled)).modDie v.die (fun d => { d with
              pwait := d.pwait.filter (fun w => w.2 != v.v) })
            (ws.foldl (fun s w => s.resume w.1 (statusWord stOK false 0 0) none far) s).stat a stOK false
      | _, _ => s.stat a stNOTHOLDER false)

/-- R364. One that waits does so until the promise is fulfilled or broken, or conveyed to its group. -/
def execPwait (sBit : Bool) (a b : Reg) (s : State) : Host.Outcome State Fault Refusal :=
  issue s (Info.synch sBit 2 [codeG b] [codeG a] true 0x50F [s.g b]) none (fun s =>
    match s.syncVar (s.g b) with
    | .error (c, x) => .trap c x
    | .ok v =>
      let wait : Res := .park (Wait.restartable (s.g b))
        (s.modDie v.die (fun d => { d with pwait := d.pwait ++ [(s.cur, v.v)] }))
      match s.me.resume with
      | some r => s.served a v r
      | none => if (s.die v.die).pwait.any (fun w => w.1 == s.cur) then .park (Wait.restartable (s.g b)) s else
        match s.mode v, s.varEntry v with
        | .plain, _ => wait
        | .promise .fulfilled, _ =>
          Res.acquire ((s.takeCover v.die v.v).answer a (statusWord stOK false 0 0) true none) true
        | .promise .broken, _ => s.stat a stBROKEN true
        | .promise .pending, some (idx, e) =>
          if s.meHolds e then (if e.brv then s.obtain a v idx false else s.stat a stSELF true) else wait
        | .promise .pending, none => wait
        | _, _ => s.stat a stMODE true)

end Sys2Proof.Machine
end

