-- ==== Sys2Proof/Machine/Atomics.lean ====
section
/-!
DEFINITION. Atomics and reductions at memory: AMO, CAS, FAMO, RED, FRED (R349, R350, R356, R357, R360), REDUCE rounds
(R206, R359), and DGST (R346).
-/
namespace Sys2Proof.Machine

/-- An operation on a memory word: AMO and RED, CAS, or FAMO and FRED. -/
inductive AtomOp where
  | int (op : BitVec 4) (x : Word)
  | cas (cmp x : Word)
  | flt (fop : BitVec 2) (x : Single)
  deriving DecidableEq, Repr

def AtomOp.size : AtomOp → Nat
  | .flt _ _ => 4
  | _ => 8

/-- How an operation came out at its home: performed with the old value and its flags, refused, or held in a round. -/
inductive Atom where
  | ok (old : Word) (flags : Nat)
  | bad (c : Cause)
  | held
  deriving DecidableEq, Repr

/-- R356: the new M. -/
def amoNew (op : BitVec 4) (m x : Word) : Word :=
  match op.toNat with
  | 0 => x
  | 1 => m + x
  | 2 => m &&& x
  | 3 => m ||| x
  | 4 => m ^^^ x
  | 5 => if m.toInt < x.toInt then x else m
  | 6 => if x.toInt < m.toInt then x else m
  | 7 => if m.toNat < x.toNat then x else m
  | _ => if x.toNat < m.toNat then x else m

/-- R357: the new FP32 value and its flags. -/
def famoNew (fop : BitVec 2) (m x : Single) : Single × Fl :=
  let (v, f) := match fop.toNat with
    | 0 => fAdd pFP32 0 m.toNat x.toNat
    | 1 => fMinMax pFP32 true m.toNat x.toNat
    | _ => fMinMax pFP32 false m.toNat x.toNat
  (BitVec.ofNat 32 v, f)

-- rounds

/-- R206: issuer-path order as a number: ROOT, then the child indices from depth 1, a shorter path first. -/
def pathKey (p : Word) : Nat :=
  (upFrom 1 7).foldl (fun k m => 17 * k + (if m ≤ depthOf p then 1 + wbits p (4 * m + 35) (4 * m + 32) else 0)) (rootOf p)

/-- Contributions in issuer-path order; those of one path keep their issue order. -/
def byPath (l : List Contribution) : List Contribution :=
  l.foldl (fun r c => r.filter (fun x => pathKey x.path ≤ pathKey c.path) ++ [c]
    ++ r.filter (fun x => !(pathKey x.path ≤ pathKey c.path))) []

/-- R206: the steps of a combination: the running values, each contribution's value before its own operand, the flags. -/
def combine (m0 : Tab Single) : List Contribution → Tab Single × List (Contribution × Single) × Fl
  | [] => (m0, [], {})
  | c :: rest =>
    let old := tget m0 0 c.key
    let (v, f) := famoNew c.fop old c.value
    let (m, outs, fl) := combine (tset m0 c.key v) rest
    (m, (c, old) :: outs, f.or fl)

/-- R359: the result of a FAMO for its slot, which may be swapped out. -/
def State.resumeTask (s : State) (i : SlotId) (t : TaskRef) (w : Word) : State :=
  let mine (m : Slot) : Bool := m.task.any (fun k => k.ref.ctx == t.ctx && k.ref.lslot == t.lslot
    && (if k.sup then 0 else k.ref.path) == t.path)
  let give (m : Slot) : Slot := { m with resume := some ⟨w, none, none, false⟩ }
  if mine (s.slot i) then s.modSlot i give
  else s.modCore i.core (fun c => { c with saved := tmap (fun _ (v : Saved) => { v with
    slots := (v.slots.zipIdx).map (fun e =>
      if e.2 == i.slot && mine e.1.slot then { e.1 with slot := give e.1.slot } else e.1) }) c.saved })

/-- The result of a held contribution: to its slot or to the package it came from. FRED returns nothing. -/
def State.settleHeld (s : State) (c : Contribution) (v : Single) (flags : Nat) : State :=
  match c.who with
  | .slot i (some _) => s.resumeTask i ⟨c.ctx, c.lslot, c.path⟩ (w64 (v.toNat + 2 ^ 32 * flags))
  | .slot _ none => s
  | .packet p => if p.typ.toNat = tyFAMO then s.respond p c.ctx (v.setWidth 64) flags 0 0 [] else s

/-- R359: a contribution joins the open round; the c-th combines it. -/
def State.joinRound (s : State) (v : VarId) (count rlim level : Nat) (held : List Contribution) (since : Nat)
    (c : Contribution) : State :=
  let since := if held.isEmpty then (s.die v.die).refc.toNat else since
  let held := held ++ [c]
  if held.length < count then s.setMode v (.reduce count rlim level held since)
  else
    let order := byPath held
    let start := order.foldl (fun t c => tset t c.key (BitVec.ofNat 32 (s.num c.key 4))) []
    let (m, outs, fl) := combine start order
    let s := s.setMode v (.reduce count rlim level [] 0)
    let s := s.write (m.flatMap (fun e => cellsOf e.1 (toBytes e.2.toNat 4)))
    outs.foldl (fun s o => s.settleHeld o.1 o.2 fl.bits) s

/-- R149, R359: the LATE record of a contribution, by its operation's code. -/
def State.lateOf (s : State) (c : Contribution) (cause typ opc : Nat) : State :=
  s.faultRecord 2 cause c.ctx c.core c.slot c.lslot c.addr c.path (w64 (typ + 256 * opc))

/-- R359: a round whose limit has passed fails. -/
def execReduceRoundTimeout (die v : Nat) (s : State) : Host.Outcome State Fault Refusal :=
  match s.mode ⟨die, v⟩ with
  | .reduce count rlim level held since =>
    if held.isEmpty || rlim = 0 || (s.die die).refc.toNat < since + 100 * rlim then .next s
    else
      let s := s.setMode ⟨die, v⟩ (.reduce count rlim level [] 0)
      .next (held.foldl (fun s c =>
        let famo : Bool := match c.who with
          | .slot _ d => d.isSome
          | .packet p => p.typ.toNat == tyFAMO
        if famo then s.settleHeld c 0x7FC00000 1
        else s.lateOf c Cause.waitlimit.code.toNat tyFRED c.fop.toNat) s)
  | _ => .next s

-- the operation at its home

/-- R356, R164, R167: where a target of the package lies, or the fault of its home. -/
def State.atomicPlace (s : State) (ctx ga : Nat) : Except Cause (Nat × Option VarId) :=
  if gaSpace ga == spSY then
    let die := (s.ctx ctx).physDie (gaDie ga)
    let v := gaOff ga / 16
    if (s.die die).vars ≤ v then .error .xlate
    else .ok (s.varKey die v + gaOff ga % 16, some ⟨die, v⟩)
  else match s.placeOf ctx ga true with
    | some (.here k) => .ok (k, none)
    | _ => .error .xlate

/-- R350, R356, R357, R172: one operation performed at its home as one step. `may` says whether a write is permitted. -/
def State.atomic (s : State) (ctx ga : Nat) (op : AtomOp) (may : Bool) (c : Contribution) : State × Atom :=
  match s.atomicPlace ctx ga with
  | .error e => (s, .bad e)
  | .ok (key, var) =>
    if (match op with | .cas _ _ => false | _ => !may) then (s, .bad .capfault)
    else if s.fencedAt ctx ga then (s, .bad .fenced)
    else
      let mode := match var with | some v => s.mode v | none => .plain
      let put (v n : Nat) : State := s.write (cellsOf key (toBytes v n))
      match op, mode, var with
      | .int o x, .plain, _ =>
        let m := w64 (s.num key 8)
        (put (amoNew o m x).toNat 8, .ok m 0)
      | .cas cmp x, .plain, _ =>
        let m := w64 (s.num key 8)
        if m = cmp then (if may then (put x.toNat 8, .ok m 0) else (s, .bad .capfault)) else (s, .ok m 0)
      | .flt fop x, .reduce count rlim level held since, some v =>
        if level = 0 then alone s key fop x
        else (s.joinRound v count rlim level held since { c with key := key, value := x, fop := fop }, .held)
      | .flt fop x, .plain, _ => alone s key fop x
      | _, _, _ => (s, .bad .space)
where
  /-- R357: performed alone, in arrival order. -/
  alone (s : State) (key : Nat) (fop : BitVec 2) (x : Single) : State × Atom :=
    let m : Single := BitVec.ofNat 32 (s.num key 4)
    let (v, f) := famoNew fop m x
    (s.write (cellsOf key (toBytes v.toNat 4)), .ok (m.setWidth 64) f.bits)

-- issue

/-- R112, R349, R163: ALIGN, COORD, SPACE and the bounds of LM at issue, in any package. -/
def State.atomicAddr (s : State) (a : Word) (size : Nat) : Option (Cause × Word) :=
  let ga := a.toNat
  let sp := gaSpace ga
  if gaOff ga % size ≠ 0 then some (.align, a)
  else if !s.coordOk s.myCtx ga then some (.coord, a)
  else if !(sp == spSY && bits ga 40 40 == 0) && sp != spBM && sp != spLM then some (.space, a)
  else if sp == spLM && bufSize spLM < gaOff ga + size then some (.xlate, a)
  else none

/-- The issuer of an operation as a contribution (R206, R149). -/
def State.contribution (s : State) (a : Word) (dest : Option Reg) : Contribution :=
  let (l, p) := match s.me.task with
    | some t => (t.ref.lslot, if t.sup then 0 else t.ref.path)
    | none => (0, 0)
  ⟨.slot s.cur dest, 0, a, 0, 0, s.myCtx, s.ownCore, s.cur.slot, l, p⟩

/-- R30, R360: the packet of an operation on another package. -/
def State.atomicPacket (s : State) (ga : Nat) (op : AtomOp) (ret : Bool) : Packet :=
  let mark := writerMark s.me s.me.arch.sup
  let pk (typ opc : Nat) (inl : List Byte) : Packet := s.packet typ clORD (gaPkg ga) s.myCtx opc ga 0 (inl ++ mark) []
  match op with
  | .int o x => pk (if ret then tyAMO else tyRED) o.toNat (toBytes x.toNat 8 ++ List.replicate 8 0)
  | .cas c x => pk tyCAS 0 (toBytes c.toNat 8 ++ toBytes x.toNat 8)
  | .flt o x => pk (if ret then tyFAMO else tyFRED) o.toNat (toBytes x.toNat 4 ++ List.replicate 12 0)

/-- XVAL of a fault at the home. -/
def homeXval (a : Word) (c : Cause) : Word :=
  if c = .fenced then w64 (0x100 + gaDie a.toNat) else a

/-- R185, R191: an operation of the slot at a place of the package, which it has written, and read where it returns. -/
def State.touched (s : State) (ga : Nat) (reads : Bool) : State :=
  match s.atomicPlace s.myCtx ga with
  | .error _ => s
  | .ok (k, _) =>
    let s := if reads then s.observe s.cur (unitOf k) else s
    s.markUnits s.me.released [unitOf k]

/-- AMO, CAS and FAMO: `ret` makes the returning value from the old M and the flags. -/
def returning (info : Info) (a : Word) (op : State → AtomOp) (dest : Option Reg) (ret : Word → Nat → Ret) (s : State) :
    Host.Outcome State Fault Refusal :=
  issue s info none (fun s =>
    match s.atomicAddr a (op s).size with
    | some (c, v) => .trap c v
    | none =>
      match s.me.resume with
      | some r => match r.err with
        | some c => .trap (Cause.ofCode c) r.value
        | none => .done (s.addRet (ret r.value (wbits r.value 63 32)))
      | none =>
        if s.me.sent then .park Wait.poll s
        else if gaPkg a.toNat = s.pkg.toNat then
          match s.atomic s.myCtx a.toNat (op s) (s.capOk a.toNat) (s.contribution a dest) with
          | (s, .ok old fl) => .done ((s.touched a.toNat true).addRet (ret old fl))
          | (_, .bad c) => .trap c (homeXval a c)
          | (s, .held) => match s.me.resume with
            | some r => .done (s.addRet (ret r.value (wbits r.value 63 32)))
            | none => .park Wait.poll (s.modMe (fun m => { m with sent := true }))
        else if s.flowFailed (gaPkg a.toNat) clORD then .trap .fenced (w64 (gaPkg a.toNat))
        else if !s.flowOpen (gaPkg a.toNat) clORD then .park Wait.poll s
        else match s.takeReturning (gaPkg a.toNat) with
          | none => .park Wait.poll s
          | some (n, s) =>
            let p := { s.atomicPacket a.toNat (op s) true with cslot := BitVec.ofNat 8 n }
            .park Wait.poll ((s.modMe (fun m => { m with sent := true })).issuePacket
              ⟨p, s.now, false, none, some (s.cur, n), s.myCtx⟩))

/-- R182: whether a RED or FRED of the slot has not yet been accepted by its home at another package. -/
def State.reductionOut (s : State) (dst : Nat) : Bool :=
  let f := s.flowOut dst clORD
  !f.failed && (f.held ++ f.stalled).any (fun h => !h.retired && h.who == some (s.cur, 256)
    && (h.p.typ.toNat == tyRED || h.p.typ.toNat == tyFRED))

/-- RED and FRED: a fault at the home is a LATE record, a failed flow an UNREACHABLE record (R150, R167, R360). At another
package the slot goes on once the home has accepted the operation (R182). -/
def reducing (info : Info) (a : Word) (op : State → AtomOp) (typ opc : Nat) (s : State) :
    Host.Outcome State Fault Refusal :=
  issue s info none (fun s =>
    match s.atomicAddr a (op s).size with
    | some (c, v) => .trap c v
    | none =>
      if s.me.sent then (if s.reductionOut (gaPkg a.toNat) then .park Wait.poll s else .done s)
      else if gaPkg a.toNat = s.pkg.toNat then
        match s.atomic s.myCtx a.toNat (op s) (s.capOk a.toNat) (s.contribution a none) with
        | (_, .bad .fenced) => .trap .fenced (w64 (0x100 + gaDie a.toNat))
        | (s, .bad c) => .done (s.myRecord 2 c.code.toNat a (w64 (typ + 256 * opc)))
        | (s, _) => .done (s.touched a.toNat false)
      else if s.flowFailed (gaPkg a.toNat) clORD then
        .done (s.myRecord 3 Cause.fenced.code.toNat a 0)
      else if !s.flowOpen (gaPkg a.toNat) clORD then .park Wait.poll s
      else .park Wait.poll ((s.modMe (fun m => { m with sent := true })).issuePacket
        ⟨s.atomicPacket a.toNat (op s) false, s.now, false, none, some (s.cur, 256), s.myCtx⟩))

def execAmo (h : Hdr) (a b c : Reg) (op : BitVec 4) (s : State) : Host.Outcome State Fault Refusal :=
  returning (Info.synch h.s (lenP h.rgx 0) [codeG b, codeG c] [codeG a] true 0x504 [s.g b, s.g c, op.setWidth 64])
    (s.g b) (fun s => .int op (s.g c)) (some a) (fun v _ => Ret.plain (codeG a) v) s

/-- R356: g[a] is the compare value and receives the old M. -/
def execCas (h : Hdr) (a b c : Reg) (s : State) : Host.Outcome State Fault Refusal :=
  returning (Info.synch h.s (lenP h.rgx 0) [codeG a, codeG b, codeG c] [codeG a] true 0x505 [s.g b, s.g c, s.g a])
    (s.g b) (fun s => .cas (s.g a) (s.g c)) (some a) (fun v _ => Ret.plain (codeG a) v) s

/-- R357: f[a] receives the old M, FSTAT the step's flags. -/
def execFamo (h : Hdr) (a b c : Reg) (fop : BitVec 2) (s : State) : Host.Outcome State Fault Refusal :=
  returning (Info.synch h.s (lenP h.rgx 0) [codeG b, codeF c] [codeF a] true 0x506
      [s.g b, (s.f c).setWidth 64, fop.setWidth 64])
    (s.g b) (fun s => .flt fop (s.f c)) (some a)
    (fun v fl => { Ret.plain (codeF a) (w64 (wbits v 31 0)) with flags := w64 fl }) s

def execRed (h : Hdr) (b c : Reg) (op : BitVec 4) (s : State) : Host.Outcome State Fault Refusal :=
  reducing (Info.synch h.s (lenP h.rgx 0) [codeG b, codeG c] [] false 0x507 [s.g b, s.g c, op.setWidth 64])
    (s.g b) (fun s => .int op (s.g c)) tyRED op.toNat s

def execFred (h : Hdr) (b c : Reg) (fop : BitVec 2) (s : State) : Host.Outcome State Fault Refusal :=
  reducing (Info.synch h.s (lenP h.rgx 0) [codeG b, codeF c] [] false 0x508
      [s.g b, (s.f c).setWidth 64, fop.setWidth 64])
    (s.g b) (fun s => .flt fop (s.f c)) tyFRED fop.toNat s

-- DGST

/-- R346: the mixing of one value. -/
def dgstMix (v : Word) : Word :=
  let h := (v ^^^ (v >>> 31)) * 0x7FB5D329728EA185
  let h := (h ^^^ (h >>> 27)) * 0x81DADEF4BC2DD44D
  h ^^^ (h >>> 33)

def execDgst (sBit : Bool) (a b : Reg) (s : State) : Host.Outcome State Fault Refusal :=
  issue s (Info.synch sBit 2 [codeG a, codeG b] [] false 0x40D [s.g a, s.g b]) none (fun s =>
    match s.syncOperand (s.g a) with
    | .error (c, x) => .trap c x
    | .ok none => .done (s.myRecord 2 Cause.xlate.code.toNat (s.g a) (w64 tyDGST))
    | .ok (some v) =>
      let k := s.varKey v.die v.v
      .done (s.write (cellsOf k (toBytes (w64 (s.num k 8) + dgstMix (s.g b)).toNat 8
        ++ toBytes (w64 (s.num (k + 8) 8) + 1).toNat 8))))

end Sys2Proof.Machine
end

