-- ==== Sys2Proof/Machine/Kmac.lean ====
section
/-!
DEFINITION. SHAKE256 and KMAC256, which R69, R77, R78 and R158 name and the spec does not restate (PRESUMED,
notes/assumptions/7.md): the permutation of FIPS 202 with its tables computed as that standard defines them, the sponge of
rate 136 bytes, and the encodings of SP 800-185. The device key stands here too (R78).
-/
namespace Sys2Proof.Machine

/-- A state of 5 by 5 words by row: the rows y, and in each the words x. -/
abbrev Rows := List (List Word)
def Rows.word (a : Rows) (x y : Nat) : Word := (((a[y]?).getD [])[x]?).getD 0
/-- The state whose word (x, y) is given. -/
def rowsOf (f : Nat → Nat → Word) : Rows := (upFrom 0 5).map (fun y => (upFrom 0 5).map (fun x => f x y))

/-- The bits of iota's shift register, x⁸ + x⁶ + x⁵ + x⁴ + 1 from 1, with what is left of it after `n` steps. -/
def iotaBits : Nat → Nat → List Bool × Nat
  | 0, r => ([], r)
  | n + 1, r =>
    let (bs, e) := iotaBits n (if r < 128 then 2 * r else Nat.xor (2 * r) 0x171)
    ((r % 2 == 1) :: bs, e)

/-- The words that iota adds in the rounds from a shift register on: bit 2^j − 1 of each is the register's j-th bit. -/
def iotaWords : Nat → Nat → List Word
  | 0, _ => []
  | n + 1, r =>
    let (bs, e) := iotaBits 7 r
    w64 (((bs.zipIdx).map (fun b => if b.1 then 2 ^ (2 ^ b.2 - 1) else 0)).foldl (· + ·) 0) :: iotaWords n e

/-- Rho and pi on the way from word (x, y): the word goes to (y, 2x + 3y), turned by the t-th triangular number. -/
def turnAndMove (a : Rows) : Nat → Nat → Nat → Nat → Tab Word
  | 0, _, _, _ => []
  | n + 1, t, x, y =>
    let y' := (2 * x + 3 * y) % 5
    (5 * y' + y, (a.word x y).rotateLeft (t * (t + 1) / 2 % 64)) :: turnAndMove a n (t + 1) y y'

/-- One round, which adds `k` at the end. -/
def permuteRound (a : Rows) (k : Word) : Rows :=
  let par := (upFrom 0 5).map (fun x => a.foldl (fun v r => v ^^^ (r[x]?).getD 0) 0)
  let p (x : Nat) : Word := (par[x % 5]?).getD 0
  let a := rowsOf (fun x y => a.word x y ^^^ p (x + 4) ^^^ (p (x + 1)).rotateLeft 1)
  let moved := (0, a.word 0 0) :: turnAndMove a 24 1 1 0
  let b := rowsOf (fun x y => tget moved 0 (5 * y + x))
  rowsOf (fun x y => b.word x y ^^^ (b.word ((x + 2) % 5) y &&& ~~~ b.word ((x + 1) % 5) y) ^^^ (if x + y = 0 then k else 0))

def permute (a : Rows) : Rows := (iotaWords 24 1).foldl permuteRound a

/-- A padded message taken in, 136 bytes at a time. -/
def takeIn : Nat → Rows → List Byte → Rows
  | 0, a, _ => a
  | n + 1, a, m => takeIn n (permute (rowsOf (fun x y =>
      a.word x y ^^^ (if 5 * y + x < 17 then w64 (field m (8 * (5 * y + x)) 8) else 0)))) (m.drop 136)

/-- The sponge: a message with its suffix bits padded to whole blocks, and the first block of output. -/
def sponge256 (m : List Byte) (suffix : Nat) : List Byte :=
  let last := m.length % 136
  let fill := (upFrom (last + 1) (136 - last)).map (fun n =>
    BitVec.ofNat 8 ((if n = last + 1 then suffix else 0) + (if n = 136 then 128 else 0)))
  let a := takeIn (m.length / 136 + 1) (rowsOf (fun _ _ => 0)) (m ++ fill)
  a.flatMap (fun r => r.flatMap (fun v => toBytes v.toNat 8))

/-- SHAKE256 with at most 136 bytes of output. -/
def shake256 (m : List Byte) (n : Nat) : List Byte := (sponge256 m 0x1F).take n

/-- A number's bytes, the most significant first, at least one. -/
def numberBytes (x : Nat) : List Byte := (toBytes x (max 1 (Nat.log2 x / 8 + 1))).reverse
def sizeFirst (x : Nat) : List Byte := BitVec.ofNat 8 (numberBytes x).length :: numberBytes x
def sizeLast (x : Nat) : List Byte := numberBytes x ++ [BitVec.ofNat 8 (numberBytes x).length]
def sized (s : List Byte) : List Byte := sizeFirst (8 * s.length) ++ s
/-- Strings filled up to whole blocks. -/
def wholeBlocks (x : List Byte) : List Byte :=
  let z := sizeFirst 136 ++ x
  z ++ List.replicate ((136 - z.length % 136) % 136) 0

/-- KMAC256 of a key, a message, an output length in bits of at most 1,088, and a customisation string: the output as a
number whose first byte is the least significant. -/
def kmac256 (key msg : List Byte) (bits : Nat) (custom : List Byte) : Nat :=
  let m := wholeBlocks (sized [0x4B, 0x4D, 0x41, 0x43] ++ sized custom) ++ wholeBlocks (sized key) ++ msg ++ sizeLast bits
  fromBytes ((sponge256 m 0x04).take (bits / 8))

/-- R78: the device key: 256 bits derived with SHAKE256 from the device secret. Every start derives the same key
(notes/assumptions/42.md). -/
def deviceKey : List Byte := shake256 (toBytes Config.deviceSecret.toNat 32) 32

end Sys2Proof.Machine
end

