-- ==== Sys2Proof/Machine/SaveArea.lean ====
section
/-!
DEFINITION. The save area of a context in the BM of each of its cores (R157) and the tags of its blocks (R158).
-/
namespace Sys2Proof.Machine

/-- R157: the parts of the area: header, tag table, the typed buffers and the parked messages. -/
def saHeader : Nat := 0
def saHeaderSize : Nat := 12288
def saTags : Nat := 0x3000
def saBuffer (sp : Nat) : Nat :=
  match sp with
  | 1 => 0x4000
  | 2 => 0x14000
  | 3 => 0x3C000
  | _ => 0x8C000
def saParked : Nat := 0xA4000
/-- R158: the blocks of 4 KiB, and the one that holds the tag table. -/
def saBlocks : Nat := 180
def tagBlock : Nat := 3

/-- The key of a byte of a context's save area on a core. -/
def State.saKey (s : State) (core ctx off : Nat) : Nat := pa spBM core ((s.ctx ctx).saveOff + off)

/-- R158: the global address of a block of a save area. -/
def State.saAddr (s : State) (core ctx block : Nat) : Nat :=
  gaOf s.pkg.toNat (((s.ctx ctx).logical core).getD core) spBM ((s.ctx ctx).saveOff + 4096 * block)

/-- R158, R3: the tag of a block as it stands in BM. CAT(block address, SEQ, block) has the block in its low bits. -/
def State.hoistTag (s : State) (core ctx block : Nat) : Nat :=
  kmac256 (deviceKey ++ toBytes (s.ctx ctx).key.toNat 32)
    (s.bytes (s.saKey core ctx (4096 * block)) 4096 ++ toBytes (tget (s.core core).seqs 0 ctx).toNat 8
      ++ toBytes (s.saAddr core ctx block) 8) 64
    [0x43, 0x4D, 0x34, 0x20, 0x48, 0x4F, 0x49, 0x53, 0x54]

/-- R157: where the tag of a block stands in the table: 179 tags in block order, without the table's own. -/
def tagOff (block : Nat) : Nat := saTags + 8 * (if block < tagBlock then block else block - 1)

/-- R158: a block's tag written to the table. -/
def State.writeTag (s : State) (core ctx block : Nat) : State :=
  s.rawWrite (cellsOf (s.saKey core ctx (tagOff block)) (toBytes (s.hoistTag core ctx block) 8))

/-- R158: whether a block's tag matches. -/
def State.tagOk (s : State) (core ctx block : Nat) : Bool :=
  s.num (s.saKey core ctx (tagOff block)) 8 == s.hoistTag core ctx block

/-- R138, R157: the n-th message parked for a slot of a swapped-out context: 256 of 32 bytes for each slot. -/
def State.parkMessage (s : State) (core ctx slot n : Nat) (bytes : List Byte) : State :=
  let off := saParked + 8192 * slot + 32 * n
  let block := off / 4096
  let s := s.rawWrite (cellsOf (s.saKey core ctx off) bytes)
  (s.modCore core (fun c =>
    let v := tget c.saved Saved.empty ctx
    { c with saved := tset c.saved ctx { v with written := setInsert v.written block } })).writeTag core ctx block

end Sys2Proof.Machine
end

