-- ==== Sys2Proof/Machine/Inbox.lean ====
section
/-!
DEFINITION. Inboxes (R118), mail to absent tasks (R138), engine completions, and INB (R337).
-/
namespace Sys2Proof.Machine

-- where a task is (R138)

/-- The internal path under which a die's supervisor is addressed; bit 35 is 0 in every task's ID.PATH (R86). -/
def supPath (die : Nat) : Word := w64 (2 ^ 35 + die)
def isSupPath (p : Word) : Bool := p.getLsbD 35

/-- Where a task is. -/
inductive Whereabouts where
  | running (i : SlotId)
  | waiting (die : Nat)
  | swapped (core slot : Nat)
  | gone
  deriving DecidableEq, Repr

/-- Whether a slot's task is a task that still runs, and the slot its leading one. -/
def Slot.runs (m : Slot) (t : TaskRef) : Bool :=
  m.task.any (fun k => k.ref == t && !k.trailing) && m.status != .unowned && m.status != .sealed && m.status != .ending

/-- Whether a core's arbiter queues hold a task. -/
def queued (qs : List ArbQueue) (t : TaskRef) : Bool :=
  qs.any (fun a => a.ctx == t.ctx && a.lslot == t.lslot && a.tasks.contains t.path)

/-- R138: the state of a task; a task of a sealed core has exited (R145). -/
def State.whereIs (s : State) (t : TaskRef) : Whereabouts :=
  match s.allSlots.find? (fun i => (s.slot i).runs t) with
  | some i => .running i
  | none =>
    match s.cores.find? (fun e => match tfind e.2.saved t.ctx with
        | some v => v.slots.any (fun x => x.slot.runs t)
        | none => false) with
    | some e =>
      let n := match tfind e.2.saved t.ctx with
        | some (v : Saved) => (v.slots.find? (fun (x : SavedSlot) => x.slot.runs t)).bind
            (fun (x : SavedSlot) => x.slot.task.map (fun (k : Task) => k.lead))
        | none => none
      .swapped e.1 (n.getD 0)
    | none =>
      match s.cores.find? (fun e => queued e.2.queues t
          || (match tfind e.2.saved t.ctx with | some v => queued v.waiting t | none => false)) with
      | some e => .waiting (e.1 / 1024)
      | none =>
        match s.launch t.ctx t.lslot with
        | none => .gone
        | some l =>
          let d := wbits t.path 1 0
          if isSupPath t.path && (match tfind l.sups d with | some p => !p.started && !p.ended | none => false) then
            .waiting ((s.ctx t.ctx).physDie d)
          else .gone

/-- R135: the task of a group that a notice goes to: the lowest t, then the lowest ID.PATH, whose exit has not begun. -/
def State.firstLive (s : State) (r : GroupRef) : Option TaskRef :=
  let ctx := refCtx r
  let ls := refLslot r
  if refSup r then
    let t : TaskRef := ⟨ctx, ls, supPath (refNode r % 4)⟩
    if s.whereIs t = .gone then none else some t
  else match s.launch ctx ls with
    | none => none
    | some l =>
      let n := Rec.size l.record (refLevel r)
      let lo := refNode r * n
      let hi := min (lo + n) (Rec.total l.record)
      match (upFrom lo (hi - lo)).find? (fun t => !l.exited.contains t) with
      | none => none
      | some root =>
        let slots := s.allSlots.filterMap (fun i => (s.slot i).task.bind (fun k =>
          if (s.slot i).runs k.ref then some k.ref else none))
        let jobs := s.cores.flatMap (fun e =>
          e.2.queues.flatMap (fun a => a.tasks.map (fun p => (⟨a.ctx, a.lslot, p⟩ : TaskRef))))
        let saved := s.cores.flatMap (fun e => e.2.saved.flatMap (fun v =>
          v.2.slots.filterMap (fun x => x.slot.task.bind (fun k => if x.slot.runs k.ref then some k.ref else none))
          ++ v.2.waiting.flatMap (fun a => a.tasks.map (fun p => (⟨a.ctx, a.lslot, p⟩ : TaskRef)))))
        let mine := (slots ++ jobs ++ saved).filter (fun k =>
          k.ctx == ctx && k.lslot == ls && !isSupPath k.path && rootOf k.path == root)
        mine.foldl (fun b k => match b with
          | none => some k
          | some x => if k.path.toNat < x.path.toNat then some k else b) none

-- delivery

/-- The four words of a message as bytes. -/
def msgBytes (m : Msg) : List Byte :=
  toBytes m.w0.toNat 8 ++ toBytes m.w1.toNat 8 ++ toBytes m.w2.toNat 8 ++ toBytes m.w3.toNat 8

/-- R118: the shared entries in use. -/
def Core.shared (c : Core) : Nat := (c.inbox.filter (fun e => !e.own)).length

/-- R135, R138: a message with the destination slot that it is delivered to. -/
def msgTo (m : Msg) (n : Nat) : Msg := { m with w0 := (m.w0 &&& ~~~(0xFF00 : Word)) ||| w64 (2 ^ 8 * n) }

/-- R118: a message put into a core's inbox for a slot, or kept in the sender's NI while the shared entries are full. -/
def State.inboxPut (s : State) (i : SlotId) (sender : Option SlotId) (d : Dest) (m : Msg) (own : Bool) : State :=
  s.modCore i.core (fun c =>
    if !own && (32 ≤ c.shared || !c.niWait.isEmpty) then { c with niWait := c.niWait ++ [(sender, d, m)] }
    else { c with inbox := c.inbox ++ [⟨i.slot, msgTo m i.slot, own⟩] })

/-- R135, R138: an UNDELIVERABLE return to the sender's inbox. Engines and SYEs have none. -/
def State.undeliverable (s : State) (sender : Option SlotId) (t : TaskRef) (m : Msg) (reason : Nat) : State :=
  match sender with
  | none => s
  | some i =>
    if (s.core i.core).sealed.isSome then s
    else s.inboxPut i none (.slot i) ⟨w64 (0x23 + 2 ^ 28 * reason), 0, if isSupPath t.path then 0 else t.path, m.w0⟩ false

/-- R164: the key of a slot of a die's mail region, behind the overflow variables. -/
def State.mailKey (s : State) (die n : Nat) : Nat := (s.die die).ovfBase + 16 * (s.die die).novf + 32 * n
/-- R138: the lowest free slot of the region. -/
def State.mailFree (s : State) (die : Nat) : Option Nat :=
  (upFrom 0 (s.die die).nmail).find? (fun n => !(s.die die).mail.any (fun e => e.1 == n))
/-- R138: a parked message as it stands in memory. -/
def State.mailMsg (s : State) (die n : Nat) : Msg :=
  let w (k : Nat) : Word := w64 (s.num (s.mailKey die n + 8 * k) 8)
  ⟨w 0, w 1, w 2, w 3⟩

/-- R138: a message to a task that has not exited. -/
def State.mailLive (s : State) (sender : Option SlotId) (t : TaskRef) (m : Msg) : State :=
  match s.whereIs t with
  | .running i => s.inboxPut i sender (.task t) m false
  | .waiting die =>
    match s.mailFree die with
    | some n => (s.rawWrite (cellsOf (s.mailKey die n) (msgBytes m))).modDie die (fun d => { d with mail := d.mail ++ [(n, t)] })
    | none => s.undeliverable sender t m 2
  | .swapped core slot =>
    let v := tget (s.core core).saved Saved.empty t.ctx
    let n := (v.appended.filter (fun e => e.1 == slot)).length
    if n < 256 then
      (s.modCore core (fun c => { c with saved := tset c.saved t.ctx { v with appended := v.appended ++ [(slot, m)] } })
        ).parkMessage core t.ctx slot n (msgBytes m)
    else s.undeliverable sender t m 2
  | .gone => s.undeliverable sender t m 1

/-- R138: the reason of a chain that ends without a heir: 1 no heir, 3 longer than 8. -/
def State.chainReason (s : State) (die : Nat) : Nat → Option GroupRef → Nat → Nat
  | 0, _, _ => 3
  | f + 1, h, n => match h with
    | none => 1
    | some r => if s.exited r then (if n < 8 then s.chainReason die f (s.defaultHeir r die) (n + 1) else 3) else 1

/-- The logical die whose WD holds a root's node (R88, R96). -/
def State.nodeDie (s : State) (ctx lslot root : Nat) : Nat :=
  match s.launch ctx lslot with
  | none => 0
  | some l => ((l.dealt.find? (fun d => root / Rec.size l.record d.level == d.node)).map (·.die)).getD
      ((s.ctx ctx).logDie s.master)

/-- R138: a message whose group or task has exited follows the chain of heirs. -/
def State.mailHeirs (s : State) (sender : Option SlotId) (t : TaskRef) (group : GroupRef) (m : Msg) : State :=
  let die := s.nodeDie t.ctx t.lslot (rootOf t.path)
  let first := s.defaultHeir group die
  match (s.heirChain die 9 first 1).1.bind s.firstLive with
  | some k => s.mailLive sender k m
  | none => s.undeliverable sender t m (s.chainReason die 9 first 1)

/-- R138: a message to a task. -/
def State.mailTo (s : State) (sender : Option SlotId) (t : TaskRef) (m : Msg) : State :=
  match s.whereIs t with
  | .gone => s.mailHeirs sender t
      (if isSupPath t.path then mkSup t.ctx t.lslot (wbits t.path 1 0) else mkRef t.ctx t.lslot 0 (rootOf t.path)) m
  | _ => s.mailLive sender t m

/-- R118, R135, R138: a message arrives. -/
def State.deliver (s : State) (sender : Option SlotId) (d : Dest) (m : Msg) : State :=
  match d with
  | .slot i =>
    if (s.core i.core).sealed.isSome then
      match (s.slot i).task with
      | some t => s.mailTo sender t.ref m
      | none => s
    else s.inboxPut i sender d m false
  | .task t => s.mailTo sender t m
  | .supervisor ctx ls die => s.mailTo sender ⟨ctx, ls, supPath die⟩ m
  | .group r => match s.firstLive r with
    | some t => s.mailLive sender t m
    | none =>
      let root := match s.launch (refCtx r) (refLslot r) with
        | some l => refNode r * Rec.size l.record (refLevel r)
        | none => refNode r
      s.mailHeirs sender ⟨refCtx r, refLslot r, if refSup r then supPath (refNode r % 4) else w64 root⟩ r m

/-- R148: the error entry that a poisoned message leaves: a message of TYPE 0, which no message has. -/
def Msg.error : Msg := ⟨0, 0, 0, 0⟩

/-- R148: a message whose sender was sealed while it was on its way ends in a poison tail. -/
def execInboxDeliver (sender : Option SlotId) (d : Dest) (m : Msg) (s : State) : Host.Outcome State Fault Refusal :=
  if sender.any (fun i => (s.core i.core).sealed.isSome) then .next (s.deliver none d Msg.error)
  else .next (s.deliver sender d m)

-- engine completions

/-- R118, R312: an engine's completion for the slot that issued the operation; once its task has ended it is mail. -/
def State.completion (s : State) (i : SlotId) (t : Option TaskRef) (m : Msg) : State :=
  if (s.slot i).task.map (·.ref) == t && (s.slot i).status != .ending && (s.core i.core).sealed.isNone then
    s.inboxPut i none (.slot i) m true
  else match t with
    | some t => s.mailTo none t m
    | none => s

/-- Whether the slot still runs the start of a task that issued one. -/
def State.sameLife (s : State) (i : SlotId) (life : Nat) : Bool :=
  (s.slot i).task.any (fun t => t.life == life) && (s.slot i).status != .ending

/-- R118: the completion-bearing operations of a slot counted, and those not acquired (R192). -/
def Slot.issueEngine (m : Slot) (kind : Nat) (bearing : Bool) : Slot :=
  { m with outstanding := if bearing then m.outstanding + 1 else m.outstanding, unacquired := m.unacquired ++ [kind] }
/-- One operation acquired. -/
def Slot.acquireOne (m : Slot) (kind : Nat) : Slot := { m with unacquired := m.unacquired.erase kind }

/-- R312: whether a vector command stays suspended until its core is saved: it waits, or stands behind one of its slot that
does, while a pre-emption has stopped the slot, or every slot where its task has ended. -/
def State.suspended (s : State) (core : Nat) (v : VCmd) : Bool :=
  let c := s.core core
  (s.ctx c.tenant.toNat).preempt.isSome && ((c.slot v.slot).status == .stopped || c.stopped)
    && c.vec.any (fun w => w.slot == v.slot && w.waiting)

-- INB


/-- R118: the oldest message kept in a sender's NI delivered once a shared entry is free. -/
def State.freeShared (s : State) (core : Nat) : State :=
  match (s.core core).niWait with
  | [] => s
  | (sender, d, m) :: rest =>
    ((s.modCore core (fun c => { c with niWait := [] })).deliver sender d m).modCore core
      (fun c => { c with niWait := c.niWait ++ rest })

/-- R337, R148, R190, R201: the oldest message for the slot; an error entry raises QDEAD (notes/assumptions/48.md). Completions are posted once their writes are performed, so the
wait of R190 is over when one is present. -/
def execInb (h : Hdr) (a b : Reg) (m nb : Bool) (s : State) : Host.Outcome State Fault Refusal :=
  issue s (Info.synch h.s (lenP h.rgx 0) (if m then [codeG b] else []) [codeG a] true 0x407
      [if m then s.g b else 0, w64 (m.toNat + 2 * nb.toNat)]) none (fun s =>
    match (if m then s.ownTarget (s.g b) 32 32 else .ok 0) with
    | .error (c, v) => .trap c v
    | .ok off =>
      match s.myCore.inbox.find? (fun e => e.slot == s.cur.slot) with
      | none => if nb then .done (s.addRet (Ret.plain (codeG a) 0)) else .park Wait.poll s
      | some e =>
        let typ := wbits e.msg.w0 7 0
        if typ = 0 then .trap .qdead 0 else
        let flags := if typ = 0x12 then wbits e.msg.w0 28 24 else 0
        let s := s.modCore s.cur.core (fun c => { c with inbox := c.inbox.erase e })
        let s := if e.own then s.modMe (fun k => { (k.acquireOne (if typ = 0x11 then kCOPY else typ)) with
            outstanding := k.outstanding - 1 }) else s.freeShared s.cur.core
        let s := if m then s.write (cellsOf (s.ownKey spLM off) (msgBytes e.msg)) else s
        .done ((s.orFstat (w64 flags)).addRet { Ret.plain (codeG a) e.msg.w0 with flags := s.pairFlags (w64 flags) }))

end Sys2Proof.Machine
end

