-- ==== Sys2Proof/Machine/Access.lean ====
section
/-!
DEFINITION. Accesses that engines, the NI and arriving packets make on behalf of a task (R163, R166, R167, R172, R184,
R187): places, checks, reads and writes of runs of bytes, the reports of what fails (R149, R150), and completion words.
-/
namespace Sys2Proof.Machine

/-- The agent of a task's engine operation. -/
def State.agent (s : State) (core slot : Nat) (t : Option TaskRef) (checked : Bool) : Agent :=
  let ctx := (s.core core).tenant.toNat
  let l12 := ((s.ctx ctx).logical core).getD core
  match t with
  | some r => ⟨r.ctx, l12, slot, r.lslot, if isSupPath r.path then 0 else r.path,
      if checked then some (r.lslot, rootOf r.path, isSupPath r.path, wbits r.path 1 0) else none⟩
  | none => ⟨ctx, l12, slot, 0, 0, none⟩

/-- The agent of the issuing slot. -/
def State.myAgent (s : State) : Agent :=
  let m := s.me
  { s.agent s.cur.core s.cur.slot (m.task.map (·.ref)) (m.detlvl == 2 && !m.arch.sup) with core := s.ownCore }

/-- The writer's mark of an agent's packets (notes/assumptions/10.md); bit 61 marks an engine's write. -/
def agentMark (a : Agent) (fill : Bool) : List Byte :=
  let e := if fill then 2 ^ 61 else 0
  match a.check with
  | some (l, root, sup, die) => toBytes a.path.toNat 8 ++ toBytes (e + 2 ^ 63 + (if sup then 2 ^ 62 + 2 ^ 40 * die else 0)
      + 2 ^ 32 * l + root) 8
  | none => toBytes a.path.toNat 8 ++ toBytes (e + 2 ^ 32 * a.lslot + rootOf a.path) 8

/-- A fault record on behalf of an agent (R149). -/
def State.agentRecord (s : State) (a : Agent) (typ cause : Nat) (addr data : Word) : State :=
  s.faultRecord typ cause a.ctx a.core a.slot a.lslot addr a.path data

/-- R172: whether an agent may write at an address of the package. -/
def State.agentMay (s : State) (a : Agent) (ga : Nat) : Bool :=
  match a.check with
  | some (l, root, sup, die) => gaPkg ga != s.pkg.toNat || s.mayWrite a.ctx l root sup die ga
  | none => true

/-- The address j bytes on, if the offset stays inside its 41 bits (R162). -/
def gaAdd (ga : Nat) (j : Int) : Option Nat :=
  let off : Int := (gaOff ga : Nat) + j
  if off < 0 || (2 ^ 41 : Int) ≤ off then none else some (ga / 2 ^ 41 * 2 ^ 41 + off.toNat)

/-- The address j bytes on as a 64-bit sum, for reports. -/
def gaSum (ga : Nat) (j : Int) : Nat := (((ga : Int) + j) % (2 ^ 64 : Int)).toNat

/-- R15, R163, R164, R167: where one byte lies for an engine or a packet: a key of the package, or the fault. A reduction
window and CF are no plain memory, so they have no key. -/
def State.agentKey (s : State) (ctx ga : Nat) (write : Bool) : Except Cause Nat :=
  if gaPkg ga != s.pkg.toNat || !s.coordOk ctx ga then .error .coord
  else if gaSpace ga == spSY && ((s.die (s.dieOf ctx ga)).vars ≤ gaOff ga / 16) then .error .xlate
  else match s.placeOf ctx ga write with
    | some (.here k) =>
      if s.fencedAt ctx ga then .error .fenced
      else if gaSpace ga == spSY then
        .ok (s.varKey (s.dieOf ctx ga) (gaOff ga / 16) + gaOff ga % 16)
      else .ok k
    | _ => .error .xlate

/-- The keys of n bytes from an address, or the first failing byte with its cause. -/
def State.agentKeys (s : State) (ctx ga : Nat) (write : Bool) : Nat → Nat → Except (Cause × Nat) (List Nat)
  | _, 0 => .ok []
  | j, n + 1 =>
    match gaAdd ga j with
    | none => .error (.xlate, gaSum ga j)
    | some g => match s.agentKey ctx g write with
      | .error c => .error (c, g)
      | .ok k => match s.agentKeys ctx ga write (j + 1) n with
        | .ok ks => .ok (k :: ks)
        | .error e => .error e

/-- n bytes read by an engine inside the package. -/
def State.agentRead (s : State) (ctx ga n : Nat) : Except (Cause × Nat) (List Byte) :=
  match s.agentKeys ctx ga false 0 n with
  | .ok ks => .ok (ks.map (fun k => if s.cutOff ctx k then 0 else s.byte k))
  | .error e => .error e

/-- R152: the writes that a flood leaves. -/
def State.uncut (s : State) (ctx : Nat) (cells : List (Nat × Byte)) : List (Nat × Byte) :=
  cells.filter (fun c => !s.cutOff ctx c.1)

/-- R113, R172, R189: an engine's write inside the package sent to its homes in units; a refused write is dropped. -/
def State.agentUnits (s : State) (a : Agent) (o : WriteOwner) (ga : Nat) (bs : List Byte) : Except (Cause × Nat) State :=
  match s.agentKeys a.ctx ga true 0 bs.length with
  | .error e => .error e
  | .ok ks => if s.agentMay a ga then .ok (s.addUnits a.ctx o true false (ks.zip bs)) else .error (.capfault, ga)

/-- R113, R172: bytes written inside the package on behalf of an agent at once; a refused write is dropped. -/
def State.agentWrite (s : State) (a : Agent) (ga : Nat) (bs : List Byte) : Except (Cause × Nat) State :=
  match s.agentKeys a.ctx ga true 0 bs.length with
  | .error e => .error e
  | .ok ks => if s.agentMay a ga then .ok (s.engineWrite (s.uncut a.ctx (ks.zip bs))) else .error (.capfault, ga)

/-- The pieces of a run of bytes between 64-byte boundaries of its address. -/
def pieces64 (ga : Nat) (bs : List Byte) : Nat → List (Nat × List Byte)
  | 0 => []
  | n + 1 =>
    if bs.isEmpty then [] else
    let k := min bs.length (64 - ga % 64)
    (ga, bs.take k) :: pieces64 (gaSum ga k) (bs.drop k) n

/-- R163, R167, R187: the data of a PUT or PUTSG sent to its homes in units; a 64-byte block that meets a fault is
dropped with a LATE record. It sets full/empty bits if it is an engine's write (R113, R339). -/
def State.putData (s : State) (a : Agent) (o : WriteOwner) (ga : Nat) (bs : List Byte) (typ opc : Nat) (fill last : Bool) : State :=
  (pieces64 ga bs (bs.length / 64 + 2)).foldl (fun s (g, b) =>
    match s.agentKeys a.ctx g true 0 b.length with
    | .error (c, at_) => s.agentRecord a 2 c.code.toNat (w64 at_) (w64 (typ + 256 * opc))
    | .ok ks =>
      if s.agentMay a g then s.addUnits a.ctx o fill last (ks.zip b)
      else s.agentRecord a 2 Cause.capfault.code.toNat (w64 g) (w64 (typ + 256 * opc))) s

/-- One more result word in an endpoint's FIFO. -/
def Slot.pushResult (m : Slot) (kind : Nat) (w : Word) : Slot :=
  m.setFifo kind { (m.fifoOf kind) with res := (m.fifoOf kind).res ++ [w] }

/-- R156: whether Hoist has saved a slot with a task. -/
def State.savedAs (s : State) (i : SlotId) (t : Option TaskRef) : Bool :=
  t.any (fun r => (tfind (s.core i.core).saved r.ctx).any (fun v =>
    (v.slots[i.slot]?).any (fun x => x.slot.task.any (fun k => k.ref == r))))

/-- A slot that Hoist has saved changed there. -/
def State.modSaved (s : State) (i : SlotId) (ctx : Nat) (f : Slot → Slot) : State :=
  s.modCore i.core (fun c => { c with saved := tmap (fun k (v : Saved) => if k = ctx then
    { v with slots := (v.slots.zipIdx).map (fun e => if e.2 = i.slot then { e.1 with slot := f e.1.slot } else e.1) } else v) c.saved })

/-- R118, R226, R339, R342: a word posted to the result FIFO of a slot's engine endpoint, if the slot still runs the task, or
Hoist has saved it, and it binds the endpoint (R333). -/
def State.postResult (s : State) (i : SlotId) (kind : Nat) (t : Option TaskRef) (w : Word) : State :=
  if s.sameTask i t then (if s.bound i kind then s.modSlot i (fun m => m.pushResult kind w) else s)
  else match t with
    | some r => if s.savedAs i t then s.modSaved i r.ctx (fun m => m.pushResult kind w) else s
    | none => s

end Sys2Proof.Machine
end

