-- ==== Sys2Proof/Machine/Copy.lean ====
section
/-!
DEFINITION. The copy engine and GETR (R161, R338, R339, R342): descriptors and their checks, transfers unit by unit,
resume descriptors, COPYDONE, COPYPART and GETDONE.
-/
namespace Sys2Proof.Machine

-- descriptors

def dSRC (r : List Byte) : Nat := field r 0 8
def dDST (r : List Byte) : Nat := field r 8 8
def dLEN (r : List Byte) : Nat := field r 16 4
def dROWS (r : List Byte) : Nat := field r 20 4
def dSSTR (r : List Byte) : Int := sfield r 24 4
def dDSTR (r : List Byte) : Int := sfield r 28 4
def dHEAD (r : List Byte) : Nat := field r 32 4
def dUno (r : List Byte) : Bool := byteAt r 36 % 2 == 1
def dSwait (r : List Byte) : Bool := byteAt r 36 / 2 % 2 == 1

/-- R338: the fields of a copy descriptor with their offsets, in ascending order. -/
def copyFields (r : List Byte) : List (Nat × Bool) :=
  let sp (ga : Nat) (l : List Nat) : Bool := l.contains (gaSpace ga)
  [(0, sp (dSRC r) [spBM, spLM, spAB, spCB, spHW]), (8, sp (dDST r) [spBM, spLM, spAB, spWB, spHW]),
   (16, 1 ≤ dLEN r && dLEN r ≤ 2 ^ 24), (20, 1 ≤ dROWS r && dROWS r ≤ 65536), (32, dHEAD r < dLEN r),
   (36, byteAt r 36 < 4), (37, zeroBytes r 37 27)]

/-- R342: the fields of GETR's descriptor. -/
def State.getrFields (s : State) (r : List Byte) : List (Nat × Bool) :=
  let own (ga : Nat) : Bool := gaPkg ga == s.pkg.toNat && gaCore ga == s.ownCore
  [(0, [spBM, spLM, spAB].contains (gaSpace (dSRC r))), (8, gaSpace (dDST r) == spLM && own (dDST r)),
   (16, 1 ≤ dLEN r && dLEN r ≤ 512), (20, byteAt r 20 == 0), (21, byteAt r 21 < 2), (22, zeroBytes r 22 2),
   (24, zeroBytes r 24 8)]

/-- The trap of the first field that fails (R338). -/
def fieldTrap (fs : List (Nat × Bool)) : Option (Cause × Word) :=
  (fs.find? (fun f => !f.2)).map (fun f => (.illegal, w64 (0x100 + f.1)))

/-- R118: four completion-bearing operations outstanding. -/
def Slot.fullInbox (m : Slot) : Bool := 4 ≤ m.outstanding

/-- A command joins the copy engine's list. -/
def State.addCopy (s : State) (core : Nat) (c : CCmd) : State := s.modCore core (fun k => { k with copy := k.copy ++ [c] })

/-- A new command of a slot, before any progress. -/
def State.newCopy (s : State) (i : SlotId) (getr : Bool) (desc : Word) (record : List Byte) (tag : Word) (pushed : Bool) :
    CCmd :=
  let m := s.slot i
  { slot := i.slot, getr := getr, desc := desc, record := record, tag := tag, pushed := pushed, row := 0
    col := if getr then 0 else dHEAD record, moved := 0, gets := [], gathered := [], status := 0, cause := 0
    faultAddr := 0, finished := false, puts := [], checked := m.detlvl == 2 && !m.arch.sup, task := m.task.map (·.ref) }

def execCpy (sBit : Bool) (a b : Reg) (s : State) : Host.Outcome State Fault Refusal :=
  issue s (Info.synch sBit 2 [codeG a, codeG b] [] false 0x406 [s.g a, s.g b]) none (fun s =>
    match s.ownRecord (s.g a) 64 64 with
    | .error (c, v) => .trap c v
    | .ok off =>
      let r := s.bytes (s.ownKey spLM off) 64
      match fieldTrap (copyFields r) with
      | some (c, v) => .trap c v
      | none =>
        if s.me.fullInbox then .park Wait.poll s
        else .done ((s.addCopy s.cur.core (s.newCopy s.cur false (s.g a) r (s.g b) false)).modMe
          (fun m => m.issueEngine kCOPY true)))

/-- R339: a descriptor address pushed to a COPY endpoint. A check that fails ends it with its cause. -/
def State.pushCopy (s : State) (i : SlotId) (w : Word) : State :=
  let check : Except (Cause × Word) (List Byte) :=
    match { s with cur := i }.ownRecord w 64 64 with
    | .error e => .error e
    | .ok off =>
      let r := s.bytes (pa spLM i.core off) 64
      match fieldTrap (copyFields r) with
      | some e => .error e
      | none => .ok r
  let c := match check with
    | .ok r => s.newCopy i false w r 0 true
    | .error (c, _) => { s.newCopy i false w [] 0 true with finished := true, status := 2, cause := c.code }
  (s.addCopy i.core c).modSlot i (fun m => m.issueEngine kCOPY false)

-- the transfer (R339)

/-- What a unit came to: it moved, it waits, or it stopped on a fault at an address. -/
inductive Unit64 where
  | moved (c : CCmd) (s : State)
  | waits (c : CCmd) (s : State)
  /-- `record` where an ENGINE record reports it beside the COPYPART: the reach map (R163) and a capability (R172). -/
  | fault (cause : Cause) (addr : Nat) (record : Bool)

/-- The addresses of a command's present unit and its length: up to the next 64-byte boundary of the destination. -/
def CCmd.unit (c : CCmd) : Nat × Nat × Nat :=
  let src := gaSum (dSRC c.record) (c.row * dSSTR c.record + c.col)
  let dst := gaSum (dDST c.record) (c.row * dDSTR c.record + c.col)
  (src, dst, min (dLEN c.record - c.col) (64 - dst % 64))

/-- Progress past a unit of n bytes. -/
def CCmd.forward (c : CCmd) (n : Nat) : CCmd :=
  let done := dLEN c.record ≤ c.col + n
  let c := { c with row := if done then c.row + 1 else c.row, col := if done then 0 else c.col + n
                    moved := c.moved + n, gathered := [] }
  { c with finished := dROWS c.record ≤ c.row }

/-- R338: the granules of LM or AB that a read under SWAIT waits for: none when all are full, else the first byte that lies on a
sealed core, if one does. -/
def State.swait (s : State) (keys : List Nat) : Option (Option Nat) :=
  match keys.findIdx? (fun k => hasFull k && (s.core (paCore k)).sealed.isSome) with
  | some n => some (some n)
  | none => if keys.any (fun k => hasFull k && !s.isFull (unitOf k)) then some none else none

/-- R163, R184: the reads of a run of bytes of another package: one GET for each 512-byte block, or under SWAIT one that waits
at its home for each granule of LM or AB (R338, notes/assumptions/10.md); none while no returning slot is free. -/
def State.sendGets (s : State) (ctx cls ga n : Nat) (swait : Bool) : Option (State × List (Nat × Nat × Nat × Nat)) :=
  let bs : List Byte := List.replicate n 0
  let inl := if swait then toBytes (1 + 4 + 32) 8 else []
  (if swait then pieces16 ga bs (n / 16 + 2) else pieces512 ga bs 3).foldl (fun (r : Option (State × List (Nat × Nat × Nat × Nat))) p =>
    match r with
    | none => none
    | some (s, gs) => if !s.flowOpen (gaPkg p.1) cls then none else match s.takeReturning (gaPkg p.1) with
      | none => none
      | some (slot, s) =>
        let pk := { s.packet tyGET cls (gaPkg p.1) ctx 0 p.1 p.2.length inl [] with cslot := BitVec.ofNat 8 slot }
        some (s.issuePacket ⟨pk, s.now, false, none, none, ctx⟩, gs ++ [(gaPkg p.1, slot, p.1, p.2.length)]))
    (some (s, []))

/-- The class of a descriptor's remote packets (R338, R342). -/
def clsOf (uno : Bool) : Nat := if uno then clUNO else clORD

/-- R338, R339: the bytes of a unit written at its destination. -/
def State.copyOut (s : State) (core : Nat) (c : CCmd) (dst n : Nat) (bs : List Byte) : Unit64 :=
  let a := s.agent core c.slot c.task c.checked
  if gaPkg dst == s.pkg.toNat then
    match s.agentUnits a (.engine core c.slot kCOPY) dst bs with
    | .ok s => .moved (c.forward n) s
    | .error (e, at_) => .fault e at_ (e == .capfault || e == .coord)
  else if !s.coordOk a.ctx dst then .fault .coord dst true
  else
    let cls := clsOf (dUno c.record)
    if s.flowFailed (gaPkg dst) cls then .fault .fenced dst false
    else if !s.flowOpen (gaPkg dst) cls then .waits c s
    else
      let (s, ids) := s.sendPut a.ctx cls dst bs (agentMark a true) none
      .moved { c.forward n with puts := c.puts ++ ids.map (fun id => (id, c.row, c.col, c.moved)) } s

/-- R189, R339: one unit, once the writes of those before it are performed: every read is made before any write. -/
def State.copyUnit (s : State) (core : Nat) (c : CCmd) : Unit64 :=
  let (src, dst, n) := c.unit
  let ctx := (s.core core).tenant.toNat
  let s := s.landOwner (.engine core c.slot kCOPY)
  if s.blocked core (s.gaPlace ctx src) || s.blocked core (s.gaPlace ctx dst) then .waits c s
  else if gaPkg src == s.pkg.toNat then
    match s.agentKeys ctx src false 0 n with
    | .error (e, at_) => .fault e at_ (e == .coord)
    | .ok ks => match (if dSwait c.record then s.swait ks else none) with
      | some (some j) => .fault .qdead (granAddr (gaSum src j)).toNat false
      | some none => .waits c s
      | none => s.copyOut core c dst n (ks.map (fun k => if s.cutOff ctx k then 0 else s.byte k))
  else if !s.coordOk ctx src then .fault .coord src true
  else
    let cls := clsOf (dUno c.record)
    let swait := dSwait c.record && (gaSpace src == spLM || gaSpace src == spAB)
    if (s.ctx ctx).flooded then s.copyOut core c dst n (List.replicate n 0)
    else if !c.gets.isEmpty then .waits c s
    else if n ≤ c.gathered.length then
      s.copyOut core c dst n ((upFrom 0 n).map (fun j => ((c.gathered.find? (fun e => e.1 == src + j)).map Prod.snd).getD 0))
    else if s.flowFailed (gaPkg src) cls then .fault .fenced src false
    else match s.sendGets ctx cls src n swait with
      | none => .waits c s
      | some (s, gs) => .waits { c with gets := gs, gathered := [] } s

/-- The command replaced in its core's list, at a place. -/
def State.setCopy (s : State) (core at_ : Nat) (c : CCmd) : State :=
  s.modCore core (fun k => { k with copy := listSet k.copy at_ c })

/-- R161, R339: the resume descriptor of a transfer that stopped. -/
def resumeDesc (c : CCmd) : List Byte :=
  let r := c.record
  toBytes (gaSum (dSRC r) (c.row * dSSTR r)) 8 ++ toBytes (gaSum (dDST r) (c.row * dDSTR r)) 8 ++ (r.drop 16).take 4
    ++ toBytes (dROWS r - c.row) 4 ++ (r.drop 24).take 8 ++ toBytes c.col 4 ++ r.drop 36

/-- R41, R161: a copy of which remote writes are lost with their flow goes back to the first unit that is. -/
def State.rewindLost (s : State) (c : CCmd) : Option CCmd :=
  (s.lostWrite (c.puts.map (·.1))).map (fun _ =>
    match c.puts.find? (fun p => s.unackedWrite p.1) with
    | some (_, row, col, moved) => { c with row := row, col := col, moved := moved, puts := [] }
    | none => { c with puts := [] })

/-- R161: a transfer stopped at its present unit, or at the first one whose writes are lost. Where the slot's writes are checked and it may not write the descriptor's
place, the resume descriptor is not written (R172). -/
def State.stopCopy (s : State) (core at_ : Nat) (c : CCmd) (cause : BitVec 8) (addr : Nat) : State :=
  let (c, cause, addr) := match s.rewindLost c with
    | some b => (b, Cause.fenced.code, b.unit.2.1)
    | none => (c, cause, addr)
  let s := s.withdrawGets (s.core core).tenant.toNat c.gets
  let c := { c with finished := true, status := 1, cause := cause, faultAddr := w64 addr, gets := [] }
  let a := s.agent core c.slot c.task c.checked
  let s := s.landOwner (.engine core c.slot kCOPY)
  (if s.agentMay a c.desc.toNat then s.addUnits a.ctx (.engine core c.slot kCOPY) true false
      (cellsOf (pa spLM core (gaOff c.desc.toNat)) (resumeDesc c))
    else s.agentRecord a 1 Cause.capfault.code.toNat c.desc 0).setCopy core at_ c

/-- The transfer run for at most so many units. -/
def State.copyRun (s : State) (core at_ : Nat) (c : CCmd) : Nat → State
  | 0 => s.setCopy core at_ c
  | n + 1 =>
    if c.finished then s.setCopy core at_ c
    else match s.copyUnit core c with
      | .moved c s => State.copyRun s core at_ c n
      | .waits c s => s.setCopy core at_ c
      | .fault e a r =>
        let s := s.stopCopy core at_ c e.code a
        if r then s.agentRecord (s.agent core c.slot c.task c.checked) 1 e.code.toNat (w64 a) 0 else s

/-- R339: the engine goes on with its oldest copy, for at most `limit` units; 0 sets no limit. A response that reported a
fault stops it (R163). A pre-emption holds it at a unit's boundary, and its reads that wait under SWAIT are withdrawn (R155). -/
def execCopyTransfer (core limit : Nat) (s : State) : Host.Outcome State Fault Refusal :=
  let k := s.core core
  match k.copy.findIdx? (fun c => !c.getr && !c.finished) with
    | none => .next s
    | some n => match k.copy[n]? with
      | none => .next s
      | some c =>
        if s.copyStalls core then .next s
        else if s.coreStopped core && c.gets.isEmpty && c.gathered.isEmpty then .next s
        else if s.coreStopped core && !c.gets.isEmpty && c.cause = 0 then
          .next (s.withdrawGets (s.core core).tenant.toNat c.gets)
        else if s.coreStopped core && c.cause = 0 && c.gathered.length < c.unit.2.2 then
          .next (s.setCopy core n { c with gathered := [] })
        else if c.cause ≠ 0 then .next (s.stopCopy core n c c.cause c.faultAddr.toNat)
        else .next (s.copyRun core n c (if s.coreStopped core then 1 else if limit = 0 then dROWS c.record * (dLEN c.record / 64 + 2) else limit))

-- completion

/-- R339: COPYDONE. -/
def copydoneMsg (c : CCmd) : Msg := ⟨w64 0x10, w64 c.moved, c.tag, c.desc⟩
/-- R161: COPYPART; as a pushed descriptor that failed a check it is only the result word (R339). -/
def copypartMsg (c : CCmd) : Msg := ⟨w64 (0x11 + 2 ^ 16 * c.cause.toNat), w64 c.moved, c.faultAddr, c.desc⟩

/-- R41, R190: whether a finished copy's writes are performed, or lost with a failed flow. -/
def State.copyLanded (s : State) (c : CCmd) : Bool :=
  !c.puts.any (fun p => s.unackedWrite p.1) || (s.lostWrite (c.puts.map (·.1))).isSome

/-- R161, R339: the oldest finished copy posts its completion, once its writes are performed. One whose remote writes are lost with their flow ends as a
transfer that stopped (R41). -/
def execCopydone (core : Nat) (s : State) : Host.Outcome State Fault Refusal :=
  let k := s.core core
  match k.copy.findIdx? (fun c => !c.getr && c.finished && s.copyLanded c) with
  | none => .next s
  | some n => match k.copy[n]? with
    | none => .next s
    | some c =>
      let i : SlotId := ⟨core, c.slot⟩
      if c.pushed && !s.resultRoom i 5 c.task then .next s
      else
        match (if c.status = 0 then s.lostWrite (c.puts.map (·.1)) else none) with
        | some _ => .next (s.stopCopy core n c Cause.fenced.code 0)
        | none =>
          let s := (s.landOwner (.engine core c.slot kCOPY)).modCore core (fun k => { k with copy := k.copy.eraseIdx n })
          let m := if c.status = 0 then copydoneMsg c else copypartMsg c
          if !c.pushed then .next (s.completion i c.task m)
          else
            let s := s.postResult i 5 c.task (msgTo m i.slot).w0
            .next (if c.status = 1 then s.deliver none (.slot i) m else s)

-- GETR (R342)

def execGetr (sBit : Bool) (a b : Reg) (s : State) : Host.Outcome State Fault Refusal :=
  issue s (Info.synch sBit 2 [codeG a, codeG b] [] false 0x409 [s.g a, s.g b]) none (fun s =>
    match s.ownRecord (s.g a) 32 32 with
    | .error (c, v) => .trap c v
    | .ok off =>
      let r := s.bytes (s.ownKey spLM off) 32
      match fieldTrap (s.getrFields r) with
      | some (c, v) => .trap c v
      | none =>
        let src := dSRC r
        let cmd := s.newCopy s.cur true (s.g a) r (s.g b) false
        let go (s : State) (c : CCmd) : Res := .done ((s.addCopy s.cur.core c).modMe (fun m => m.issueEngine kGETR true))
        if s.me.fullInbox then .park Wait.poll s
        else if gaPkg src == s.pkg.toNat then go s cmd
        else if !s.coordOk s.myCtx src then go s { cmd with status := 1, cause := Cause.coord.code, faultAddr := w64 src }
        else if s.flowFailed (gaPkg src) (clsOf (byteAt r 21 == 1)) then go s { cmd with status := 2, cause := 0x10 }
        else match s.sendGets s.myCtx (clsOf (byteAt r 21 == 1)) src (dLEN r) false with
          | none => .park Wait.poll s
          | some (s, gs) => go s { cmd with gets := gs })

/-- R342: the bytes that a GETR has read, or the fault. -/
def State.getrRead (s : State) (core : Nat) (c : CCmd) : Except (Cause × Nat) (List Byte) :=
  let src := dSRC c.record
  let n := dLEN c.record
  if gaPkg src == s.pkg.toNat then
    s.agentRead (s.core core).tenant.toNat src n
  else .ok ((upFrom 0 n).map (fun j => ((c.gathered.find? (fun e => e.1 == src + j)).map Prod.snd).getD 0))

/-- R342: GETDONE. -/
def getdoneMsg (c : CCmd) (status : Nat) (cause : BitVec 8) : Msg :=
  ⟨w64 (0x14 + 2 ^ 16 * status + 2 ^ 24 * cause.toNat), w64 (if status = 0 then dLEN c.record else 0), c.tag, c.desc⟩

/-- R342: the oldest GETR that has every response writes its destination in units (R189) and, once they are performed, posts
GETDONE; a fault is also reported by
an ENGINE record (R150, R163, R172). -/
def execGetdone (core : Nat) (s : State) : Host.Outcome State Fault Refusal :=
  let k := s.core core
  match k.copy.findIdx? (fun c => c.getr && c.gets.isEmpty) with
  | none => .next s
  | some n => match k.copy[n]? with
    | none => .next s
    | some c =>
      let i : SlotId := ⟨core, c.slot⟩
      let s1 := s.modCore core (fun k => { k with copy := k.copy.eraseIdx n })
      let a := s.agent core c.slot c.task c.checked
      let finish (s : State) (st : Nat) (e : BitVec 8) (addr : Nat) : Host.Outcome State Fault Refusal :=
        let s := if st = 1 then s.agentRecord a 1 e.toNat (w64 addr) 0 else s
        .next (s.completion i c.task (getdoneMsg c st e))
      if c.finished then finish (s1.landOwner (.engine core c.slot kGETR)) 0 0 0
      else if c.status ≠ 0 then finish s1 c.status c.cause c.faultAddr.toNat
      else match s.getrRead core c with
        | .error (e, at_) => finish s1 1 e.code at_
        | .ok bs => match s.agentUnits a (.engine core c.slot kGETR) (dDST c.record) bs with
          | .ok s2 => .next (s2.setCopy core n { c with finished := true })
          | .error (e, at_) => finish s1 1 e.code at_

end Sys2Proof.Machine
end

