-- ==== Sys2Proof/Machine/TensMath.lean ====
section
/-!
DEFINITION. The arithmetic of the tensor engine (R194, R198, R203, R204, R216 to R220, R325): exact sums of products
with one rounding, accumulator updates, weights of bit planes, outlier values, and the tolerance test.
-/
namespace Sys2Proof.Machine

/-- An integer as an exact value. -/
def fvInt (n : Int) : FV := .fin (n < 0) n.natAbs 0

/-- R198, R211, R212: a BF16 operand, a subnormal as signed zero; the mark says that one was read so. -/
def bfEl (raw : Nat) : FV × Bool :=
  if fExp pBF16 raw == 0 && fFrac pBF16 raw != 0 then (.fin (fNeg pBF16 raw) 0 0, true) else (fDecode pBF16 raw, false)

def fvNeg : FV → FV
  | .nan => .nan
  | .inf n => .inf (!n)
  | .fin n m e => .fin (!n) m e

/-- R203: an exact product; a NaN operand or 0 × ∞ gives NaN. -/
def fvMul (a b : FV) : FV :=
  match a, b with
  | .nan, _ => .nan
  | _, .nan => .nan
  | .fin s m e, .fin t n f => .fin (s != t) (m * n) (e + f)
  | x, y => if isZero x || isZero y then .nan else .inf (FV.neg x != FV.neg y)

/-- R196, R203: an exact sum of two values; opposite infinities give NaN, and a zero sum is −0 only of two −0. -/
def fvAdd (a b : FV) : FV :=
  match a, b with
  | .nan, _ => .nan
  | _, .nan => .nan
  | .inf s, .inf t => if s == t then .inf s else .nan
  | .inf s, _ => .inf s
  | _, .inf t => .inf t
  | .fin s m e, .fin t n f =>
    let d := Dy.add (Dy.ofFin s m e) (Dy.ofFin t n f)
    .fin (if d.m = 0 then m == 0 && n == 0 && s && t else d.m < 0) d.m.natAbs d.e

/-- An exact sum of a list; an empty sum is +0. -/
def fvSum : List FV → FV
  | [] => .fin false 0 0
  | x :: xs => xs.foldl fvAdd x

/-- RNE of an exact value to FP32; a NaN is the default NaN and sets the invalid flag (R203). -/
def fvRound (x : FV) : Nat × Fl :=
  match x with
  | .nan => (fNan pFP32, { nv := true })
  | .inf n => (fInf pFP32 n, {})
  | .fin n m e => roundDy pFP32 0 n m e

/-- R203, R217: UPD on an FP32 accumulator. A NaN that the accumulator holds gives the default NaN, and the invalid flag
if it is signalling (notes/assumptions/24.md). -/
def updF (acc : Nat) (v : FV) : Nat × Fl :=
  if fIsNan pFP32 acc then (fNan pFP32, { nv := fIsSnan pFP32 acc || v == .nan })
  else fvRound (fvAdd (fDecode pFP32 acc) v)

/-- R203: UPD on an S32 accumulator, as its bits. -/
def updI (acc : Nat) (v : Int) : Nat := (((acc : Int) + v) % (2 ^ 32 : Int)).toNat

/-- R194: the weight that n planes give, from the n-bit number t. -/
def bpWeight (n t : Nat) : Int :=
  if n < 8 then sext n t * 2 ^ (8 - n) + 2 ^ (7 - n) else sext 8 t

/-- R216: an outlier value as an integer from −128 to 127, if it is one. -/
def outlierInt (v : FV) : Option Int :=
  match v with
  | .fin s m e =>
    let ok : Bool := 0 ≤ e || m % 2 ^ (-e).toNat == 0
    let n : Nat := if 0 ≤ e then m * 2 ^ e.toNat else m / 2 ^ (-e).toNat
    let k : Int := if s then -(n : Int) else n
    if ok && -128 ≤ k && k ≤ 127 then some k else none
  | _ => none

/-- R218: F of an accumulator's bits: the FP32 value itself, or RNE of the S32. -/
def ckF (act : Bool) (bits_ : Nat) : FV × Fl :=
  if act then (fDecode pFP32 bits_, {})
  else
    let (b, f) := fOfInt pFP32 0 (sext 32 bits_)
    (fDecode pFP32 b, f)

/-- R218: an exact sum with one rounding, and the flags of its addends and its rounding. -/
def ckSum (act : Bool) (xs : List Nat) : Nat × Fl :=
  let es := xs.map (ckF act)
  let (v, f) := fvRound (fvSum (es.map Prod.fst))
  (v, es.foldl (fun f e => f.or e.2) f)

/-- R219: whether a checked value passes against the expected one under CKTOL. -/
def ckPass (x e : Nat) (tol : Word) : Bool :=
  let ab := wbits tol 31 0
  let rl := wbits tol 63 32
  if [x, e, ab, rl].any (fIsNan pFP32) then false
  else match fDecode pFP32 x, fDecode pFP32 e with
    | .fin sx mx ex, .fin _ me ee =>
      let diff := Dy.add (Dy.ofFin sx mx ex) (Dy.neg (Dy.ofFin (fNeg pFP32 e) me ee))
      let mag : Dy := ⟨diff.m.natAbs, diff.e⟩
      -- the two terms of the tolerance: an infinity's sign, or an exact value
      let rel : FV := match fDecode pFP32 rl with
        | .inf n => if me = 0 then .fin false 0 0 else .inf n
        | v => fvMul v (.fin false me ee)
      match fvAdd (fDecode pFP32 ab) rel with
      | .fin s m e => Dy.le mag (Dy.ofFin s m e)
      | .inf n => !n
      | .nan => false
    | _, _ => x == e

/-- R220: RNE of a finite exact value to an integer. -/
def rneInt (s : Bool) (m : Nat) (e : Int) : Int :=
  let n : Nat := if 0 ≤ e then m * 2 ^ e.toNat else roundInt 0 s m (2 ^ (-e).toNat)
  if s then -(n : Int) else n

/-- R325: one multiplication of the release; a NaN operand or 0 × ∞ gives the default NaN and sets the invalid flag. -/
def relMul (x y : Nat) : Nat × Fl := fvRound (fvMul (fDecode pFP32 x) (fDecode pFP32 y))

end Sys2Proof.Machine
end

