-- ==== Sys2Proof/Machine/Reduction.lean ====
section
/-!
DEFINITION. The reduction unit of the I/O die (R46 to R52): group entries, own contributions, combination, results and
failures; PUTSG (R340, R341) and DGX (R347).
-/
namespace Sys2Proof.Machine

-- group entries (R46)

def gBits (c : BitVec 256) (h l : Nat) : Nat := bits c.toNat h l
def gVALID (c : BitVec 256) : Bool := gBits c 0 0 == 1
def gOP (c : BitVec 256) : Nat := gBits c 3 1
def gTYPE (c : BitVec 256) : Nat := gBits c 5 4
def gROOT (c : BitVec 256) : Bool := gBits c 6 6 == 1
def gOWN (c : BitVec 256) : Bool := gBits c 7 7 == 1
def gPARENT (c : BitVec 256) : Nat := gBits c 11 8
def gOWNCNT (c : BitVec 256) : Nat := gBits c 39 32
def gELEMS (c : BitVec 256) : Nat := gBits c 55 40
def gSTEP (c : BitVec 256) : Nat := gBits c 79 64
def gRESADDR (c : BitVec 256) : Nat := gBits c 191 128
def gSIGADDR (c : BitVec 256) : Nat := gBits c 255 192
def gDgeq (c : BitVec 256) : Bool := gOP c == 4
/-- The child ports, ascending. -/
def gKids (c : BitVec 256) : List Nat := (upFrom 0 16).filter (fun p => gBits c (16 + p) (16 + p) == 1)
/-- The bytes of an element of the own contribution, and of a partial or final result. -/
def gOwnSize (c : BitVec 256) : Nat := if gDgeq c then 8 else if gTYPE c = 1 then 2 else 4
def gResSize (c : BitVec 256) : Nat := if gDgeq c then 8 else 4

/-- R46: whether a VALID entry is well configured. -/
def gOk (c : BitVec 256) : Bool :=
  gOP c ≤ 4 && (gDgeq c || gTYPE c != 3) && (!gOWN c || gOWNCNT c != 0)
    && (if gDgeq c then gELEMS c == 1 else 1 ≤ gELEMS c && gELEMS c ≤ 16384)

/-- The codes of R73 that the I/O die logs; DIE is 4. -/
def evCONFIG : Nat := 0x06
def evSTEPDROP : Nat := 0x07
def evRSTALL : Nat := 0x08
def evDIGEST : Nat := 0x09

-- combination (R49)

/-- One element combined: the new accumulator, the flags and whether a digest differed. R46 does not call FSUM with TYPE S32, or
SSUM with FP32 or BF16, badly configured, and the spec does not say what they compute: the arithmetic goes by OP alone
(notes/assumptions/53.md). -/
def redCombine (op typ : Nat) (acc x : Nat) : Nat × Fl × Bool :=
  let flt := typ < 2
  match op with
  | 0 =>
    let (v, f) := fvRound (fvAdd (fDecode pFP32 acc) (fDecode pFP32 x))
    (v, { f with uf := fExp pFP32 v == 0 && fFrac pFP32 v != 0 }, false)
  | 1 => ((acc + x) % 2 ^ 32, {}, false)
  | 4 => (acc, {}, acc != x)
  | o =>
    let mx := o == 2
    if flt then
      if fIsNan pFP32 acc || fIsNan pFP32 x then (fNan pFP32, { nv := true }, false)
      else (if fBelow pFP32 acc x == mx then x else acc, {}, false)
    else
      let less : Bool := sext 32 acc < sext 32 x
      (if less == mx then x else acc, {}, false)

/-- Element i of a buffered contribution of a given element size; BF16 is widened exactly. -/
def redElem (cells : List (Nat × Byte)) (size i : Nat) : Nat :=
  let v := fromBytes ((upFrom (i * size) size).map (fun a => (tfind cells a).getD 0))
  if size = 2 then v * 65536 else v

/-- R46: whether a step's contributions are complete. -/
def redComplete (c : BitVec 256) (st : RedStep) : Bool :=
  st.started && (!gOWN c || st.ownDone)
    && (gKids c).all (fun p => st.kids.any (fun k => k.1 == p && k.2.1.length == gELEMS c * gResSize c))

/-- R49: the result of a complete step: its bytes, its flags NV, OF, UF, NX, DG, and the name of the first contributor
whose digest differed: one found here before one reported from below (notes/assumptions/53.md). -/
def redResult (pkg : Nat) (c : BitVec 256) (st : RedStep) : List Byte × Nat × Nat :=
  let n := gResSize c
  let typ := if gTYPE c = 1 then 0 else gTYPE c
  let kids := (gKids c).filterMap (fun p => st.kids.find? (fun k => k.1 == p))
  let below := kids.foldl (fun f k => Nat.lor f k.2.2.1.toNat) 0
  let named := ((kids.map (fun k => k.2.2.2)).find? (· != 0)).getD 0
  let one (i : Nat) : Nat × Nat × Nat :=
    let first : Nat × List (Nat × List (Nat × Byte) × BitVec 5 × Nat) :=
      if gOWN c then (redElem st.own (gOwnSize c) i, kids)
      else match kids with
        | k :: rest => (redElem k.2.1 n i, rest)
        | [] => (0, [])
    first.2.foldl (fun (r : Nat × Nat × Nat) k =>
      let (v, f, d) := redCombine (gOP c) typ r.1 (redElem k.2.1 n i)
      (v, Nat.lor r.2.1 (f.bits4 + 16 * d.toNat), if d && r.2.2 = 0 then 2 ^ 31 + 256 * pkg + k.1 else r.2.2)) (first.1, 0, 0)
  let all := (upFrom 0 (gELEMS c)).map one
  (all.flatMap (fun e => toBytes e.1 n), all.foldl (fun f e => Nat.lor f e.2.1) below,
    ((all.map (fun e => e.2.2)).find? (· != 0)).getD named)

-- results (R50, R51)

/-- R50: the signal word. -/
def redSignalWord (step flags : Nat) (fail : Bool) : Word := w64 (step + 2 ^ 16 * flags + 2 ^ 31 * fail.toNat)

/-- The reduction unit as the agent of its own writes. -/
def redAgent (ctx : Nat) : Agent := ⟨ctx, 0, 0xFF, 0, 0, none⟩

/-- AUX of RDC and RDR (R48). -/
def redAux (group step flags : Nat) : Nat :=
  group + 2 ^ 8 * step + 2 ^ 24 * bits flags 4 4 + 2 ^ 25 * bits flags 3 0

/-- The pieces of a vector of bytes for RDC and RDR packets, by byte offset; a vector of none gives one empty piece. -/
def redPieces (bs : List Byte) : List (Nat × List Byte) :=
  if bs.isEmpty then [(0, [])] else
  (upFrom 0 (ceilDiv bs.length 512)).map (fun i => (512 * i, (bs.drop (512 * i)).take 512))

/-- R48, R50: RDC or RDR packets sent through a port. The signal word and the name of the differing contributor travel in
the inline field (notes/assumptions/26.md). -/
def State.redSend (s : State) (typ port ctx group step flags name : Nat) (sig : Word) (pieces : List (Nat × List Byte)) :
    State :=
  pieces.foldl (fun s p =>
    let pk := s.packet typ clCTL (Config.neighbour port).toNat ctx 0 p.1 (redAux group step flags)
      (toBytes sig.toNat 8 ++ toBytes name 8) p.2
    s.issuePacket ⟨pk, s.now, false, none, none, ctx⟩) s

/-- R47, R50: STEP advances and the next step becomes the present one. -/
def Group.advance (g : Group) : Group :=
  let st := (gSTEP g.cfg + 1) % 65536
  { cfg := (g.cfg &&& ~~~(BitVec.ofNat 256 (0xFFFF * 2 ^ 64))) ||| BitVec.ofNat 256 (st * 2 ^ 64)
    cur := g.nxt, nxt := RedStep.empty }

/-- R52: the supervisor that a context's events go to: the first that has started and not ended, by launch and die. -/
def State.ctxSupervisor (s : State) (ctx : Nat) : Option Dest :=
  (s.ctx ctx).launches.findSome? (fun l =>
    (l.2.sups.find? (fun e => e.2.started && !e.2.ended)).map (fun e => Dest.supervisor ctx l.1 e.1))

/-- R52: the DIGEST event of a package that finds DG = 1: an entry of the event log, which the host reads, and a message to
the context's supervisor where it has one (notes/assumptions/52.md). -/
def State.redDigest (s : State) (ctx group step flags name : Nat) : State :=
  if bits flags 4 4 = 1 then
    let s := s.logEvent evDIGEST 4 ctx group (step + 2 ^ 32 * name)
    match s.ctxSupervisor ctx with
    | some d => s.deliver none d ⟨w64 (evDIGEST + 2 ^ 16 * group), w64 step, w64 name, 0⟩
    | none => s
  else s

/-- R50, R51, R152: the present step ends here: the result is written in units, then the signal, unless the context is flooded; the children get theirs; STEP
advances, after a failed step too (notes/assumptions/53.md). -/
def State.redFinish (s : State) (gi : Nat) (ctx flags name : Nat) (result : List Byte) (fail : Bool) : State :=
  let g := s.group gi
  let step := gSTEP g.cfg
  let sig := redSignalWord step flags fail
  let o : WriteOwner := .flow s.pkg.toNat (4 + gi)
  let cut := (s.ctx ctx).flooded
  let s := if fail || cut then s else s.putData (redAgent ctx) o (gRESADDR g.cfg) result tyPUTSG 0 false false
  let s := if cut then s else s.putData (redAgent ctx) o (gSIGADDR g.cfg) (toBytes sig.toNat 8) tyPUTSG 0 false true
  let s := (gKids g.cfg).foldl (fun s p => s.redSend tyRDR p ctx gi step flags name sig (redPieces result)) s
  (s.redDigest ctx gi step flags name).setGroup gi g.advance

/-- R51: the present step fails: the event names what is missing. -/
def State.redFailStep (s : State) (gi : Nat) : State :=
  let g := s.group gi
  let missing := ((gKids g.cfg).filter (fun p =>
    !g.cur.kids.any (fun k => k.1 == p && k.2.1.length == gELEMS g.cfg * gResSize g.cfg))).foldl (fun v p => v + 2 ^ p) 0
  let own := if gOWN g.cfg && !g.cur.ownDone then 2 ^ 16 else 0
  let s := s.logEvent evRSTALL 4 g.cur.ctx gi (missing + own + 2 ^ 32 * gSTEP g.cfg)
  s.redFinish gi g.cur.ctx 0 0 [] true

/-- R51: whether the flow towards one of a group's children has failed. -/
def State.childLost (s : State) (c : BitVec 256) : Bool :=
  (gKids c).any (fun p => s.flowFailed (Config.neighbour p).toNat clCTL)

/-- R49, R50, R51: a present step that has started while a child's flow is failed fails at once; a complete one goes up, or
at the root ends; a later one may follow. -/
def State.redTry (s : State) (gi : Nat) : Nat → State
  | 0 => s
  | n + 1 =>
    let g := s.group gi
    if !gVALID g.cfg || !gOk g.cfg || !g.cur.started then s
    else if s.childLost g.cfg then State.redTry (s.redFailStep gi) gi n
    else if !redComplete g.cfg g.cur || g.cur.sentUp then s
    else
      let (bs, flags, name) := redResult s.pkg.toNat g.cfg g.cur
      if gROOT g.cfg then State.redTry (s.redFinish gi g.cur.ctx flags name bs false) gi n
      else
        (s.redSend tyRDC (gPARENT g.cfg) g.cur.ctx gi (gSTEP g.cfg) flags name 0 (redPieces bs)).setGroup gi
          { g with cur := { g.cur with sentUp := true } }

-- own contributions (R47)

/-- The step that takes the own contribution: the lower one whose own contribution is missing. -/
def Group.ownTo (g : Group) (f : RedStep → RedStep) : Group :=
  if !g.cur.ownDone then { g with cur := f g.cur } else { g with nxt := f g.nxt }

/-- A step's first contribution noted. -/
def RedStep.begin_ (st : RedStep) (now ctx : Nat) : RedStep :=
  if st.started then st else { st with started := true, since := now, ctx := ctx }

/-- The group and window offset of an address in the reduction windows. -/
def winGroup (ga : Nat) : Nat := (gaOff ga - 2 ^ 40) / 65536
def winOff (ga : Nat) : Nat := gaOff ga % 65536
def isWindow (ga : Nat) : Bool := gaSpace ga == spSY && bits ga 40 40 == 1

/-- R47, R152: PUTSG data written into a group's window. That of a flooded context is dropped; one to a group that is not
VALID is late (notes/assumptions/53.md). -/
def State.redData (s : State) (a : Agent) (ga : Nat) (bs : List Byte) (sop : Nat) : State :=
  if (s.ctx a.ctx).flooded then s else
  let gi := winGroup ga
  let g := s.group gi
  let late (s : State) : State := s.agentRecord a 2 Cause.xlate.code.toNat (w64 ga) (w64 (tyPUTSG + 256 * sop))
  if 256 ≤ gi || !gVALID g.cfg then late s
  else if !gOk g.cfg then s.logEvent evCONFIG 4 a.ctx gi 0
  else if !gOWN g.cfg || gELEMS g.cfg * gOwnSize g.cfg < winOff ga + bs.length then late s
  else State.redTry (s.setGroup gi (g.ownTo (fun st =>
    let st := st.begin_ s.now a.ctx
    { st with own := (cellsOf (winOff ga) bs).foldl (fun w c => tset w c.1 c.2) st.own }))) gi 2

/-- R47, R341: one signal counted towards OWNCNT. -/
def State.redSignal (s : State) (a : Agent) (ga sop : Nat) : State :=
  if (s.ctx a.ctx).flooded then s else
  let gi := winGroup ga
  let g := s.group gi
  let late (s : State) : State := s.agentRecord a 2 Cause.xlate.code.toNat (w64 ga) (w64 (tyPUTSG + 256 * sop))
  if 256 ≤ gi || !gVALID g.cfg then late s
  else if !gOk g.cfg then s.logEvent evCONFIG 4 a.ctx gi 0
  else if !gOWN g.cfg then late s
  else
    State.redTry (s.setGroup gi (g.ownTo (fun st =>
      let st := st.begin_ s.now a.ctx
      { st with ownSignals := st.ownSignals + 1, ownDone := gOWNCNT g.cfg ≤ st.ownSignals + 1 }))) gi 2

-- PUTSG (R340, R341)

/-- R341: the address on which a signal acts: ADD at SY acts on bytes 0 to 7 of its variable. -/
def signalAt (sop sig : Nat) : Nat := if sop = 1 && gaSpace sig == spSY then sig / 16 * 16 else sig

/-- R340, R341: a signal at SIG in another package than the data's, by the packet that does there what it asks for: a PUT, as
an engine's write for SETF, or a RED that adds. It counts as performed once it is acknowledged (notes/assumptions/10.md). -/
def State.signalFar (s : State) (a : Agent) (id sop sig : Nat) (v : Word) : State :=
  let dst := gaPkg sig
  let late (typ cause : Nat) : State := s.agentRecord a typ cause (w64 sig) (if typ = 2 then w64 (tyPUTSG + 256 * sop) else 0)
  if isWindow sig || !s.coordOk a.ctx sig then late 2 Cause.coord.code.toNat
  else if s.flowFailed dst clORD then late 3 Cause.fenced.code.toNat
  else
    let at_ := signalAt sop sig
    let p := if sop = 1
      then s.packet tyRED clORD dst a.ctx 1 at_ 0 (toBytes v.toNat 8 ++ List.replicate 8 0 ++ agentMark a false) []
      else s.packet tyPUT clORD dst a.ctx 0 at_ 8 (List.replicate 16 0 ++ agentMark a (sop == 2)) (dataFlits at_ (toBytes v.toNat 8))
    s.issuePacket ⟨p, s.now, false, some id, none, a.ctx⟩

/-- R341, R152: the signal at SIG, as one step. SETF sets the granule full. A flooded context's units take none. -/
def State.signal (s : State) (a : Agent) (id sop sig : Nat) (v : Word) (cover : List Nat) : State :=
  if gaPkg sig != s.pkg.toNat then s.signalFar a id sop sig v
  else if isWindow sig then s.redSignal a sig sop
  else match s.agentKeys a.ctx (signalAt sop sig) true 0 8 with
    | .error (c, at_) => s.agentRecord a 2 c.code.toNat (w64 at_) (w64 (tyPUTSG + 256 * sop))
    | .ok ks =>
      if !s.agentMay a sig then s.agentRecord a 2 Cause.capfault.code.toNat (w64 sig) (w64 (tyPUTSG + 256 * sop))
      else if ks.any (s.cutOff a.ctx) then s
      else
        let old := w64 (fromBytes (ks.map s.byte))
        let new := if sop = 1 then old + v else v
        let s := (s.write (ks.zip (toBytes new.toNat 8))).markUnits cover ((ks.take 1).map unitOf)
        if sop = 2 then
          match ks with
          | k :: _ => (s.setFull (unitOf k) true).serve (unitOf k)
          | [] => s
        else s

/-- R186, R341: a signal performed once its data is. -/
def State.giveSignal (s : State) (e : LateSignal) : State :=
  ({ s with signals := s.signals.erase e }).signal e.agent e.id e.sop e.sig e.value e.cover

/-- Every unit and signal of an owner that is on its way performed. -/
def State.landAll (s : State) (o : WriteOwner) : State :=
  let s := s.landOwner o
  (s.signals.filter (fun e => e.owner == o)).foldl State.giveSignal s

/-- A signal that waits for its data, with its number. -/
def State.addSignal (s : State) (o : WriteOwner) (a : Agent) (sop sig : Nat) (v : Word) (cover : List Nat) : State :=
  { s with nextWrite := s.nextWrite + 1, signals := s.signals ++ [⟨s.nextWrite, o, a, sop, sig, v, cover⟩] }

/-- R112: the first byte of a run that lies beyond the size of a typed buffer, which the source NI finds before any packet
leaves. -/
def boundsFault (ga n : Nat) : Option Nat :=
  let sp := gaSpace ga
  if 1 ≤ sp && sp ≤ 4 && bufSize sp < gaOff ga + n then some (if bufSize sp ≤ gaOff ga then ga else ga - gaOff ga + bufSize sp) else none

/-- R340: the fields of PUTSG's descriptor. -/
def State.putsgFields (s : State) (r : List Byte) : List (Nat × Bool) :=
  let src := field r 0 8
  let dst := field r 8 8
  let sig := field r 24 8
  let win (ga : Nat) : Bool := isWindow ga && gaPkg ga == s.pkg.toNat
  [(0, gaPkg src == s.pkg.toNat && gaCore src == s.ownCore && (gaSpace src == spLM || gaSpace src == spBM)),
   (8, gaSpace dst ≤ 2 || win dst), (16, 1 ≤ field r 16 4 && field r 16 4 ≤ 65536), (20, byteAt r 20 ≤ 2),
   (21, byteAt r 21 == 0), (22, zeroBytes r 22 2),
   (24, sig % 8 == 0 && (gaSpace sig ≤ 2 || gaSpace sig == spSY)
      && (byteAt r 20 != 2 || gaSpace sig == spLM || gaSpace sig == spAB)
      && (!isWindow sig || (win sig && win dst && winGroup sig == winGroup dst)))]

/-- R341: the packets of a PUTSG to another package: PUTs, the last piece as PUTSG. -/
def State.sendPutsg (s : State) (a : Agent) (dst : Nat) (bs : List Byte) (sop sig : Nat) (v : Word) (who : SlotId) :
    State × List Nat :=
  let ps := pieces512 dst bs (bs.length / 512 + 2)
  let first := (ps.take (ps.length - 1)).flatMap Prod.snd
  let (s, ids) := if first.isEmpty then (s, []) else s.sendPut a.ctx clORD dst first (agentMark a false) (some (who, 256))
  match ps.getLast? with
  | none => (s, ids)
  | some (g, b) =>
    let p := s.packet tyPUTSG clORD (gaPkg g) a.ctx sop g b.length
      (toBytes sig 8 ++ toBytes v.toNat 8 ++ [BitVec.ofNat 8 sop] ++ (agentMark a false).drop 8) (dataFlits g b)
    let id := s.nextWrite
    ({ s with nextWrite := id + 1 }.issuePacket ⟨p, s.now, false, some id, some (who, 256), a.ctx⟩, ids ++ [id])

/-- The NI of a slot as the owner of its PUTSG's units. -/
def kPUTSG : Nat := 0x08

/-- R112, R340: the address whose translation or bounds fail at the instruction: in the source, else of DST or SIG in a typed
buffer, in the order of the fields. -/
def State.putsgBounds (s : State) (src dst sig n : Nat) : Option Nat :=
  match s.agentRead s.myCtx src n with
  | .error (.fenced, _) => (boundsFault dst n).or (boundsFault sig 8)
  | .error (_, at_) => some at_
  | .ok _ => (boundsFault dst n).or (boundsFault sig 8)

/-- R139, R341: the data of a PUTSG inside the package goes to its homes in units, and the signal follows them. -/
def execPutsg (sBit : Bool) (a b : Reg) (s : State) : Host.Outcome State Fault Refusal :=
  let pc := s.pc
  issue s (Info.synch sBit 2 [codeG a, codeG b] [] false 0x408 [s.g a, s.g b]) none (fun s =>
    match s.ownRecord (s.g a) 32 32 with
    | .error (c, v) => .trap c v
    | .ok off =>
      let r := s.bytes (s.ownKey spLM off) 32
      match fieldTrap' (s.putsgFields r) with
      | some (c, v) => .trap c v
      | none =>
        let src := field r 0 8
        let dst := field r 8 8
        let sig := field r 24 8
        let n := field r 16 4
        let sop := byteAt r 20
        let me := s.myAgent
        match [dst, sig].find? (fun ga => !s.coordOk s.myCtx ga) with
        | some ga => .trap .coord (w64 ga)
        | none => match s.putsgBounds src dst sig n with
          | some at_ => .trap .xlate (w64 at_)
          | none => match s.agentRead s.myCtx src n, [dst, sig].find? (fun ga => s.fencedAt s.myCtx ga) with
            | .error (_, at_), _ => .trap .fenced (w64 (0x100 + gaDie at_))
            | .ok _, some ga => .trap .fenced (w64 (0x100 + gaDie ga))
            | .ok bs, none => match s.lostWrite s.me.cover with
              | some p => .trap .fenced (w64 p)
              | none =>
                if s.coverFar then .park Wait.forCover s
                else
                  let s0 := s
                  let s := s.keepCover.releaseCheck (w64 sig) ((s.fetchWords s.myCtx pc.toNat 1).1.headD 0)
                  if gaPkg dst == s.pkg.toNat then
                    let o := WriteOwner.engine s.cur.core s.cur.slot kPUTSG
                    let s := s.landAll o
                    let first := s.nextWrite
                    let s := if isWindow dst then s.redData me dst bs sop
                      else s.putData me o dst bs tyPUTSG sop false false
                    let s := s.addSignal o me sop sig (s.g b) s.me.released
                    .done (s.modMe (fun m => { m with cover := m.cover ++ upFrom first (s.nextWrite - first) }))
                  else if s.flowFailed (gaPkg dst) clORD then .trap .fenced (w64 (gaPkg dst))
                  else if !s.flowOpen (gaPkg dst) clORD then .park Wait.poll s0
                  else
                    let (s, ids) := s.sendPutsg me dst bs sop sig (s.g b) s.cur
                    .done (s.modMe (fun m => { m with cover := m.cover ++ ids })))
where
  fieldTrap' (fs : List (Nat × Bool)) : Option (Cause × Word) :=
    (fs.find? (fun f => !f.2)).map (fun f => (.illegal, w64 (0x100 + f.1)))

-- DGX (R347)

def execDgx (sBit : Bool) (a b c : Reg) (s : State) : Host.Outcome State Fault Refusal :=
  issue s (Info.synch sBit 3 [codeG b, codeG c] [codeG a] true 0x40E [s.g b, s.g c])
    none (fun s =>
    if wbits (s.g c) 63 8 != 0 then .trap .illegal ((Instr.firstWord (.dgx sBit a b c)).setWidth 64)
    else match s.syncVar (s.g b) with
      | .error (e, v) => .trap e v
      | .ok v =>
        let gi := wbits (s.g c) 7 0
        let g := s.group gi
        let answer (s : State) (step st : Nat) : Res := .done (s.addRet (Ret.plain (codeG a) (w64 (step + 2 ^ 16 * st))))
        if gVALID g.cfg && !gOk g.cfg then answer (s.logEvent evCONFIG 4 s.myCtx gi 0) 0 1
        else if !gVALID g.cfg || !gDgeq g.cfg || !gOWN g.cfg || gOWNCNT g.cfg != 1 then answer s 0 1
        else if g.cur.ownDone && g.nxt.ownDone then answer s 0 2
        else
          let k := s.varKey v.die v.v
          let step := if g.cur.ownDone then (gSTEP g.cfg + 1) % 65536 else gSTEP g.cfg
          let bs := s.bytes k 8
          let s := s.setGroup gi (g.ownTo (fun st =>
            let st := st.begin_ s.now s.myCtx
            { st with own := cellsOf 0 bs, ownSignals := st.ownSignals + 1, ownDone := true }))
          let s := s.write (cellsOf k (List.replicate 16 0))
          answer (s.redTry gi 2) step 0)

-- packets (R48, R50) and failures (R51)

/-- R48, R152: a child's contribution of one packet; a flooded context's is dropped. -/
def State.redKid (s : State) (port : Nat) (p : Packet) : State :=
  let aux := p.aux.toNat
  let gi := bits aux 7 0
  let step := bits aux 23 8
  let flags := BitVec.ofNat 5 (bits aux 28 25 + 16 * bits aux 24 24)
  let g := s.group gi
  let ctx := (s.ctxs.find? (fun e => e.2.dctx == p.dctx)).map Prod.fst
  let now := gSTEP g.cfg
  if ctx.any (fun c => (s.ctx c).flooded) then s
  else if !gVALID g.cfg then s.logEvent evSTEPDROP 4 noCtx gi step
  else if !gOk g.cfg then s.logEvent evCONFIG 4 noCtx gi 0
  else if !(gKids g.cfg).contains port || !(step == now || step == (now + 1) % 65536) then
    s.logEvent evSTEPDROP 4 (ctx.getD noCtx) gi (step + 2 ^ 16 * port)
  else
    let room := gELEMS g.cfg * gResSize g.cfg - p.addr.toNat
    let cells := cellsOf p.addr.toNat (p.data.take (min 512 room))
    let name := fromBytes ((p.inl.drop 8).take 8)
    let add (st : RedStep) : RedStep :=
      let st := st.begin_ s.now (ctx.getD 0)
      match st.kids.find? (fun k => k.1 == port) with
      | some k => { st with kids := st.kids.map (fun e => if e.1 == port then
          (port, cells.foldl (fun w c => tset w c.1 c.2) k.2.1, k.2.2.1 ||| flags, if k.2.2.2 = 0 then name else k.2.2.2)
          else e) }
      | none => { st with kids := st.kids ++ [(port, cells.foldl (fun w c => tset w c.1 c.2) [], flags, name)] }
    let g := if step == now then { g with cur := add g.cur } else { g with nxt := add g.nxt }
    (s.setGroup gi g).redTry gi 2

/-- R50, R51: a result or a failure from the parent, one packet of it. One for another step, or for a group that is not VALID,
is dropped as R48 drops an RDC (notes/assumptions/53.md). -/
def State.redDown (s : State) (p : Packet) : State :=
  let aux := p.aux.toNat
  let gi := bits aux 7 0
  let step := bits aux 23 8
  let flags := bits aux 28 25 + 16 * bits aux 24 24
  let g := s.group gi
  let sig := fromBytes (p.inl.take 8)
  let name := fromBytes ((p.inl.drop 8).take 8)
  let fail := bits sig 31 31 == 1
  let ctx := ((s.ctxs.find? (fun e => e.2.dctx == p.dctx)).map Prod.fst).getD g.cur.ctx
  if !gVALID g.cfg || gROOT g.cfg || step != gSTEP g.cfg then s.logEvent evSTEPDROP 4 noCtx gi step
  else if !gOk g.cfg then s.logEvent evCONFIG 4 noCtx gi 0
  else
    let total := gELEMS g.cfg * gResSize g.cfg
    let bs := p.data.take (min 512 (total - p.addr.toNat))
    let o : WriteOwner := .flow p.src.toNat p.cls.toNat
    let cut := (s.ctx ctx).flooded
    let s := if fail || cut then s else s.putData (redAgent ctx) o (gaSum (gRESADDR g.cfg) p.addr.toNat) bs tyPUTSG 0 false false
    let last := fail || total ≤ p.addr.toNat + bs.length
    let s := if last && !cut then s.putData (redAgent ctx) o (gSIGADDR g.cfg) (toBytes sig 8) tyPUTSG 0 false true else s
    let s := (gKids g.cfg).foldl (fun s k =>
      s.redSend tyRDR k ctx gi step flags name (w64 sig) [(p.addr.toNat, if fail then [] else bs)]) s
    if last then ((s.redDigest ctx gi step flags name).setGroup gi g.advance).redTry gi 2 else s

/-- R51: the present step fails, and what is buffered behind it may follow. -/
def State.redFail (s : State) (gi : Nat) : State := (s.redFailStep gi).redTry gi 2

def execReductionTimeout (group : Nat) (s : State) : Host.Outcome State Fault Refusal :=
  let g := s.group group
  if gVALID g.cfg && gOk g.cfg && g.cur.started && !g.cur.sentUp && !redComplete g.cfg g.cur
      && s.redto ≤ s.now - g.cur.since then .next (s.redFail group)
  else .next s

end Sys2Proof.Machine
end

