-- ==== Sys2Proof/Machine/Assay.lean ====
section
/-!
DEFINITION. The assay image: slots and advice (R380 to R382), the recording instructions ABR, AREC and APF (R383 to
R385), and the merging of a core's assay cache (R381).
-/
namespace Sys2Proof.Machine

/-- R381: the largest count. -/
def countMax : Nat := 2 ^ 32 - 1

/-- R381: a count increased with saturation. -/
def countAdd (c inc : Nat) : Nat := min (c + inc) countMax

/-- R381: the two halves of an update. -/
def AssayAdd.halves (a : AssayAdd) : List AssayHalf := [⟨a.handle, a.index, false, a.inc0⟩, ⟨a.handle, a.index, true, a.inc1⟩]

/-- R381: one half of a slot merged into the live image, in one atomic step. Updates of an image that has been sealed have no
place left and are dropped (R70), and so are those of a slot on a fenced die, whose BM cannot be reached (R8). -/
def State.mergeHalf (s : State) (a : AssayHalf) : State :=
  match (tfind s.images a.handle).bind (fun img => img.pa[a.index]?) with
  | none => s
  | some k =>
    if s.lostCell k then s
    else if a.second then s.write (cellsOf (k + 8) (toBytes (countAdd (s.num (k + 8) 4) a.inc) 4 ++ toBytes (s.num (k + 12) 4) 4))
    else s.write (cellsOf k (toBytes (s.num k 4) 4 ++ toBytes (countAdd (s.num (k + 4) 4) a.inc) 4))

/-- R381: a merge of a core's assay cache begins; its halves are merged one by one (ASSAY_MERGE). -/
def Core.startMerge (c : Core) (now : Nat) : Core :=
  { c with assay := [], merging := c.merging ++ c.assay.flatMap AssayAdd.halves, lastMerge := now }
def State.startMerge (s : State) (core : Nat) : State := s.modCore core (fun c => c.startMerge s.now)

/-- A core's whole assay cache merged, with what an earlier merge has left. -/
def State.mergeCore (s : State) (core : Nat) : State :=
  let s := s.startMerge core
  (s.core core).merging.foldl State.mergeHalf (s.modCore core (fun c => { c with merging := [] }))

/-- R381: when a merge is to begin: every 4,096 nominal cycles, and before a Hoist save. -/
def State.mergeDue (s : State) (core : Nat) : Bool :=
  !(s.core core).assay.isEmpty && ((s.core core).lastMerge + 4096 ≤ s.now || s.coreStopped core)

/-- R381: the next half of a merge, of one that has begun or of one that is due. -/
def execAssayMerge (core : Nat) (s : State) : Host.Outcome State Fault Refusal :=
  let s1 := if (s.core core).merging.isEmpty && s.mergeDue core then s.startMerge core else s
  match (s1.core core).merging with
  | [] => .next s
  | a :: rest => .next ((s1.modCore core (fun c => { c with merging := rest })).mergeHalf a)

/-- R380, R381: the kind of a slot of the image that the launch names. -/
inductive AssaySlot where
  /-- AHANDLE is 0. -/
  | noImage
  /-- The index is at or beyond SLOTS. -/
  | beyond
  /-- The counts of the live image lie on a fenced die. -/
  | lost (kind die : Nat)
  | slot (kind c0 c1 : Nat)
  deriving DecidableEq, Repr

/-- R381: a slot as the issuing task sees it: the live image at level 0, the snapshot at levels 1 and 2. Of a live image on a
fenced die only KIND is known, which never changes (R8, R380; notes/assumptions/55.md). -/
def State.assaySlot (s : State) (idx : Nat) : AssaySlot :=
  let h := (s.me.task.map (·.handle)).getD 0
  if h = 0 then .noImage else
  match tfind s.images h with
  | none => .noImage
  | some img =>
    match img.pa[idx]? with
    | none => .beyond
    | some k =>
      let fixed := (img.snapshot.drop (16 * idx)).take 16
      let r := if s.me.detlvl = 0 then s.bytes k 16 else fixed
      if s.me.detlvl = 0 && s.lostCell k then .lost (field fixed 0 4 % 4) ((s.ctx s.myCtx).logDie (paCore k / 1024))
      else .slot (field r 0 4 % 4) (field r 4 4) (field r 8 4)

def kindBRANCH : Nat := 1
def kindLOAD : Nat := 2
def kindLOOP : Nat := 3

/-- Whether a slot suits an instruction that takes the given kinds; no image makes no check. -/
def AssaySlot.suits (a : AssaySlot) (kinds : List Nat) : Bool :=
  match a with
  | .noImage => true
  | .beyond => false
  | .slot k _ _ => kinds.contains k
  | .lost k _ => kinds.contains k

/-- The kind of a slot. -/
def AssaySlot.kind (a : AssaySlot) : Nat :=
  match a with
  | .slot k _ _ => k
  | .lost k _ => k
  | _ => 0

/-- R176: an update kept with the open chunk. -/
def State.record (s : State) (idx inc0 inc1 : Nat) : State :=
  let h := (s.me.task.map (·.handle)).getD 0
  if s.assaySlot idx = .noImage then s
  else s.modMe (fun m => m.modOpen (fun c => { c with assay := c.assay ++ [⟨h, idx, inc0, inc1⟩] }))

/-- R382: the advice of a slot's counts. -/
def advice (adv c0 c1 : Nat) : Nat :=
  match adv with
  | 0 => if c0 < 2 * c1 then 1 else 0
  | 1 => if 4 * c0 ≤ c1 then 4 else 1
  | _ => if c0 = 0 then 1 else min 16 (max 1 (ceilDiv c1 c0))
/-- R382: the kind that an advice reads, and its default. -/
def adviceKind (adv : Nat) : Nat := match adv with | 0 => kindBRANCH | 1 => kindLOOP | _ => kindLOAD
def adviceDefault (adv : Nat) : Nat := if adv = 0 then 0 else 1

/-- R381: ILLEGAL with XVAL = the index for a slot that does not suit; an index is an exact integer. -/
def State.assayCheck (s : State) (idx : Int) (kinds : List Nat) : Option (Cause × Word) :=
  let bad := if idx < 0 then !((s.assaySlot 0) = .noImage) else !((s.assaySlot idx.toNat).suits kinds)
  if bad then some (.illegal, i64 idx) else none

/-- R382. -/
def execAsel (h : Hdr) (a : Reg) (adv : BitVec 2) (i : ImmB) (s : State) : Host.Outcome State Fault Refusal :=
  let n := adv.toNat
  let idx := immVal i
  issue s { Info.chunked h.s (lenP h.rgx i.hi.length) [] [codeG a] with ext := true }
    (s.assayCheck idx [adviceKind n])
    (fun s =>
      match s.assaySlot idx.toNat with
      | .slot _ c0 c1 => .done (s.returning (codeG a) (w64 (advice n c0 c1)) none)
      | .lost _ d => .trap .fenced (w64 (0x100 + d))
      | _ => .done (s.returning (codeG a) (w64 (adviceDefault n)) none))

/-- R383: the test of BZ with its own target, recorded in a BRANCH slot. -/
def execAbr (h : Hdr) (a c : Reg) (nz : Bool) (i : ImmB) (s : State) : Host.Outcome State Fault Refusal :=
  let pc := s.pc
  issue s (Info.chunked h.s (lenP h.rgx i.hi.length) [codeG a, codeG c] []) none (fun s =>
    let idx := (s.g c).toNat
    if !(s.assaySlot idx).suits [kindBRANCH] then .trap .illegal (s.g c)
    else
      let taken := if nz then s.g a != 0 else s.g a == 0
      let s := s.record idx 1 taken.toNat
      .done (if taken then s.setPc (target pc i) else s))

/-- R384. -/
def execArec (sBit : Bool) (a : Reg) (i : ImmB) (s : State) : Host.Outcome State Fault Refusal :=
  let idx := immVal i
  issue s (Info.chunked sBit (2 + i.hi.length) [codeG a] [])
    (s.assayCheck idx [kindBRANCH, kindLOAD, kindLOOP])
    (fun s =>
      let x := min (s.g a).toNat countMax
      let inc := if (s.assaySlot idx.toNat).kind = kindBRANCH then (if x = 0 then 0 else 1) else x
      .done (s.record idx.toNat 1 inc))

/-- R385: the update that a returning APF makes, attached to its value; a value for g0 leaves no pending register. -/
def Slot.tagAssay (m : Slot) (before idx cyc : Nat) : Slot :=
  if before < m.returns.length then
    { m with returns := (m.returns.zipIdx).map (fun e =>
        if e.2 + 1 == m.returns.length then { e.1 with assay := some (idx, cyc), chunk := m.openNo } else e.1) }
  else m.addRet { Ret.plain 0 0 with assay := some (idx, cyc), chunk := m.openNo }

def execApf (h : Hdr) (a b c : Reg) (s : State) : Host.Outcome State Fault Refusal :=
  let pc := s.pc
  issue s { Info.chunked h.s (lenP h.rgx 0) [codeG b, codeG c] [codeG a] with ext := true } none (fun s =>
    let idx := (s.g c).toNat
    let slot := s.assaySlot idx
    let before := s.me.returns.length
    if !slot.suits [kindLOAD] then .trap .illegal (s.g c)
    else match s.loadPlain pc ⟨codeG a, 8, false⟩ (s.g b) 0 false with
      | .done s => .done (if slot = .noImage then s else s.modMe (fun m => m.tagAssay before idx s.myCore.cyc.toNat))
      | r => r)

end Sys2Proof.Machine
end

