-- ==== Sys2Proof/Machine/Launch.lean ====
section
/-!
DEFINITION. Launches: the checks of a launch record, its KCB and role table (R81 to R84, R100, R405), dealing (R85 to
R88), placing tasks at their cores (R90, R91, R145), launches that span packages (R44, R45, R99), and completion words
(R63).
-/
namespace Sys2Proof.Machine

/-- R10, R67: the feature version of the machine. -/
def featver : Nat := 4

-- reading

/-- R60, R82: bytes that a Work Distributor reads; none where the page does not translate or HW ends. -/
def State.wdRead (s : State) (ctx ga n : Nat) : Option (List Byte) := (s.agentRead ctx ga n).toOption

/-- R163: GETs for ranges of other packages, as far as returning slots are free; a package that the context does not reach, or
whose flow has failed, cannot be read. -/
def State.sendReads (s : State) (ctx : Nat) (want : List (Nat × Nat)) : State × List (Nat × Nat × Nat) × List Nat :=
  want.foldl (fun ((s, gets, bad) : State × List (Nat × Nat × Nat) × List Nat) e =>
    let dst := gaPkg e.1
    if !s.coordOk ctx e.1 || s.flowFailed dst clUNO then (s, gets, bad ++ [e.1])
    else match s.takeReturning dst with
      | none => (s, gets, bad)
      | some (n, s) =>
        let p := { s.packet tyGET clUNO dst ctx 0 e.1 e.2 [] [] with cslot := BitVec.ofNat 8 n }
        (s.issuePacket ⟨p, s.now, false, none, none, ctx⟩, gets ++ [(n, e.1, e.2)], bad)) (s, [], [])

/-- Ranges cut into pieces that stay inside 512 bytes (R28). -/
def inPieces (l : List (Nat × Nat)) : List (Nat × Nat) :=
  l.flatMap (fun e => (pieces512 e.1 (List.replicate e.2 0) (e.2 / 512 + 2)).map (fun p => (p.1, p.2.length)))

/-- Bytes that have come, all of them or none. -/
def gotBytes (got : List (Nat × Byte)) (ga n : Nat) : Option (List Byte) :=
  (upFrom ga n).mapM (fun a => (got.find? (fun e => e.1 == a)).map Prod.snd)

/-- A response's bytes by their addresses. -/
def putBytes (got : List (Nat × Byte)) (ga n : Nat) (bs : List Byte) : List (Nat × Byte) :=
  got ++ (((bs.drop (ga % 64)).take n).zipIdx).map (fun e => (ga + e.2, e.1))

def State.wdOf (s : State) (who : WdWho) (ctx : Nat) : WdRead :=
  (s.wdReads.find? (fun w => w.who == who)).getD ⟨who, ctx, [], [], []⟩
def State.wdDrop (s : State) (who : WdWho) : State := { s with wdReads := s.wdReads.filter (fun w => w.who != who) }

/-- R60, R163: what a Work Distributor reads for a queue or a slot: in its own package itself, elsewhere what has come. -/
def State.wdSee (s : State) (who : WdWho) (ctx ga n : Nat) : Option (List Byte) :=
  if gaPkg ga == s.pkg.toNat then s.wdRead ctx ga n else gotBytes (s.wdOf who ctx).got ga n

/-- R163: the reads of other packages that are still needed sent; none where all has come, or some of it cannot be read. -/
def State.wdNext (s : State) (who : WdWho) (ctx : Nat) (needs : List (Nat × Nat)) : Option State :=
  let w := s.wdOf who ctx
  let want := (inPieces (needs.filter (fun e => gaPkg e.1 != s.pkg.toNat))).filter (fun e =>
    (gotBytes w.got e.1 e.2).isNone && !w.bad.contains e.1 && !w.gets.any (fun g => g.2.1 == e.1))
  if want.isEmpty && w.gets.isEmpty then none
  else
    let (t, gets, bad) := s.sendReads ctx want
    let w := { w with gets := w.gets ++ gets, bad := w.bad ++ bad }
    if w.gets.isEmpty && !w.bad.isEmpty then none else some { t.wdDrop who with wdReads := (t.wdDrop who).wdReads ++ [w] }

/-- R38: a response to such a read, or its failure. -/
def State.wdAnswer (s : State) (pkg slot : Nat) (bytes : Option (List Byte)) : State :=
  { s with wdReads := s.wdReads.map (fun w => match w.gets.find? (fun g => g.1 == slot && gaPkg g.2.1 == pkg) with
    | none => w
    | some g => match bytes with
      | some bs => { w with gets := w.gets.erase g, got := putBytes w.got g.2.1 g.2.2 bs }
      | none => { w with gets := w.gets.erase g, bad := w.bad ++ [g.2.1] }) }

-- the checks of R82, R83 and R100, by the offsets of R405

/-- The offsets of the bytes of a zero field that are not zero. -/
def nonzeroAt (r : List Byte) (off n : Nat) : List Nat :=
  (upFrom off n).filter (fun i => byteAt r i != 0)

/-- An offset, if its condition fails. -/
def fails (off : Nat) (bad : Bool) : List Nat := if bad then [off] else []

/-- R82, R405: the offsets of the record's own fields that fail. -/
def recordBad (r : List Byte) (launcher : Nat) : List Nat :=
  let nd := Rec.ndim r
  let nl := Rec.nlvl r
  let others := field r 0x98 32 % 2 ^ launcher + field r 0x98 32 / 2 ^ (launcher + 1)
  let p := Rec.size r (nl - 1)
  fails 0x00 (field r 0 4 % 2 == 1)
  ++ fails 0x04 (2 < byteAt r 4) ++ fails 0x05 (1 < byteAt r 5) ++ fails 0x07 (3 < byteAt r 7)
  ++ (upFrom 0 nd).flatMap (fun d =>
      fails (0x10 + 4 * d) (field r (0x10 + 4 * d) 4 == 0)
      ++ fails (0x20 + 4 * d) (field r (0x20 + 4 * d) 4 == 0 || 65536 < Rec.tiles r d))
  ++ fails (0x20 + 4 * (nd - 1)) (2 ^ 32 < Rec.total r)
  ++ (upFrom 0 nl).flatMap (fun l =>
      let dom := Rec.domain r l
      fails (0x30 + 8 * l) ((l == 0 && dom != 0) || 6 < dom || (l != 0 && dom < Rec.domain r (l - 1)))
      ++ fails (0x31 + 8 * l) (6 < Rec.scope r l || Rec.scope r l < dom)
      ++ nonzeroAt r (0x32 + 8 * l) 2
      ++ fails (0x34 + 8 * l) ((l == 0 && Rec.count r l != 1) || Rec.count r l == 0))
  ++ fails (0x34 + 8 * (nl - 1)) (Rec.total r % p != 0)
  ++ fails (0x30 + 8 * (nl - 1)) ((Rec.domain r (nl - 1) == 6) != (others != 0))
  ++ fails 0x70 (Rec.supent r % 2 == 1)
  ++ fails 0x78 (field r 0x78 8 % 8 != 0 || (gaSpace (field r 0x78 8) != spBM && gaSpace (field r 0x78 8) != spHW))
  ++ fails 0x8C (byteAt r 0x8C != nd) ++ fails 0x8D (byteAt r 0x8D != nl)
  ++ nonzeroAt r 0x8E 2 ++ nonzeroAt r 0xB8 72

/-- R83, R405: the offsets of the KCB's fields that fail. -/
def kcbBad (r k : List Byte) : List Nat :=
  let buf (off mul hi : Nat) : List Nat := fails (0x100 + off) (field k off 4 % mul != 0 || hi < field k off 4)
  fails 0x05 (byteAt k 0x0C == 2 && byteAt r 5 != 1)
  ++ fails 0x10C (byteAt k 0x0C != 1 && byteAt k 0x0C != 2)
  ++ fails 0x10D (7 < byteAt k 0x0D) ++ fails 0x10E (1 < byteAt k 0x0E) ++ fails 0x10F (byteAt k 0x0F != 0)
  ++ buf 0x10 16 65536 ++ buf 0x14 16 163840 ++ buf 0x18 32 327680 ++ buf 0x1C 16 98304
  ++ fails 0x120 (65536 < field k 0x20 4) ++ fails 0x128 (!zeroBytes k 0x28 24)

/-- R100: a role table: none where it cannot be read, and no entries where it is not well formed. -/
def roleTable (rd : Nat → Nat → Option (List Byte)) (ga : Nat) : Option (Option (List (Nat × Nat × Nat))) :=
  match rd ga 8 with
  | none => none
  | some h =>
    let n := field h 0 4
    if n = 0 || 4096 < n || !zeroBytes h 4 4 then some none
    else match rd (gaSum ga 8) (8 * n) with
      | none => none
      | some b =>
        let es := (upFrom 0 n).map (fun i =>
          let e := field b (8 * i) 8
          (e % 4096, bits e 15 12, bits e 31 16))
        let cores := es.map Prod.fst
        if es.any (fun e => 8 < e.2.1) || cores.eraseDups.length != n then some none else some (some es)

/-- The checks of a record, its KCB and its role table: the lowest failing offset, whether the KCB or the role table
could not be read, and what was read. -/
structure Checked where
  bad : Option Nat
  unread : Bool
  kcb : List Byte
  roles : List (Nat × Nat × Nat)
  deriving DecidableEq, Repr

def lowest (l : List Nat) : Option Nat :=
  l.foldl (fun b n => match b with | none => some n | some x => some (min x n)) none

/-- R82: whether the KCB address of a record is where a KCB may be. -/
def kcbPlaced (r : List Byte) (launcher : Nat) : Bool :=
  field r 8 8 % 64 == 0 && gaSpace (field r 8 8) == spBM && gaPkg (field r 8 8) == launcher

/-- R82, R405: a record with what the WD reads of its KCB and role table. -/
def recordCheck (rd : Nat → Nat → Option (List Byte)) (launcher : Nat) (r : List Byte) : Checked :=
  let ra := field r 0x90 8
  let placed := kcbPlaced r launcher
  let kcb := if placed then rd (field r 8 8) 64 else none
  let roles := if ra = 0 then some (some []) else roleTable rd ra
  let bad := recordBad r launcher
    ++ fails 0x08 kcb.isNone
    ++ (match kcb with | some k => kcbBad r k | none => [])
    ++ fails 0x90 (match roles with | some (some _) => false | _ => true)
  { bad := lowest bad, unread := (placed && kcb.isNone) || roles.isNone, kcb := kcb.getD []
    roles := (roles.bind id).getD [] }

/-- R82: the checks with what the WD reads for a queue or a slot. -/
def State.checkRecord (s : State) (who : WdWho) (ctx : Nat) (r : List Byte) : Checked :=
  recordCheck (s.wdSee who ctx) s.pkg.toNat r

/-- R100: the ranges of the role table that a record's checks need: once its header is there, its entries. -/
def roleNeeds (rd : Nat → Nat → Option (List Byte)) (r : List Byte) : List (Nat × Nat) :=
  let ra := field r 0x90 8
  if ra = 0 then [] else (ra, 8) :: (match rd ra 8 with
    | some h => let n := field h 0 4; if n = 0 || 4096 < n then [] else [(gaSum ra 8, 8 * n)]
    | none => [])

-- dealing (R87)

/-- R16, R87: the cores that the context deals over, in logical order: enabled, on a die that is not fenced. -/
def State.dealCores (s : State) (ctx : Nat) : List Nat :=
  (s.ctx ctx).enabled.filter (fun l => !(s.die ((s.ctx ctx).physDie (l / 1024))).fenced)

/-- The instance of a domain that a logical core lies in. -/
def instKey (dom core : Nat) : Nat :=
  let x := core % 32
  let y := core / 32 % 32
  let d := core / 1024
  match dom with
  | 0 => core
  | 1 => core
  | 2 => x / 2 + 16 * (y / 2) + 256 * d
  | 3 => x / 4 + 8 * (y / 2) + 128 * d
  | 4 => d
  | _ => 0

/-- The instances of a domain inside a set of cores, in the order of their lowest cores. -/
def instances (dom : Nat) : List Nat → List (Nat × List Nat)
  | [] => []
  | c :: cs =>
    let rest := instances dom cs
    match rest.find? (fun e => e.1 == instKey dom c) with
    | some e => (e.1, c :: e.2) :: rest.filter (fun x => x.1 != e.1)
    | none => (instKey dom c, [c]) :: rest

/-- R87: where the i-th of C instances' run of G children begins. -/
def shareFrom (g c i : Nat) : Nat := g / c * i + min i (g % c)

/-- R87: G nodes of a level, from a first, dealt over the instances of its domain inside a set of cores: the runs of
tasks that each core receives. -/
def dealNodes (r : List Byte) : Nat → Nat → Nat → List Nat → List (Nat × Nat × Nat)
  | 0, first, g, cores =>
    (cores.zipIdx).filterMap (fun e =>
      let a := shareFrom g cores.length e.2
      let b := shareFrom g cores.length (e.2 + 1)
      if a = b then none else some (e.1, first + a, b - a))
  | l + 1, first, g, cores =>
    let insts := instances (Rec.domain r (l + 1)) cores
    let k := Rec.count r (l + 1)
    (insts.zipIdx).flatMap (fun e =>
      let a := shareFrom g insts.length e.2
      let b := shareFrom g insts.length (e.2 + 1)
      (upFrom (first + a) (b - a)).flatMap (fun nd => dealNodes r l (nd * k) k e.1.2))

/-- R99: the highest level that lies inside one package: the top level, or the one below it where its domain is DOMAIN. -/
def spanLevel (r : List Byte) : Nat := (((upFrom 0 (Rec.nlvl r)).filter (fun l => Rec.domain r l < 6)).getLast?).getD 0

/-- R96: the level of die-bound nodes. -/
def dieLevel (r : List Byte) : Nat := (((upFrom 0 (Rec.nlvl r)).filter (fun l => Rec.domain r l ≤ 4)).getLast?).getD 0

/-- R99: a range of whole die-bound nodes dealt inside the package: above DIE one instance has all of it (R87). -/
def dealRange (r : List Byte) : Nat → Nat → Nat → List Nat → List (Nat × Nat × Nat)
  | 0, lo, hi, cores => dealNodes r 0 lo (hi - lo) cores
  | l + 1, lo, hi, cores =>
    let n := Rec.size r (l + 1)
    if Rec.domain r (l + 1) ≤ 4 then dealNodes r (l + 1) (lo / n) ((hi - lo) / n) cores
    else (upFrom (lo / n) (ceilDiv hi n - lo / n)).flatMap (fun nd =>
      dealRange r l (max lo (nd * n)) (min hi ((nd + 1) * n)) cores)

/-- R96: the dealing table's entries of a deal. -/
def dealtOf (r : List Byte) (runs : List (Nat × Nat × Nat)) (first count : Nat) : List Dealt :=
  let lv := dieLevel r
  let n := Rec.size r lv
  (upFrom (first / n) (count / n)).filterMap (fun nd =>
    (runs.find? (fun e => e.2.1 ≤ nd * n && nd * n < e.2.1 + e.2.2)).map (fun e => ⟨lv, nd, e.1 / 1024, false⟩))

-- waiting tasks (R93, R145)

/-- R93: a job put behind those of its kernel in a core's arbiter queues, which stand by number and launch order. -/
def addJob (qs : List ArbQueue) (number order ctx lslot weight : Nat) (j : Job) : List ArbQueue :=
  if qs.any (fun a => a.ctx == ctx && a.lslot == lslot) then
    qs.map (fun a => if a.ctx == ctx && a.lslot == lslot then { a with jobs := a.jobs ++ [j] } else a)
  else
    let before (a : ArbQueue) : Bool := a.number < number || (a.number == number && a.order < order)
    qs.filter before ++ [⟨number, order, ctx, lslot, weight, 0, [j]⟩] ++ qs.filter (fun a => !before a)

/-- R87, R91, R145: a job dealt, forked or restarted to a physical core: it waits there, at a core sealed for its context its
tasks are killed, and at a core whose context is swapped out it waits in the saved state. -/
def State.place (s : State) (core ctx lslot : Nat) (j : Job) : State :=
  match s.launch ctx lslot with
  | none => s
  | some l =>
    let put (qs : List ArbQueue) : List ArbQueue := addJob qs l.number l.order ctx lslot l.weight j
    match s.sealOf core ctx with
    | some cause =>
      (({ number := 0, order := 0, ctx := ctx, lslot := lslot, weight := 0, deficit := 0, jobs := [j] } : ArbQueue).each).foldl
        (fun s p => s.killTask core (waitingTask l ctx lslot p) 0xFF p.2 cause false 0 0) s
    | none =>
      if !s.away core ctx then
        s.modCore core (fun c => { c with queues := put c.queues })
      else s.modCore core (fun c =>
        let v := tget c.saved Saved.empty ctx
        { c with saved := tset c.saved ctx { v with waiting := put v.waiting } })

-- accepting a launch

/-- Where a launch comes from (R62, R92, R93, R44). -/
inductive LaunchFrom where
  | host (q : Nat)
  | device (parent : Nat)
  | package (pkg lid first count : Nat)
  deriving DecidableEq, Repr

/-- How the master WD answers a launch (R60, R374). -/
inductive LaunchAnswer where
  | unreadable
  | malformed (off : Nat) (unread : Bool)
  | feature
  | busy
  | refused
  | accepted (lslot : Nat)
  deriving DecidableEq, Repr

/-- R84: whether some slot of an idle core could hold a task. -/
def fitsIdle (k : List Byte) : Bool :=
  field k 0x10 4 ≤ bufSize spLM && field k 0x14 4 ≤ bufSize spAB && field k 0x18 4 ≤ bufSize spWB
    && field k 0x1C 4 ≤ bufSize spCB

/-- R87, R99: the run of tasks of each target package. Every target is taken to have the launching context's enabled
cores, and the nodes below the top are one run over the packages, also where the top level has several nodes
(notes/assumptions/12.md). -/
def packageRuns (r : List Byte) (launcher : Nat) (cores : List Nat) : List (Nat × Nat × Nat) :=
  let lv := spanLevel r
  let n := Rec.size r lv
  let g := Rec.total r / n
  let k := (instances (Rec.domain r lv) cores).length
  let ps := targetsOf r launcher
  (ps.zipIdx).map (fun e =>
    let a := shareFrom g (k * ps.length) (e.2 * k)
    let b := shareFrom g (k * ps.length) ((e.2 + 1) * k)
    (e.1, a * n, (b - a) * n))

/-- R44: one offer of a range to a package (notes/assumptions/12.md). None of it is accepted where the context does not reach
the package (R163). -/
def State.offer (s : State) (ctx lslot : Nat) (pkg first count : Nat) : State :=
  match s.launch ctx lslot with
  | none => s
  | some l =>
    let p := s.packet tyLNCH clCTL pkg ctx 0 0 0 (toBytes first 8 ++ toBytes count 8 ++ toBytes (l.lid ctx lslot) 4) l.record
    let reached := (s.ctx ctx).reach.getLsbD pkg
    let s := s.modLaunch ctx lslot (fun l => { l with
      targets := l.targets ++ [⟨pkg, first, count, if reached then none else some 0, 0, 1, none⟩] })
    if reached then s.issuePacket ⟨p, s.now, false, none, none, ctx⟩ else s

/-- R87 to R90, R99: a range of tasks dealt in this package: its die-bound nodes in the dealing table, the supervisors of the
dies that it is the first to use, and its tasks at their cores. -/
def State.dealHere (s : State) (ctx lslot first count : Nat) : State :=
  match s.launch ctx lslot with
  | none => s
  | some l =>
    let c := s.ctx ctx
    let r := l.record
    let deal := dealRange r (spanLevel r) first (first + count) (s.dealCores ctx)
    let dies := (upFrom 0 4).filter (fun d => deal.any (fun e => e.1 / 1024 == d) && (tfind l.sups d).isNone)
    let sups := if Rec.supent r = 0 then [] else dies
    let s := s.modLaunch ctx lslot (fun l => { l with
      dealt := l.dealt ++ dealtOf r deal first count
      sups := sups.foldl (fun t d => tset t d ⟨none, false, false⟩) l.sups })
    let s := s.postAll (sups.map (fun d => Instr.supervisorStart ctx lslot d))
    deal.foldl (fun s e => match c.phys e.1 with
      | some p => s.place p ctx lslot (.run e.2.1 e.2.2)
      | none => s) s

/-- R97: which of the live parts (weights E_d, in order) takes node i of R. -/
def reissueTo (ws : List (Nat × Nat)) (r i : Nat) : Option Nat :=
  let e := (ws.map Prod.snd).foldl (· + ·) 0
  let starts := (upFrom 0 ws.length).map (fun j => ((ws.take j).map Prod.snd).foldl (· + ·) 0)
  ((ws.zip starts).find? (fun x => r * x.2 / e ≤ i && i < r * (x.2 + x.1.2) / e)).map (fun x => x.1.1)

/-- The maximal runs of consecutive numbers given to one receiver. -/
def runsOf : List (Nat × Nat) → List (Nat × Nat × Nat)
  | [] => []
  | (who, n) :: t => match runsOf t with
    | (w, f, k) :: rest => if w == who && f == n + 1 then (w, n, k + 1) :: rest else (who, n, 1) :: (w, f, k) :: rest
    | [] => [(who, n, 1)]

/-- R99: once every first offer is answered, the die-bound nodes that were not accepted are offered once more to the
targets that accepted in full; without one they are lost. The launching package, where TARGETS names it, has taken its own
range in full and deals further nodes itself (notes/assumptions/12.md). -/
def State.offerAgain (s : State) (ctx lslot : Nat) : State :=
  match s.launch ctx lslot with
  | none => s
  | some l =>
    if l.targets.any (fun t => t.accepted.isNone) then s else
    let open_ := l.targets.filter (fun t => t.offers == 1)
    let n := Rec.size l.record (dieLevel l.record)
    let left := open_.flatMap (fun t =>
      let a := t.accepted.getD 0
      upFrom ((t.first + a) / n) ((t.count - a) / n))
    let own := s.pkg.toNat
    let others := (open_.filter (fun t => t.accepted == some t.count)).map (fun t => (t.pkg, t.cores))
    let full := (others.filter (·.1 < own)
      ++ (if (targetsOf l.record own).contains own then [(own, (s.dealCores ctx).length)] else [])
      ++ others.filter (own < ·.1)).filter (·.2 != 0)
    let s := s.modLaunch ctx lslot (fun l => { l with
      targets := l.targets.map (fun t => { t with offers := 2 })
      partialEnd := l.partialEnd || (!left.isEmpty && full.isEmpty) })
    let to_ := (left.zipIdx).filterMap (fun e => (reissueTo full left.length e.2).map (fun p => (p, e.1)))
    let s := (runsOf to_).foldl (fun s e =>
      if e.1 = own then (s.modLaunch ctx lslot (fun l => { l with more := l.more ++ [(e.2.1 * n, e.2.2 * n)] })).dealHere
        ctx lslot (e.2.1 * n) (e.2.2 * n)
      else s.offer ctx lslot e.1 (e.2.1 * n) (e.2.2 * n)) s
    s.modLaunch ctx lslot (fun l => { l with
      targets := l.targets.map (fun t => { t with offers := 2 })
      partialEnd := l.partialEnd || l.targets.any (fun t => t.offers == 1 && t.accepted == some 0) })

/-- R87 to R90, R100, R390: an accepted launch: its number, its table entry, its deal and its supervisors. A launch with a role
table of its own ends what a recast has left on the context's cores (notes/assumptions/28.md). -/
def State.beginLaunch (s : State) (ctx : Nat) (r : List Byte) (k : Checked) (src : LaunchFrom) (level weight number : Nat) :
    Nat × State :=
  let c := s.ctx ctx
  let lslot := firstGap c.launches 0
  let cores := s.dealCores ctx
  let runs := match src with
    | .package _ _ first count => [(s.pkg.toNat, first, count)]
    | _ => packageRuns r s.pkg.toNat cores
  let mine := (runs.find? (fun e => e.1 == s.pkg.toNat)).getD (0, 0, 0)
  let l : Launch :=
    { order := c.launchCount, record := r, kcb := k.kcb, roles := k.roles, level := level
      weight := weight, number := number
      host := (match src with | .host q => some (ctx, q) | _ => none)
      origin := (match src with
        | .host q => some q
        | .device p => (tfind c.launches p).bind (·.origin)
        | _ => none)
      remoteFrom := (match src with | .package p lid _ _ => some (p, lid) | _ => none)
      first := mine.2.1, count := mine.2.2, dealt := [], live := [], exited := [], tends := [], killed := [], sups := []
      targets := [], partialEnd := false, flooded := false, reported := [], exiting := [], acks := [], covers := []
      gens := [], former := [], more := [], partOver := false }
  let s := s.setCtx ctx { c with launches := tset c.launches lslot l, launchCount := c.launchCount + 1 }
  let s := if field r 0x90 8 = 0 then s else cores.foldl (fun s x => match c.phys x with
    | some p => s.modCore p (fun c => { c with recast := false })
    | none => s) s
  let s := s.dealHere ctx lslot mine.2.1 mine.2.2
  let others := runs.filter (fun e => e.1 != s.pkg.toNat)
  let s := others.foldl (fun s e => s.offer ctx lslot e.1 e.2.1 e.2.2) s
  (lslot, if others.isEmpty then s else s.offerAgain ctx lslot)

/-- R60, R63, R163: a word of the WD's to another package, with the number of the write; after a flood it goes untagged
(R152). -/
def State.wdPut (s : State) (ctx addr : Nat) (bs : List Byte) (lslot : Nat) : State :=
  let id := s.nextWrite
  let p := s.packet tyPUT clORD (gaPkg addr) ctx 0 addr bs.length
    (List.replicate 16 0 ++ agentMark ⟨ctx, 0, 0xFF, lslot, 0, none⟩ false) (dataFlits addr bs)
  ({ s with nextWrite := id + 1 } : State).issuePacket ⟨p, s.now, false, some id, none, if (s.ctx ctx).flooded then 16 else ctx⟩

/-- R63: a completion word written by the WD, in another package by a PUT, or an ENGINE record where it cannot be. -/
def State.writeCw (s : State) (ctx addr status tasks lslot : Nat) : State :=
  let word := toBytes (status + 2 ^ 32 * min tasks (2 ^ 32 - 1)) 8
  if gaPkg addr != s.pkg.toNat && s.coordOk ctx addr then s.wdPut ctx addr word lslot
  else match s.agentKeys ctx addr true 0 8 with
    | .ok ks => s.write (ks.zip word)
    | .error _ => s.faultRecord 1 Cause.xlate.code.toNat ctx 0 0xFF lslot (w64 addr) 0 0

/-- R60, R82, R374: a record handed to the master WD: the tests in their order, and the launch where they pass; an offer of no
tasks leaves nothing to launch (R99). FEATURE from a host or REFUSED writes the completion word; a launch that is turned down
has no number, and an ENGINE record about its word has LSLOT 0 (notes/assumptions/12.md). -/
def State.wdLaunch (s : State) (ctx : Nat) (r : List Byte) (k : Checked) (src : LaunchFrom) (level weight number : Nat) :
    LaunchAnswer × State :=
  let h := field r 0x88 4
  match k.bad with
  | some off => (.malformed off k.unread, s)
  | none =>
    if featver < field k.kcb 8 4 then
      (.feature, match src with
        | .host _ => s.writeCw ctx (field r 0x78 8) 3 0 0
        | _ => s)
    else if 256 ≤ (s.ctx ctx).launches.length then (.busy, s)
    else if (h != 0 && (tfind s.images h).isNone) || (s.dealCores ctx).isEmpty || !fitsIdle k.kcb then
      (.refused, match src with
        | .package _ _ _ _ => s
        | _ => s.writeCw ctx (field r 0x78 8) 4 0 0)
    else match src with
      | .package _ _ _ 0 => (.accepted 0, s)
      | _ =>
        let (n, s) := s.beginLaunch ctx r k src level weight number
        (.accepted n, s)

-- LAUNCH (R374)

/-- R371, R374: the checks of an address operand at issue in the order of R139; XVAL is the address. -/
def State.checkAt (s : State) (a : Word) (align : Nat) (spaces : List Nat) : Option (Cause × Word) :=
  let ga := a.toNat
  if gaOff ga % align ≠ 0 then some (.align, a)
  else if gaPkg ga ≠ s.pkg.toNat then some (.coord, a)
  else if !spaces.contains (gaSpace ga) then some (.space, a)
  else none

/-- R374: LAUNCH; XVAL of a record beyond LIMIT is that of this rule (notes/assumptions/54.md). -/
def execLaunch (sBit : Bool) (a b : Reg) (s : State) : Host.Outcome State Fault Refusal :=
  issue s (Info.synch sBit 2 [codeG b] [codeG a] true 0x603 [s.g b]) none (fun s =>
    match s.checkAt (s.g b) 256 [spBM, spHW] with
    | some (c, v) => .trap c v
    | none =>
      let ctx := s.myCtx
      match s.agentRead ctx (s.g b).toNat 256 with
      | .error (.coord, _) => .trap .coord (s.g b)
      | .error (.fenced, _) => .trap .fenced (w64 (0x100 + gaDie (s.g b).toNat))
      | .error _ => .trap .xlate (s.g b)
      | .ok r =>
        let parent := (s.me.task.map (·.ref.lslot)).getD 0
        let (w, number) := match s.launch ctx parent with
          | some l => (l.weight, l.number)
          | none => (16, 64 * ctx)
        let weight := if byteAt r 6 = 0 then w else byteAt r 6
        let who : WdWho := .slot s.cur
        let answer (s : State) (status lslot off : Nat) : Res :=
          .done ((s.wdDrop who).addRet (Ret.plain (codeG a) (w64 (status + 2 ^ 8 * lslot + 2 ^ 16 * off))))
        match s.wdNext who ctx (roleNeeds (s.wdSee who ctx) r) with
        | some s => .park Wait.poll s
        | none => match s.wdLaunch ctx r (s.checkRecord who ctx r) (.device parent) (byteAt r 4) weight number with
          | (.accepted n, s) => answer s 0 n 0
          | (.malformed off _, s) => answer s 1 0 off
          | (.refused, s) => answer s 2 0 0
          | (.feature, s) => answer s 3 0 0
          | (_, s) => answer s 4 0 0)

-- launches that span packages

/-- R45: an answer to an LNCH. CORES counts the cores granted: none where the range is turned down. -/
def State.rrpt (s : State) (ctx pkg lid status first count : Nat) (granted : Bool) : State :=
  let cores := if granted then s.dealCores ctx else []
  let per (d : Nat) : Nat := (cores.filter (fun c => c / 1024 == d)).length
  let p := s.packet tyRRPT clCTL pkg ctx 0 0 0 (toBytes lid 4 ++ toBytes status 2 ++ [0, 0] ++ toBytes first 8
    ++ toBytes count 8 ++ toBytes (per 0) 2 ++ toBytes (per 1) 2 ++ toBytes (per 2) 2 ++ toBytes (per 3) 2) []
  s.issuePacket ⟨p, s.now, false, none, none, ctx⟩

/-- R44: bytes of the launching package that have come; none where some are missing or cannot be read. -/
def LnchWait.read (w : LnchWait) (ga n : Nat) : Option (List Byte) := gotBytes w.got ga n

/-- What a target's WD reads for an offered launch: in its own package itself, elsewhere by GETs. -/
def State.lnchRead (s : State) (w : LnchWait) (ga n : Nat) : Option (List Byte) :=
  if gaPkg ga == s.pkg.toNat then s.wdRead w.ctx ga n else w.read ga n

/-- R44: the ranges of other packages that the checks of a record need: its KCB, and its role table once the header says
how long it is. Each is read in pieces that stay inside 512 bytes (R28). -/
def State.lnchNeeds (s : State) (w : LnchWait) : List (Nat × Nat) :=
  let r := w.pkt.data.take 256
  let kcb := if kcbPlaced r w.pkt.src.toNat then [(field r 8 8, 64)] else []
  inPieces ((kcb ++ roleNeeds (s.lnchRead w) r).filter (fun e => gaPkg e.1 != s.pkg.toNat))

/-- R44, R45, R62, R93, R99: an offered range accepted whole, or refused with the reason. A target whose launch table is full
accepts none of it. The level and the weight of the kernel come with the launch identifier; the arbiter queues of a kernel that
comes in an LNCH have the number of command queue 0 (notes/assumptions/12.md). -/
def State.lnchDecide (s : State) (w : LnchWait) : State :=
  let p := w.pkt
  let first := field p.inl 0 8
  let count := field p.inl 8 8
  let lid := field p.inl 16 4
  let from_ := p.src.toNat
  let r := p.data.take 256
  let c := w.ctx
  if !(s.ctx c).started || (s.ctx c).flooded then s.rrpt c from_ lid 2 first 0 false
  else
    match s.wdLaunch c r (recordCheck (s.lnchRead w) from_ r) (.package from_ lid first count) (max (byteAt r 4) (lidLevel lid))
        (max (lidWeight lid) 1) (64 * c) with
    | (.accepted _, s) => s.rrpt c from_ lid 0 first count true
    | (.feature, s) => s.rrpt c from_ lid 3 first 0 false
    | (.refused, s) => s.rrpt c from_ lid 2 first 0 false
    | (.busy, s) => s.rrpt c from_ lid 1 first 0 false
    | (_, s) => s.rrpt c from_ lid 4 first 0 false

/-- R44: the reads that an offered launch still needs sent, as far as returning slots are free; its decision where it needs
none. -/
def State.lnchNext (s : State) (w : LnchWait) : State :=
  let s := { s with lnchWaits := s.lnchWaits.filter (fun x => x.pkt != w.pkt) }
  let want := (s.lnchNeeds w).filter (fun e => (w.read e.1 e.2).isNone && !w.bad.contains e.1 && !w.gets.any (fun g => g.2.1 == e.1))
  if want.isEmpty && w.gets.isEmpty then s.lnchDecide w
  else
    let (s, gets, bad) := s.sendReads w.ctx want
    let w := { w with gets := w.gets ++ gets, bad := w.bad ++ bad }
    if w.gets.isEmpty && !w.bad.isEmpty then s.lnchDecide w else { s with lnchWaits := s.lnchWaits ++ [w] }

/-- R44: an offered range arrives at a target, which reads its KCB first. -/
def State.lnchArrive (s : State) (ctx : Option Nat) (p : Packet) : State :=
  match ctx with
  | none => s.rrpt 0 p.src.toNat (field p.inl 16 4) 2 (field p.inl 0 8) 0 false
  | some c => s.lnchNext ⟨p, c, [], [], []⟩

/-- R38, R44: offered launches that could not yet send a read try again. -/
def State.lnchRetry (s : State) : State := s.lnchWaits.foldl (fun s w => if w.gets.isEmpty then s.lnchNext w else s) s

/-- R44: a response to a read of an offered launch, or its failure: the bytes kept, and what is needed next. -/
def State.lnchAnswer (s : State) (pkg slot : Nat) (bytes : Option (List Byte)) : State :=
  match s.lnchWaits.find? (fun w => w.gets.any (fun g => g.1 == slot && gaPkg g.2.1 == pkg)) with
    | none => s
    | some w => match w.gets.find? (fun g => g.1 == slot && gaPkg g.2.1 == pkg) with
      | none => s
      | some g =>
        let w := { w with gets := w.gets.erase g }
        s.lnchNext (match bytes with
          | some bs => { w with got := putBytes w.got g.2.1 g.2.2 bs }
          | none => { w with bad := w.bad ++ [g.2.1] })

/-- The acknowledgement of a notice that waits for one, dropped from a launch's list of exits. -/
def dropAck (src : Nat) (ref : GroupRef) : List (GroupRef × Nat × List Nat) → List (GroupRef × Nat × List Nat)
  | [] => []
  | e :: es =>
    if e.1 == ref && e.2.2.contains (512 + src) then (e.1, e.2.1, e.2.2.filter (· != 512 + src)) :: es
    else e :: dropAck src ref es

/-- R130: another package's EXIT notice: the group's tasks have ended there, and the SYEs of this package convey what it
holds here before the notice is acknowledged; where no part of the launch stands here any more, nothing of it is held here
either, and the acknowledgement goes at once. Or the acknowledgement of one of this package's (notes/assumptions/12.md). -/
def State.exitArrive (s : State) (ctx : Option Nat) (p : Packet) (ack : Bool) : State :=
  let src := p.src.toNat
  let g := field p.inl 8 8
  let launcher := field p.inl 16 8
  let lid := field p.inl 0 4
  let parts := s.launchesOf launcher lid
  if parts.isEmpty then
    if ack then s else s.exitNotice (ctx.getD 0) launcher lid (BitVec.ofNat 48 g) src true
  else parts.foldl (fun s e =>
    let ref := mkRef e.1 e.2 (bits g 34 32) (bits g 31 0)
    match s.launch e.1 e.2 with
    | none => s
    | some l =>
      if ack then
        (s.modLaunch e.1 e.2 (fun l => { l with exiting := dropAck src ref l.exiting })).post (.exitReport ref)
      else
        let n := Rec.size l.record (refLevel ref)
        (s.modLaunch e.1 e.2 (fun l => { l with
          exited := (upFrom (refNode ref * n) n).foldl setInsert l.exited
          acks := l.acks ++ [(ref, src)] })).startExit ref (l.groupGen ref) []) s

/-- R45, R99: an RRPT arrives: the answer to an offer, or the end of an accepted part. A part of a second offer that is
not accepted makes the launch PARTIAL. -/
def State.rrptArrive (s : State) (from_ : Option Nat) (p : Packet) : State :=
  if 0x100 ≤ field p.inl 4 2 then s.exitArrive from_ p (field p.inl 4 2 == 0x101) else
  let lid := field p.inl 0 4
  let status := field p.inl 4 2
  let first := field p.inl 8 8
  let count := field p.inl 16 8
  let cores := field p.inl 24 2 + field p.inl 26 2 + field p.inl 28 2 + field p.inl 30 2
  let ctx := lid / 256 % 16
  let lslot := lid % 256
  match s.launch ctx lslot with
  | none => s
  | some l =>
    if l.remoteFrom.isSome || l.lid ctx lslot != lid then s else
    let mine (t : Target) : Bool := t.pkg == p.src.toNat && t.first == first && !(t.accepted == some 0)
    match l.targets.find? mine with
    | none => s
    | some t =>
      if t.accepted.isNone then
        let s := s.modLaunch ctx lslot (fun l => { l with
          targets := l.targets.map (fun x => if mine x then { x with accepted := some count, cores := cores } else x)
          partialEnd := l.partialEnd || (t.offers == 2 && count != t.count) })
        s.offerAgain ctx lslot
      else s.modLaunch ctx lslot (fun l => { l with
        targets := l.targets.map (fun x => if mine x then { x with ended := some (count, status == 1) } else x) })

-- the end of a launch

/-- R97, R98: whether an election that is due has nodes of a launch to reissue or to give up. -/
def State.electing (s : State) (ctx : Nat) (l : Launch) : Bool :=
  s.electAt.isSome && l.dealt.any (fun d => !d.finished && (s.die ((s.ctx ctx).physDie d.die)).fenced)

/-- R63, R97 to R99, R131: whether everything that the completion of a launch waits for has happened: its tasks and
supervisors have ended, no election has to deal them again, their exits are reported, their kills too, and every accepting
target has ended. -/
def State.launchDone (s : State) (ctx lslot : Nat) (l : Launch) : Bool :=
  ((l.first, l.count) :: l.more).all (fun e => (l.exited.filter (fun t => e.1 ≤ t && t < e.1 + e.2)).length == e.2)
    && l.exiting.isEmpty && !s.electing ctx l
    && l.sups.all (fun p => p.2.ended || p.2.place.isNone)
    && l.targets.all (fun t => t.accepted == some 0 || t.ended.isSome)
    && !s.cores.any (fun e => e.2.kills.any (fun k => k.task.ref.ctx == ctx && k.task.ref.lslot == lslot))

/-- R390: a launch's number freed. -/
def State.dropLaunch (s : State) (ctx lslot : Nat) : State :=
  { s.modCtx ctx (fun c => { c with launches := tdel c.launches lslot }) with
    supWaiting := s.supWaiting.filter (fun w => !(w.1 == ctx && w.2.1 == lslot)) }

/-- R63: the launched tasks of a launch that have reached TEND, here and at its targets. -/
def Launch.tasks (l : Launch) : Nat :=
  l.tends.length + (l.targets.map (fun t => (t.ended.map Prod.fst).getD 0)).foldl (· + ·) 0

/-- R126, R130: whether an entry of the package is still held by a group of a launch. -/
def State.launchHolds (s : State) (ctx lslot : Nat) : Bool :=
  s.dies.any (fun d => d.2.estates.any (fun e =>
    e.2.kind != 0 && e.2.st.toNat < 2 && refCtx e.2.holder == ctx && refLslot e.2.holder == lslot))

/-- Whether a launch has something left to report: a target that has reported the end of its part keeps it while its groups
hold something here (notes/assumptions/12.md). -/
def State.launchOver (s : State) (ctx lslot : Nat) (l : Launch) : Bool :=
  s.launchDone ctx lslot l && !(l.partOver && s.launchHolds ctx lslot)

/-- R63, R99: the completion word, or the second RRPT of a target, and the launch number freed. -/
def execCompletionWordWrite (ctx lslot : Nat) (s : State) : Host.Outcome State Fault Refusal :=
  match s.launch ctx lslot with
  | none => .next s
  | some l =>
    if !s.launchDone ctx lslot l then .next s
    else
      let short := l.partialEnd || l.targets.any (fun t => match t.ended with | some e => e.2 | none => false)
      match l.remoteFrom with
      | some (pkg, lid) =>
        let s := if l.partOver then s else s.rrpt ctx pkg lid short.toNat l.first l.tasks true
        if s.launchHolds ctx lslot then .next (s.modLaunch ctx lslot (fun l => { l with partOver := true }))
        else .next (s.dropLaunch ctx lslot)
      | none =>
        .next ((s.writeCw ctx (field l.record 0x78 8) (if short then 2 else 1) l.tasks lslot).dropLaunch ctx lslot)

end Sys2Proof.Machine
end

