-- ==== Sys2Proof/Machine/Tasks.lean ====
section
/-!
DEFINITION. Tasks in slots: the fit of R84, the slot arbiter (R94), task start (R84, R86, R107, R138), supervisors
(R89, R90), TEND (R278), FORK and JOIN (R91, R371 to R373), KILLED reports (R145, R146), TCTL (R147, R387) and FINJ
(R388).
-/
namespace Sys2Proof.Machine

-- starting a task (R84, R86, R107)

/-- R86: ID.ROLE of a task that starts on a core: the core's role once a recast has changed it (R101), else the entry
of the launch's role table (R100). -/
def State.startRole (s : State) (l : Launch) (core l12 : Nat) : Word :=
  if (s.core core).recast then (s.core core).roleWord
  else match l.roles.find? (fun e => e.1 == l12) with
    | some e => w64 (e.2.1 + 2 ^ 16 * e.2.2)
    | none => 0

/-- R86: the identity registers that a job starts with on a core and slot. -/
def State.startIds (s : State) (ctx core slot : Nat) (l : Launch) (j : Job) : List Word :=
  let l12 := ((s.ctx ctx).logical core).getD core
  match j with
  | .child _ _ _ ids _ => listSet (listSet (listSet ids 0 (w64 (l12 % 4096 + 4096 * s.pkg.toNat))) 1 (w64 slot)) 18
      (s.startRole l core l12)
  | .run t _ => identity l s.pkg.toNat l12 slot (s.dealCores ctx).length (s.startRole l core l12) t
  | .again t _ => identity l s.pkg.toNat l12 slot (s.dealCores ctx).length (s.startRole l core l12) t

/-- R107, R108, R208: a slot at the start of a task. Engine completions left in the inbox still hold the slot's reserved
entries (R118). -/
def Slot.started (t : Task) (ids : List Word) (level left : Nat) (pc g2 : Word) (sup : Bool) : Slot :=
  let v := ids.foldl (fun (a : Vector Word 21 × Nat) w => (a.1.setIfInBounds a.2 w, a.2 + 1)) (Vector.replicate 21 0, 0)
  let id (n : Nat) : BitVec 32 := ((v.1[n]?).getD 0).setWidth 32
  { Slot.reset with
    status := .ready, task := some t, ids := v.1, detlvl := BitVec.ofNat 2 level, outstanding := left
    arch := { Arch.start.setG 2 g2 with pc := pc, sup := sup, txm := id 6, txn := id 7, txk := id 8 } }

/-- R138: the messages parked for a task delivered in arrival order. -/
def State.deliverMail (s : State) (die : Nat) (t : TaskRef) (i : SlotId) : State :=
  let mine := (s.die die).mail.filter (fun e => e.2 == t)
  let msgs := mine.map (fun e => s.mailMsg die e.1)
  let s := s.modDie die (fun d => { d with mail := d.mail.filter (fun e => e.2 != t) })
  msgs.foldl (fun s m => s.inboxPut i none (.task t) m false) s

/-- R84: the granules of a task's LM and AB ranges set empty; accesses that wait for that are served (R114). -/
def State.emptyRanges (s : State) (core slot lmb abb : Nat) : State :=
  let lm := pa spLM core (slot * lmb)
  let ab := pa spAB core (slot * abb)
  let inside (g : Nat) : Bool := (unitOf lm ≤ g && g < unitOf (lm + lmb)) || (unitOf ab ≤ g && g < unitOf (ab + abb))
  let s := (s.emptyRange lm lmb).emptyRange ab abb
  (((s.core core).granQ.map (·.key)).filter inside).foldl State.serve s

def State.ownLeft (s : State) (i : SlotId) : Nat :=
  ((s.core i.core).inbox.filter (fun e => e.own && e.slot == i.slot)).length

/-- R94: a job's first task started in a slot, with its trailing thread. -/
def State.startJob (s : State) (ctx core slot lslot : Nat) (l : Launch) (j : Job) : State :=
  let path := match j with
    | .run t _ => w64 t
    | .again t _ => w64 t
    | .child p _ _ _ _ => p
  let (pc, g2) := match j with
    | .child _ pc g2 _ _ => (pc, g2)
    | _ => (w64 (field l.kcb 0 8 + field l.record 0 4), 0)
  let t := { mkTask l ctx lslot path slot false with entry := pc, arg := g2, gen := j.gen l, life := s.lives }
  let ids := s.startIds ctx core slot l j
  let i : SlotId := ⟨core, slot⟩
  let s := ({ s with lives := s.lives + 1 } : State).wdDrop (.slot i)
  let s := s.setSlot i (Slot.started t ids l.level (s.ownLeft i) pc g2 false)
  let s := if l.n = 2 then s.setSlot ⟨core, slot + 4⟩
      (Slot.started { t with trailing := true } ids l.level (s.ownLeft ⟨core, slot + 4⟩) pc g2 false) else s
  let s := s.emptyRanges core slot t.lmb t.abb
  s.deliverMail (core / 1024) t.ref i

-- fitting (R84, R90)

/-- R84: whether the buffer ranges of slot s at the given sizes lie in their buffers and meet no range of another
task's. -/
def Core.rangesFit (c : Core) (s : Nat) (sizes : List (Nat × Nat)) (of_ : Task → List Nat) : Bool :=
  (sizes.zipIdx).all (fun e =>
    let n := e.1.2
    (s + 1) * n ≤ bufSize e.1.1
      && (upFrom 0 8).all (fun o => match (c.slot o).task with
        | some t =>
          let m := ((of_ t)[e.2]?).getD 0
          t.trailing || m == 0 || n == 0 || (s + 1) * n ≤ o * m || (o + 1) * m ≤ s * n
        | none => true))

/-- R84, R90: whether slot 7 of the core is kept from tasks: a supervisor of the die waits for one. -/
def State.slot7Kept (s : State) (core : Nat) : Bool :=
  let ctx := (s.core core).tenant.toNat
  s.supWaiting.any (fun w => w.1 == ctx && (s.ctx ctx).physDie w.2.2 == core / 1024)

/-- R84: the lowest slot that a task of the launch fits. -/
def State.fitSlot (s : State) (core : Nat) (l : Launch) : Option Nat :=
  let c := s.core core
  let k := mkTask l 0 0 0 0 false
  let sizes := [(spLM, k.lmb), (spAB, k.abb), (spWB, k.wbb), (spCB, k.cbb)]
  let of_ (t : Task) : List Nat := [t.lmb, t.abb, t.wbb, t.cbb]
  let free (n : Nat) : Bool := (c.slot n).status == .unowned && !(n == 7 && s.slot7Kept core)
  (upFrom 0 8).find? (fun n => free n && (l.n != 2 || (n ≤ 3 && free (n + 4))) && c.rangesFit n sizes of_)

/-- R90: whether the launch's supervisor on the core's die has started, if it has one. -/
def State.supReady (s : State) (ctx core : Nat) (l : Launch) : Bool :=
  match tfind l.sups ((s.ctx ctx).logDie (core / 1024)) with
  | some p => p.started
  | none => true

-- the slot arbiter (R94)

/-- The first task of a job, and what is left of it. -/
def Job.next : Job → Job × Option Job
  | .run t n => (.run t 1, if n ≤ 1 then none else some (.run (t + 1) (n - 1)))
  | j => (j, none)

/-- R94: the slot that a queue's head task fits. -/
def State.headFits (s : State) (core : Nat) (a : ArbQueue) : Option (Nat × Launch × Job × List Job) :=
  match a.jobs, s.launch a.ctx a.lslot with
  | j :: rest, some l =>
    if !s.supReady a.ctx core l then none
    else (s.fitSlot core l).map (fun n => (n, l, j.next.1, j.next.2.toList ++ rest))
  | _, _ => none

/-- R94: one queue's inner loop, at most one start for each of the 8 slots. -/
def State.runQueue (s : State) (core : Nat) (a : ArbQueue) : Nat → State × ArbQueue
  | 0 => (s, a)
  | n + 1 =>
    match s.headFits core a with
    | none => (s, a)
    | some (slot, l, j, rest) =>
      if a.deficit < 128 * l.n then (s, a)
      else State.runQueue (s.startJob a.ctx core slot a.lslot l j) core
        { a with jobs := rest, deficit := a.deficit - 128 * l.n } n

/-- R94: one pass over the queues in order; a queue without a waiting task leaves. -/
def State.arbPass (s : State) (core : Nat) : List ArbQueue → State × List ArbQueue
  | [] => (s, [])
  | a :: rest =>
    let (s, a) := s.runQueue core { a with deficit := min (a.deficit + a.weight) 511 } 8
    let (s, rest) := s.arbPass core rest
    (s, if a.jobs.isEmpty then rest else a :: rest)

/-- R94: passes while some head task fits. The bound is never reached: a start needs at most 256 passes. -/
def State.arbLoop (s : State) (core : Nat) (qs : List ArbQueue) : Nat → State × List ArbQueue
  | 0 => (s, qs)
  | n + 1 =>
    if qs.any (fun a => (s.headFits core a).isSome) then
      let (s, qs) := s.arbPass core qs
      s.arbLoop core qs n
    else (s, qs)

/-- R94: the owners of slots whose tasks have ended, or were killed, are cleared. -/
def Core.clearOwners (c : Core) : Core :=
  { c with slots := c.slots.map (fun m => if m.status == .ending then { m with status := .unowned, task := none } else m)
           ended := [], roundDue := false }

/-- R90, R94: the arbiter at a rotation boundary: owners cleared, then waiting supervisors given a free slot 7, then tasks
started. -/
def execArbiterRound (core : Nat) (s : State) : Host.Outcome State Fault Refusal :=
  let c := s.core core
  if c.sealed.isSome then .next (s.modCore core (fun c => { c with roundDue := false, ended := [] }))
  else
    let s := s.modCore core Core.clearOwners
    let free := ((s.core core).slot 7).status == .unowned
    let ctx := c.tenant.toNat
    let die := core / 1024
    let sup := s.supWaiting.filter (fun w => free && w.1 == ctx && (s.ctx ctx).physDie w.2.2 == die
      && !s.inflight.contains (.supervisorStart w.1 w.2.1 w.2.2))
    let s := s.postAll (sup.map (fun w => Instr.supervisorStart w.1 w.2.1 w.2.2))
    if (s.ctx ctx).preempt.isSome || s.away core ctx || (s.ctx ctx).flooded then .next s
    else
      let (s, qs) := s.arbLoop core (s.core core).queues 4096
      .next (s.modCore core (fun c => { c with queues := qs }))

-- supervisors (R89, R90)

/-- R89: the registers of a supervisor slot at its start. -/
def State.startSup (s : State) (ctx lslot die core : Nat) (l : Launch) : State :=
  let i : SlotId := ⟨core, 7⟩
  let l12 := ((s.ctx ctx).logical core).getD core
  let ids := (upFrom 0 21).map (fun n => match n with
    | 0 => w64 (l12 % 4096 + 4096 * s.pkg.toNat)
    | 1 => w64 7
    | 18 => s.startRole l core l12
    | 19 => w64 (s.dealCores ctx).length
    | 20 => w64 (field l.record 0x80 8)
    | n => Config.supervisorId n l.order)
  let t := { mkTask l ctx lslot (supPath die) 7 false with
    n := 1, sup := true, supDie := die, lmb := 0, abb := 0, wbb := 0, cbb := 0, life := s.lives }
  let s := ({ s with lives := s.lives + 1 } : State).setSlot i (Slot.started t ids l.level (s.ownLeft i) (w64 (Rec.supent l.record)) 0 true)
  let s := s.modLaunch ctx lslot (fun l => { l with sups := tset l.sups die ⟨some i, true, false⟩ })
  { s.deliverMail (core / 1024) t.ref i with
    supWaiting := s.supWaiting.filter (fun w => !(w.1 == ctx && w.2.1 == lslot && w.2.2 == die)) }

/-- R90: the supervisor of a launch on a die takes the first enabled core there whose slot 7 is unowned, or waits. -/
def execSupervisorStart (ctx lslot die : Nat) (s : State) : Host.Outcome State Fault Refusal :=
  match s.launch ctx lslot with
  | none => .next s
  | some l => match tfind l.sups die with
    | none => .next s
    | some p =>
      if p.started || p.ended then .next s
      else
        let c := s.ctx ctx
        let cores := ((s.dealCores ctx).filter (fun x => x / 1024 == die)).filterMap c.phys
        let ready (x : Nat) : Bool := !s.away x ctx && (s.slot ⟨x, 7⟩).status == .unowned
        match (if c.preempt.isSome || c.flooded then none else cores.find? ready) with
        | some x => .next (s.startSup ctx lslot die x l)
        | none =>
          if s.supWaiting.contains (ctx, lslot, die) then .next s
          else .next { s with supWaiting := s.supWaiting ++ [(ctx, lslot, die)] }

/-- R89: whether every task of a launch on a die has ended, so that its supervisor ends too. -/
def State.dieDone (s : State) (ctx lslot die : Nat) : Bool :=
  match s.launch ctx lslot with
  | none => true
  | some l =>
    let n (d : Dealt) : Nat := Rec.size l.record d.level
    (l.dealt.filter (fun d => d.die == die)).all (fun d =>
      (upFrom (d.node * n d) (n d)).all (fun t => l.exited.contains t))

-- TEND (R278)

/-- R278, R136: whether a slot has nothing on its way: values, SFU requests, or reductions to another package. -/
def State.slotIdle (s : State) (i : SlotId) : Bool :=
  (s.slot i).returns.isEmpty && !s.inSfu i
    && !s.flowsOut.any (fun e => !e.2.failed && (e.2.held ++ e.2.stalled).any (fun h =>
      h.who == some (i, 256) && !h.retired && (h.p.typ.toNat == tyRED || h.p.typ.toNat == tyFRED)))

/-- R278, R125, R89: a task's end: queue registers unbound, the merge of its assay updates begun, and the end of its group. -/
def State.endTask (s : State) (i : SlotId) : State :=
  let m := s.slot i
  match m.task with
  | none => s
  | some t =>
    let ctx := t.ref.ctx
    let ls := t.ref.lslot
    let qs := (upFrom 0 16).filter (fun q => (m.qreg q).kind != 0)
    let s := qs.foldl (fun s q => s.unbind i q) s
    let s := s.startMerge i.core
    let s := s.modLaunch ctx ls (fun l => { l with covers := setUnion l.covers m.cover })
    let s := s.modSlot i (fun m => { m with status := .ending, wait := none, resume := none })
    let s := match s.partner i with
      | some j => s.modSlot j (fun m => { m with status := .ending, wait := none, queued := false })
      | none => s
    let busy := (s.core i.core).tens.any (fun u => u.slot == i.slot && u.life == t.life)
    let s := s.modCore i.core (fun c => { c with
      ended := c.ended ++ [i.slot], roundDue := true
      checks := if busy then c.checks else c.checks.filter (fun k => k.slot != i.slot) })
    if t.sup then
      (s.modLaunch ctx ls (fun l => { l with sups := tset l.sups t.supDie ⟨some i, true, true⟩ })).sendExit
        (mkSup ctx ls t.supDie) 0
    else
      let root := rootOf t.ref.path
      let s := s.childEnds ctx ls t.ref.path false (m.arch.getG 2) m.cover
      let s := if depthOf t.ref.path = 0 then s.modLaunch ctx ls (fun l => { l with tends := setInsert l.tends root }) else s
      (s.taskEnds ctx ls t.ref.path t.gen).1

/-- R278, R333: TEND waits until the chunk before it has committed, nothing of the slot is on its way and no engine
endpoint holds an operand word. In a redundant pair it is a matched effect, and the slots end together. -/
def execTend (sBit : Bool) (s : State) : Host.Outcome State Fault Refusal :=
  issue s (Info.synch sBit 1 [] [] false 16 []) none (fun s =>
    let i := s.cur
    let engine (q : Nat) : Bool :=
      let k := (s.me.qreg q).kind.toNat
      3 ≤ k && !(s.me.fifoOf k).ops.isEmpty
    if !s.slotIdle i || (upFrom 0 16).any engine || (s.partner i).any (fun j => !s.slotIdle j) then .park Wait.poll s
    else .done (s.endTask i))

-- FORK and JOIN

/-- R91: the placement hash of a child by its root and its child indices. -/
def forkHash (root : Nat) (idx : List Nat) : Nat :=
  let h := idx.foldl (fun h c =>
    let h := (h ^^^ c) * 0x7A3D5B29 % 2 ^ 32
    h ^^^ (h / 2 ^ 15)) (root ^^^ 0x3C6EF372)
  let h := h * 0x4F1BC96D % 2 ^ 32
  h ^^^ (h / 2 ^ 16)

/-- R86: the child indices of a path, from depth 1. -/
def pathIdx (p : Word) : List Nat := (upFrom 1 (depthOf p)).map (fun m => wbits p (4 * m + 35) (4 * m + 32))

/-- Whether a slot is owned by a launched task; those that a seal killed own none. -/
def Slot.ownedBy (m : Slot) : Bool :=
  match m.task with
  | some t => !t.trailing && !t.sup && m.status != .sealed
  | none => false

/-- R91, R94, R147, R156: the tasks of a context that own a slot of a core or wait there, in its saved state where it is
swapped out. -/
def State.load (s : State) (core ctx : Nat) : Nat :=
  let c := s.core core
  let v := tget c.saved Saved.empty ctx
  let away := s.away core ctx
  ((if away then v.slots.map (·.slot) else c.slots.toList).filter Slot.ownedBy).length
    + ((if away then v.waiting else c.queues).map (fun a => a.tasks.length)).foldl (· + ·) 0

/-- R91: the least loaded of some physical cores, the first in logical order on a tie. -/
def State.leastLoaded (s : State) (ctx : Nat) : List Nat → Option Nat
  | [] => none
  | c :: cs => match s.leastLoaded ctx cs with
    | some d => if s.load d ctx < s.load c ctx then some d else some c
    | none => some c

/-- R91: the enabled cores of the level-1 instance that a logical core lies in, on its die. -/
def State.levelOne (s : State) (ctx l12 : Nat) (l : Launch) : List Nat :=
  let dom := Rec.domain l.record 1
  (s.dealCores ctx).filter (fun c => c / 1024 == l12 / 1024 && instKey dom c == instKey dom l12)

/-- R371, R372: the path of a child. -/
def childPath (p : Word) (c : Nat) : Word :=
  let d := depthOf p + 1
  w64 (p.toNat % 2 ^ 32 + 2 ^ 32 * d + p.toNat / 2 ^ 36 * 2 ^ 36 + 2 ^ (4 * d + 32) * c)

/-- R371: the status word of a FORK. -/
def forkStatus (status child core : Nat) : Word := w64 (status + 2 ^ 8 * child + 2 ^ 32 * core)

def execFork (h : Hdr) (a b c : Reg) (s : State) : Host.Outcome State Fault Refusal :=
  issue s (Info.synch h.s (lenP h.rgx 0) [codeG b, codeG c] [codeG a] true 0x601 [s.g b, s.g c]) none (fun s =>
    match s.checkAt (s.g b) 2 [spBM] with
    | some (c, v) => .trap c v
    | none =>
      let answer (s : State) (w : Word) : Res := .done (s.addRet (Ret.plain (codeG a) w))
      match s.me.task with
      | none => answer s (forkStatus 3 0 0)
      | some t =>
        match s.launch t.ref.ctx t.ref.lslot with
        | none => answer s (forkStatus 3 0 0)
        | some l =>
          let k := s.me.children.length
          if t.sup then answer s (forkStatus 3 0 0)
          else if t.maxfork < depthOf t.ref.path + 1 then answer s (forkStatus 1 0 0)
          else if 16 ≤ k then answer s (forkStatus 2 0 0)
          else
            let ctx := t.ref.ctx
            let path := childPath t.ref.path k
            let cores := s.levelOne ctx s.ownCore l
            let pick : Option Nat :=
              if l.level = 0 then s.leastLoaded ctx (cores.filterMap (s.ctx ctx).phys)
              else (cores[forkHash (rootOf path) (pathIdx path) % max cores.length 1]?).bind (s.ctx ctx).phys
            match pick with
            | none => answer s (forkStatus 3 0 0)
            | some core =>
              let l12 := ((s.ctx ctx).logical core).getD core
              let ids := listSet (listSet s.me.ids.toList 0 (w64 (l12 + 4096 * s.pkg.toNat))) 2 path
              let s := s.modMe (fun m => { m with children := m.children ++ [⟨path, false, false, 0, []⟩] })
              let s := s.modLaunch ctx t.ref.lslot (fun l => { l with
                live := tset l.live (rootOf path) (tget l.live 1 (rootOf path) + 1)
                former := l.formerBy (rootOf path) t.gen (· + 1) })
              answer (s.place core ctx t.ref.lslot (.child path (s.g b) (s.g c) ids t.gen)) (forkStatus 0 k l12))

/-- R373: whether a path names a fork descendant of another. -/
def descends (p q : Word) : Bool :=
  let d := depthOf q
  d < depthOf p && wbits p 31 0 == wbits q 31 0 && (pathIdx p).take d == pathIdx q

/-- R373: whether some fork descendant of a task has not ended. -/
def State.descendantLives (s : State) (ctx lslot : Nat) (q : Word) : Bool :=
  let live (t : TaskRef) : Bool := t.ctx == ctx && t.lslot == lslot && !isSupPath t.path && descends t.path q
  s.cores.any (fun e =>
    (upFrom 0 8).any (fun n =>
      let m := e.2.slot n
      m.task.any (fun t => live t.ref && m.runs t.ref))
    || e.2.queues.any (fun a => a.tasks.any (fun p => live ⟨a.ctx, a.lslot, p⟩))
    || e.2.saved.any (fun v => v.2.slots.any (fun x => x.slot.task.any (fun t => live t.ref && x.slot.runs t.ref))
        || v.2.waiting.any (fun a => a.tasks.any (fun p => live ⟨a.ctx, a.lslot, p⟩))))

/-- R131: whether the exit of some level-0 group of a task's root is still to be acknowledged: that of a fork child which was
started again as a group of its own. -/
def State.rootExiting (s : State) (t : TaskRef) : Bool :=
  (s.launch t.ctx t.lslot).any (fun l => l.exiting.any (fun e => e.1 == mkRef t.ctx t.lslot 0 (rootOf t.path)))

/-- R131, R373: JOIN. -/
def execJoin (h : Hdr) (a b c : Reg) (s : State) : Host.Outcome State Fault Refusal :=
  issue s (Info.synch h.s (lenP h.rgx 0) [codeG b, codeG c] [codeG a] true 0x602 [s.g b, s.g c]) none (fun s =>
    let mask := (s.g b).toNat
    let kids := s.me.children
    let named := (upFrom 0 16).filter (fun i => mask / 2 ^ i % 2 == 1)
    let top := (named.getLast?).getD 0
    if mask = 0 || 2 ^ 16 ≤ mask || kids.length ≤ top then .trap .illegal (s.g b)
    else match (if c = 0 then .ok 0 else s.ownTarget (s.g c) 8 (8 * (top + 1))) with
      | .error (c, v) => .trap c v
      | .ok off =>
        let kid (i : Nat) : Child := (kids[i]?).getD ⟨0, false, false, 0, []⟩
        let (ctx, ls) := match s.me.task with | some t => (t.ref.ctx, t.ref.lslot) | none => (0, 0)
        if !named.all (fun i => (kid i).done && !s.descendantLives ctx ls (kid i).path) || s.me.task.any (fun t => s.rootExiting t.ref)
        then .park Wait.poll s
        else
          let mask_ (p : Child → Bool) : Nat := ((named.filter (fun i => p (kid i))).map (2 ^ ·)).foldl (· + ·) 0
          let s := if c = 0 then s else named.foldl (fun s i =>
            s.write (cellsOf (s.ownKey spLM (off + 8 * i)) (toBytes (kid i).g2.toNat 8))) s
          let s := s.modMe (fun m => { m with cover := named.foldl (fun u i => setUnion u (kid i).cover) m.cover })
          .done (s.addRet (Ret.plain (codeG a)
            (w64 (mask_ (fun k => !k.killed) + 2 ^ 16 * mask_ (·.killed))))))

-- kills and restarts

/-- R146: a KILLED message. -/
def killedMsg (k : KillNote) : Msg :=
  ⟨w64 (0x24 + 2 ^ 16 * k.cause.toNat + 2 ^ 24 * k.slot + 2 ^ 32 * k.core.toNat + 2 ^ 48 * k.task.ref.lslot
      + 2 ^ 56 * (k.causing.toNat + 2 * k.task.restart.toNat)),
    k.xpc, if k.task.sup then 0 else k.task.ref.path, k.xval⟩

/-- R131, R145: whether every SYE has acknowledged the exits that the kills of a core began. A group that a restart has given
a new generation before its EXIT went out exits no more. -/
def State.killReady (s : State) (core : Nat) : Bool :=
  (s.core core).kills.all (fun k => match s.launch k.task.ref.ctx k.task.ref.lslot with
    | none => true
    | some l => k.refs.all (fun r => l.reported.contains r
        || (l.groupGen r.1 != r.2 && !l.exiting.any (fun e => e.1 == r.1 && e.2.1 == r.2))))

/-- R145 step 7: the first killed task of the core whose exits are acknowledged is reported, to its die's supervisor
or, where the launch has none there that runs, by a fault record. -/
def execKilledReport (core : Nat) (s : State) : Host.Outcome State Fault Refusal :=
  match (if s.killReady core then (s.core core).kills.head? else none) with
  | none => .next s
  | some k =>
    let s := s.modCore core (fun c => { c with kills := c.kills.erase k })
    let ctx := k.task.ref.ctx
    let ls := k.task.ref.lslot
    let die := (s.ctx ctx).logDie (core / 1024)
    let live := match s.launch ctx ls with
      | some l => (match tfind l.sups die with | some p => !p.ended | none => false)
      | none => false
    if live then .next (s.post (.inboxDeliver none (.supervisor ctx ls die) (killedMsg k)))
    else .next (s.faultRecord 6 k.cause.toNat ctx k.core.toNat k.slot ls k.xpc
      (if k.task.sup then 0 else k.task.ref.path) k.xval)

/-- R387, R147: the last kill of a path that has not been restarted. -/
def Launch.killOf (l : Launch) (path : Word) : Option (Word × Nat × Bool × Job) :=
  l.killed.reverse.find? (fun k => k.1 == path && !k.2.2.1)

/-- R147: a new generation of a root's level-0 group with one task; the tasks of the present one, if any live, become a
former one. -/
def Launch.renew (l : Launch) (root : Nat) : Launch :=
  let n := l.livingIn root (l.genOf root)
  { l with
    live := tset l.live root (if l.exited.contains root then 1 else tget l.live 1 root + 1)
    exited := setErase l.exited root
    gens := tset l.gens root (l.genOf root + 1)
    former := if n = 0 || l.exited.contains root then l.former else l.former ++ [(root, l.genOf root, n)] }

/-- R147: a killed task placed again, as a new level-0 group that holds nothing. What a group of its root that still lives
holds stays with that one. -/
def State.restartTask (s : State) (ctx lslot core : Nat) (k : Word × Nat × Bool × Job) : State :=
  match s.launch ctx lslot with
  | none => s
  | some l =>
    let l := { l.renew (rootOf k.1) with
      killed := l.killed.map (fun x => if x == k then (k.1, k.2.1, true, k.2.2.2) else x) }
    (s.modLaunch ctx lslot (fun _ => l)).place core ctx lslot (k.2.2.2.anew (l.genOf (rootOf k.1)))

/-- R387. A JOIN that has not returned waits for the restarted task (R373). -/
def State.unKill (s : State) (ctx lslot : Nat) (path : Word) : State :=
  let unmark (m : Slot) : Slot :=
    if m.task.any (fun t => t.ref.ctx == ctx && t.ref.lslot == lslot) then
      { m with children := m.children.map (fun (k : Child) =>
          if k.path == path && k.killed then { k with done := false, killed := false } else k) }
    else m
  { s with cores := tmap (fun _ c => { c with
      slots := c.slots.map unmark
      saved := tmap (fun _ (v : Saved) => { v with
        slots := v.slots.map (fun (x : SavedSlot) => { x with slot := unmark x.slot }) }) c.saved }) s.cores }

def execTctl (h : Hdr) (a b c : Reg) (s : State) : Host.Outcome State Fault Refusal :=
  let w := (Instr.firstWord (.tctl h a b c)).setWidth 64
  issue s (Info.synch h.s (lenP h.rgx 0) [codeG b, codeG c] [codeG a] true 0x60D [s.g b, s.g c])
    (if s.me.readable c && 2 ^ 8 ≤ (s.g c).toNat then some (.illegal, s.g c) else if !s.me.arch.sup then some (.priv, w) else none)
    (fun s =>
      let ctx := s.myCtx
      let ls := (s.g c).toNat
      let answer (s : State) (code : Nat) : Res := .done (s.addRet (Ret.plain (codeG a) (w64 code)))
      match s.launch ctx ls with
        | none => answer s 4
        | some l => match l.killOf (s.g b) with
          | none => answer s 1
          | some k =>
            if !l.restart then answer s 2
            else
              let l12 := ((s.ctx ctx).logical k.2.1).getD k.2.1
              let cores := ((s.levelOne ctx l12 l).filterMap (s.ctx ctx).phys).filter (fun p => (s.sealOf p ctx).isNone)
              match s.leastLoaded ctx cores with
              | none => answer s 3
              | some core => answer ((s.restartTask ctx ls core k).unKill ctx ls k.1) 0)

-- FINJ (R388)

/-- R388: the register codes whose parity FINJ may invert (R105). -/
def finjCode (n : Nat) : Bool := n != 0 && (n < 64 || (96 ≤ n && n < 100))

def execFinj (h : Hdr) (a : Reg) (reg : Bool) (s : State) : Host.Outcome State Fault Refusal :=
  let w := (Instr.firstWord (.finj h a reg)).setWidth 64
  issue s (Info.synch h.s (lenP h.rgx 0) [codeG a] [] false 0x60E [s.g a, w64 reg.toNat])
    (if s.me.readable a && reg && (wbits (s.g a) 63 10 ≠ 0 || !finjCode (wbits (s.g a) 6 0)) then some (.illegal, s.g a)
      else if !s.me.arch.sup then some (.priv, w) else none)
    (fun s =>
      let v := s.g a
      if !reg then .done (s.modCore s.cur.core (fun c => c.writeFinj v))
      else
        let code := wbits v 6 0
        let i : SlotId := ⟨s.cur.core, wbits v 9 7⟩
        .done (s.modSlot i (fun m => { m with
          parity := if m.parity.contains code then m.parity.filter (· != code) else m.parity ++ [code] })))

end Sys2Proof.Machine
end

