-- ==== Sys2Proof/Machine/Fabric.lean ====
section
/-!
DEFINITION. Edyth as it arrives: links and flits (R25 to R28), forwarding (R31, R32), the receiving end of a flow
(R30, R35, R36, R39), each packet type at its destination (R30, R44 to R50), acknowledgement and replay (R34 to R37),
a flow's failure and reset (R41), and the port counters (R53).
-/
namespace Sys2Proof.Machine

-- event codes (R73) of the I/O die

def evLINKDOWN : Nat := 0x02
def evLINKWIDTH : Nat := 0x03
def evMALFORMED : Nat := 0x04
def evFLOWFAIL : Nat := 0x05

/-- Nominal cycles of a microsecond. -/
def usec : Nat := 1300

-- links (R25 to R27)

/-- R25: the next lower width; none below 2 lanes. -/
def lowerWidth (n : Nat) : Option Nat :=
  match n with
  | 8 => some 4
  | 4 => some 2
  | _ => none

/-- R25, R76: the lanes of a port that have neither failed nor a predictive-failure mark. -/
def State.usableLanes (s : State) (port : Nat) : Nat :=
  ((upFrom 0 8).filter (fun l => !(s.port port).badLanes.contains l && !s.hf.marks.contains (.lane port l))).length

/-- R25: the widths of a link. -/
def widestOf (limit usable : Nat) : Option Nat := [8, 4, 2].find? (fun w => w ≤ limit && w ≤ usable)

/-- R25: a lane fails, numbered 8 times its port plus its number there: the link retrains at the next lower width, or goes
down. The spec does not say which lanes a narrower link uses: any lane's failure steps the width down, and at width 2 takes the
link down (notes/assumptions/15.md). -/
def execLaneFailure (n : Nat) (s : State) : Host.Outcome State Fault Refusal :=
  let port := n / 8
  let lane := n % 8
  let p := s.port port
  if !p.up || p.badLanes.contains lane then .next s
  else
    let p := { p with badLanes := p.badLanes ++ [lane] }
    match lowerWidth p.lanes with
    | some n => .next ((s.setPort port { p with lanes := n, training := true, trainFrom := s.now }).logEvent evLINKWIDTH 4 noCtx port n)
    | none => .next ((s.setPort port p).post (.linkDown port))

/-- R25, R75: the retrain ends; failed and marked lanes are left out, and the link resumes. -/
def execLinkRetrainDone (port : Nat) (s : State) : Host.Outcome State Fault Refusal :=
  let p := s.port port
  if !p.up || !p.training then .next s
  else
    match widestOf p.lanes (s.usableLanes port) with
    | some w => .next (State.pump (s.setPort port { p with lanes := w, training := false }) (s.transit.length))
    | none => .next ((s.setPort port { p with training := false }).post (.linkDown port))

/-- R37: a replay wanted: the one advance of a flow at T = MAX(now, LASTADV + 64 µs); triggers before T merge. -/
def FlowSrc.want (f : FlowSrc) (now : Nat) : FlowSrc :=
  if f.failed || f.wanted.isSome then f
  else { f with wanted := some (if f.lastAdv = 0 then now else max now (f.lastAdv + 64 * usec)) }

/-- R25, R37: a link goes down: its flits and the packets that wait for it are lost, and every flow that routes through
it by a valid entry is told. -/
def execLinkDown (port : Nat) (s : State) : Host.Outcome State Fault Refusal :=
  let p := s.port port
  if !p.up then .next s
  else
    let lost := s.transit.filter (fun t => t.port == port)
    let s := s.setPort port { p with
      up := false, training := false, replay := [], partialIn := [], heads := [], fails := 0, ackOut := none, nakOut := none }
    let s := { s with transit := s.transit.filter (fun t => t.port != port) }
    let s := lost.foldl (fun s _ => s.countPort port ctRESDROP) s
    let s := s.logEvent evLINKDOWN 4 noCtx port 0
    .next { s with flowsOut := tmap (fun k (f : FlowSrc) =>
      if (s.route (k / 4) f.rsel.toNat).2 && (s.route (k / 4) f.rsel.toNat).1.toNat == port then f.want s.now else f) s.flowsOut }

/-- R27: the receiver's acknowledgement of a flit, and of those before it. -/
def ackedFlits (replay : List (BitVec 8 × Flit)) (lseq : BitVec 8) : List (BitVec 8 × Flit) :=
  if replay.any (fun e => e.1 == lseq) then (replay.dropWhile (fun e => e.1 != lseq)).drop 1 else replay

/-- R27, R32: the flits that a link still holds; a packet whose tail has been accepted is resident no longer. -/
def State.setReplay (s : State) (port : Nat) (left : List (BitVec 8 × Flit)) (fails : Nat) : State :=
  let s := s.setPort port { s.port port with replay := left, fails := fails }
  { s with transit := s.transit.filter (fun t => t.port != port || t.tail.all (fun q => left.any (fun e => e.1 == q))) }

def execLinkAck (port : Nat) (lseq : BitVec 8) (s : State) : Host.Outcome State Fault Refusal :=
  let p := s.port port
  if !p.up then .next s
  else .next (State.pump (s.setReplay port (ackedFlits p.replay lseq) 0) s.transit.length)

/-- R27, R25: a NAK: the flits before the named one have arrived, and the sender replays from it. The link goes down when
one flit fails 8 times in a row. -/
def execLinkNak (port : Nat) (lseq : BitVec 8) (s : State) : Host.Outcome State Fault Refusal :=
  let p := s.port port
  if !p.up || !p.replay.any (fun e => e.1 == lseq) then .next s
  else
    let left := p.replay.dropWhile (fun e => e.1 != lseq)
    let again := left.length == p.replay.length
    let fails := if again then p.fails + 1 else 1
    let s := (s.setReplay port left fails).countPort port ctLRETRY
    .next (if 8 ≤ fails then s.post (.linkDown port) else s)

/-- R30, R403: the events by packet type. -/
def packetEvent (port : Nat) (p : Packet) : Option Instr :=
  match p.typ.toNat with
  | 0x01 => some (.put p)
  | 0x02 => some (.packetPutsg p)
  | 0x03 => some (.get p)
  | 0x04 => some (.packetAmo p)
  | 0x05 => some (.packetCas p)
  | 0x06 => some (.packetRed p)
  | 0x07 => some (.packetFamo p)
  | 0x08 => some (.packetFred p)
  | 0x10 => some (.rsp p)
  | 0x11 => some (if p.aux.getLsbD 31 then .nak p else .ack p)
  | 0x12 => some (.flr p)
  | 0x20 => some (.lnch p)
  | 0x21 => some (.rrpt p)
  | 0x30 => some (.rdc port p)
  | 0x31 => some (.rdr p)
  | _ => none

-- the receiving end of a flow (R35, R39)

/-- The first route entry to a package that is valid and whose port is up. -/
def State.openRoute (s : State) (dst : Nat) : Nat :=
  ((upFrom 0 8).find? (fun n => (s.route dst n).2 && (s.port (s.route dst n).1.toNat).up)).getD 0

/-- An unsequenced control packet: ACK, NAK or FLR. The flow's class travels in inline byte 0
(notes/assumptions/10.md). -/
def State.control (s : State) (typ dst cls : Nat) (aux : Nat) (floor : BitVec 24) : State :=
  s.transmit (pktSeal { s.packet typ clCTL dst 0 0 0 aux [BitVec.ofNat 8 cls] [] with
    dctx := 0, floor := floor, rsel := BitVec.ofNat 3 (s.openRoute dst) })

/-- R36, R42, R187: what earlier packets of a flow brought performed. -/
def State.landFlow (s : State) (peer cls : Nat) : State := s.landAll (.flow peer cls)

/-- R35, R36: an ACK or NAK carrying RNEXT. Every packet that it covers has been performed. -/
def State.sendAck (s : State) (peer cls : Nat) (nak : Bool) : State :=
  let s := s.landFlow peer cls
  let f := s.flowIn peer cls
  (s.setFlowIn peer cls { f with unacked := 0 }).control tyACK peer cls (f.rnext.toNat + 2 ^ 31 * nak.toNat) 0

/-- R39: response-cache entries of a flow that a FLOOR has passed are released. -/
def State.releaseCache (s : State) (peer cls : Nat) (floor : BitVec 24) : State :=
  { s with respCache := s.respCache.filter (fun e =>
      !(e.1 / 256 == peer && e.2.2.1.toNat == cls && 0 < (floor - e.2.1).toNat && (floor - e.2.1).toNat ≤ 2 ^ 23)) }

/-- R35: RNEXT advanced over delivered SEQs. -/
def FlowDst.deliver (f : FlowDst) (seq : BitVec 24) (now : Nat) : FlowDst :=
  let above := setInsert f.above seq.toNat
  let next := above.length.repeat (fun n => if above.contains n.toNat then n + 1 else n) f.rnext
  { f with rnext := next, unacked := f.unacked + 1, oldest := if f.unacked = 0 then now else f.oldest
           above := above.filter (fun n => let d := (BitVec.ofNat 24 n - next).toNat; d < 4096) }

/-- R30: whether a packet expects a response. -/
def isReturning (p : Packet) : Bool := p.typ.toNat ≤ 7 && 3 ≤ p.typ.toNat && p.typ.toNat != 6

/-- R28: whether a packet names more bytes, or none, than its type may carry. -/
def badLength (p : Packet) : Bool :=
  (9 < pktFlits p) || ([0x01, 0x02, 0x03].contains p.typ.toNat && (p.aux.toNat = 0 || 512 < p.aux.toNat))

/-- R28, R30: the data flits that a type takes. -/
def expectFlits (p : Packet) : Nat :=
  let blocks (n : Nat) : Nat := ceilDiv (p.addr.toNat % 64 + n) 64
  match p.typ.toNat with
  | 0x01 => 1 + blocks p.aux.toNat
  | 0x02 => 1 + blocks p.aux.toNat
  | 0x10 => pktFlits p
  | 0x20 => 5
  | 0x30 => pktFlits p
  | 0x31 => pktFlits p
  | _ => 1

/-- R403: whether OPC lies outside its type's values. -/
def badOpc (p : Packet) : Bool :=
  match p.typ.toNat with
  | 0x02 => 2 < p.opc.toNat
  | 0x04 => 8 < p.opc.toNat
  | 0x06 => 8 < p.opc.toNat
  | 0x07 => 2 < p.opc.toNat
  | 0x08 => 2 < p.opc.toNat
  | _ => p.opc != 0

/-- R30: whether a sequenced packet is malformed. -/
def malformed (p : Packet) : Bool :=
  (packetEvent 0 p).isNone || p.len.toNat != pktFlits p || pktFlits p != expectFlits p || badLength p || badOpc p || pktCheck p != p.ecrc

/-- R53: the port that a packet came by, and R32: when its head came; those of a packet that no port brought are port 0 and
now (notes/assumptions/11.md). -/
def State.cameBy (s : State) (p : Packet) : Nat × Nat :=
  ((s.arrivals.find? (fun e => e.1 == p)).map Prod.snd).getD (0, s.now)
def State.handled (s : State) (p : Packet) : State :=
  match s.arrivals.find? (fun e => e.1 == p) with
  | some e => { s with arrivals := s.arrivals.erase e }
  | none => s

/-- R35, R36, R39: a sequenced packet arrives: an older generation is stale, a duplicate is acknowledged and its stored
response resent, an ORD or CTL packet out of order is answered by a NAK, and any other is performed. -/
def State.receive (s : State) (p : Packet) (perform : State → State) : State :=
  let peer := p.src.toNat
  let cls := p.cls.toNat
  let port := (s.cameBy p).1
  let s := s.handled p
  let f := s.flowIn peer cls
  if 128 ≤ (p.gen - f.rgen).toNat then s.countPort port ctSTALE
  else
    let f := { f with rgen := p.gen }
    let s := (s.setFlowIn peer cls f).releaseCache peer cls p.floor
    let d := (p.seq - f.rnext).toNat
    let unordered := cls == clUNO || cls == clRSP
    if 2 ^ 24 - 4096 ≤ d || (unordered && f.above.contains p.seq.toNat) then
      let s := (s.countPort port ctDUPDROP).sendAck peer cls false
      match tfind s.respCache (peer * 256 + p.cslot.toNat) with
      | some (q, c, r) =>
        if isReturning p && q == p.seq && c == p.cls then s.issuePacket ⟨r, s.now, false, none, none, 0⟩ else s
      | none => s
    else if !unordered && d != 0 then s.sendAck peer cls true
    else if 4096 ≤ d then s.logEvent evMALFORMED 4 noCtx 0 (p.typ.toNat + 256 * peer)
    else
      let s := (s.landFlow peer cls).setFlowIn peer cls (f.deliver p.seq s.now)
      let s := if malformed p then
          let s := s.logEvent evMALFORMED 4 noCtx 0 (p.typ.toNat + 256 * peer)
          if isReturning p then s.respond p 0 0 0 Config.malformedCause.toNat 0 [] else s
        else perform s
      if 32 ≤ (s.flowIn peer cls).unacked then s.sendAck peer cls false else s

/-- A packet event is enabled for a packet of its type that is addressed to this package. -/
def State.arrives (s : State) (p : Packet) (typ : Nat) : Bool := p.typ.toNat == typ && p.dst == s.pkg

/-- R35: a packet of a type that R30 does not give has no event of its own. -/
def State.deliverPacket (s : State) (port : Nat) (p : Packet) : State :=
  match packetEvent port p with
  | some e => s.post e
  | none => s.receive p id

-- arriving flits and forwarding

/-- R27: the link acknowledgement of a flit that has been accepted; an open NAK is answered by it. -/
def Port.accept (p : Port) (q : BitVec 8) : Port := { p with rxSeq := q + 1, ackOut := some q, nakOut := none }

/-- R27: a NAK that names the expected LSEQ. -/
def Port.askAgain (p : Port) : Port := { p with nakOut := some p.rxSeq }

/-- R27, R28: a flit arrives. One with an LCRC error, and what follows it, is discarded, and a NAK names the flit expected;
one that has been accepted before is acknowledged again; a packet's last flit completes it
(notes/assumptions/15.md). -/
def execFlitReceive (port : Nat) (f : Flit) (s : State) : Host.Outcome State Fault Refusal :=
  let p := s.port port
  let q := flitSeq f
  if !p.up then .next s
  else if !flitOk f then .next ((s.setPort port p.askAgain).countPort port ctCRCERR)
  else if q != p.rxSeq then
    .next (s.setPort port (if 128 ≤ (q - p.rxSeq).toNat then { p with ackOut := some (p.rxSeq - 1) } else p.askAgain))
  else if flitCtl f then .next (s.setPort port (p.accept q))
  else
    let vc := flitVc f
    let got := if flitHead f then [f] else tget p.partialIn [] vc ++ [f]
    let since := if flitHead f then s.now else tget p.heads s.now vc
    let p := p.accept q
    if flitTail f then
      let s := s.setPort port { p with partialIn := tdel p.partialIn vc, heads := tdel p.heads vc }
      match got with
      | h :: rest =>
        let pk := pktParse (h.body.take 32) (h.body.drop 32) (rest.flatMap (·.body))
        let s := { s with arrivals := s.arrivals ++ [(pk, port, since)] }
        .next (if pk.dst == s.pkg then s.deliverPacket port pk else s.post (.packetForward pk))
      | [] => .next s
    else .next (s.setPort port { p with partialIn := tset p.partialIn vc got, heads := tset p.heads vc since })

/-- R31, R32: delivery at the package it names, else forwarding under the hop limit. -/
def execPacketForward (p : Packet) (s : State) : Host.Outcome State Fault Refusal :=
  let (port, since) := s.cameBy p
  if p.dst == s.pkg then .next (s.deliverPacket port p)
  else if p.hops.toNat = 16 then .next ((s.handled p).countPort port ctHOPDROP)
  else .next ((s.handled p).forward port since { p with hops := p.hops + 1 })

/-- R32: the flits of a packet that is discarded while its link holds them give way to idle flits with their LSEQ, so that
the link's sequence stays whole (notes/assumptions/15.md). -/
def Port.discard (p : Port) (t : Transit) : Port :=
  match t.tail with
  | none => p
  | some q => { p with replay := p.replay.map (fun e =>
      if (q - e.1).toNat < pktFlits t.p then (e.1, mkFlit e.1 true (vcOf t.p.cls) false false (List.replicate 64 0)) else e) }

/-- R32: a packet resident for 2 µs is discarded: one that waits at the die, or, numbered behind those, one that has come for
another package and has not been handed on. -/
def execResidencyLimit (index : Nat) (s : State) : Host.Outcome State Fault Refusal :=
  match s.transit[index]? with
  | some t => if t.since + 2 * usec ≤ s.now then
      .next (({ s with transit := s.transit.eraseIdx index }.setPort t.port ((s.port t.port).discard t)).countPort t.port ctRESDROP)
    else .next s
  | none => match s.arrivals[index - s.transit.length]? with
    | some (p, port, since) => if p.dst != s.pkg && since + 2 * usec ≤ s.now then
        .next (({ s with arrivals := s.arrivals.erase (p, port, since)
                         inflight := s.inflight.erase (.packetForward p) } : State).countPort port ctRESDROP)
      else .next s
    | none => .next s

-- requests at their destination

/-- R163: the context that a packet's DCTX names here. -/
def State.ctxOf (s : State) (p : Packet) : Option Nat :=
  (s.ctxs.find? (fun e => e.2.started && e.2.dctx == p.dctx)).map Prod.fst

/-- The writer of an arriving packet, by the mark in its inline field from an offset (notes/assumptions/10.md), and
whether an engine wrote. -/
def remoteAgent (ctx : Nat) (path mark : List Byte) : Agent × Bool :=
  let w := w64 (fromBytes (mark.take 8))
  let l := wbits w 39 32
  (⟨ctx, 0, 0xFF, l, w64 (fromBytes path),
    if w.getLsbD 63 then some (l, wbits w 31 0, w.getLsbD 62, wbits w 41 40) else none⟩, w.getLsbD 61)

/-- R163: the LATE record of a packet whose DCTX names no context. -/
def State.lateUnknown (s : State) (p : Packet) : State :=
  s.faultRecord 2 Cause.coord.code.toNat 0xFF 0 0xFF 0 p.addr 0 (w64 (p.typ.toNat + 256 * p.opc.toNat))

/-- The 8-byte operand at an offset of the inline field. -/
def inlWord (p : Packet) (off : Nat) : Word := w64 (fromBytes ((p.inl.drop off).take 8))

/-- R28: the bytes that a data-carrying packet brings for its address. -/
def pktBytes (p : Packet) (n : Nat) : List Byte := (p.data.drop (p.addr.toNat % 64)).take n

/-- R43, R187: the data goes to its homes in units, each performed by HOME_ACCESS; a flooded context's is dropped (R152). -/
def execPut (p : Packet) (s : State) : Host.Outcome State Fault Refusal :=
  if !s.arrives p tyPUT then .next s
  else .next (s.receive p (fun s => match s.ctxOf p with
    | none => s.lateUnknown p
    | some c =>
      if (s.ctx c).flooded then s else
      let (a, fill) := remoteAgent c ((p.inl.drop 16).take 8) (p.inl.drop 24)
      s.putData a (.flow p.src.toNat p.cls.toNat) p.addr.toNat (pktBytes p p.aux.toNat) tyPUT 0 fill false))

/-- R341, R42, R187: the data in units, and the signal behind them. -/
def execPacketPutsg (p : Packet) (s : State) : Host.Outcome State Fault Refusal :=
  if !s.arrives p tyPUTSG then .next s
  else .next (s.receive p (fun s => match s.ctxOf p with
    | none => s.lateUnknown p
    | some c =>
      if (s.ctx c).flooded then s else
      let (a, fill) := remoteAgent c (List.replicate 8 0) ((p.inl.drop 17).take 8)
      let o : WriteOwner := .flow p.src.toNat p.cls.toNat
      let s := s.putData a o p.addr.toNat (pktBytes p p.aux.toNat) tyPUTSG p.opc.toNat fill false
      s.addSignal o a p.opc.toNat (fromBytes (p.inl.take 8)) (w64 (fromBytes ((p.inl.drop 8).take 8))) []))

/-- R114, R163, R172: a qualified access of another package joins the queue of its granule. Its response leaves once it has
been served (GRANULE_ACCESS). -/
def State.remoteQualified (s : State) (p : Packet) (c : Nat) : State :=
  let ga := p.addr.toNat
  let write := qualBit p 1
  let (a, _) := remoteAgent c ((p.inl.drop 16).take 8) (p.inl.drop 24)
  let no (e : Cause) (v : Word) : State := s.respond p c 0 0 e.code.toNat v []
  if (s.ctx c).flooded then s.respond p c 0 0 0 0 (dataFlits ga (List.replicate p.aux.toNat 0))
  else match s.agentKey c ga write with
    | .error e => no e (homeXval p.addr e)
    | .ok k =>
      if !hasFull k then no .space p.addr
      else if write && !s.agentMay a ga then no .capfault p.addr
      else if (s.core (paCore k)).sealed.isSome then no .qdead (granAddr ga)
      else (s.modCore (paCore k) (fun h => { h with granQ := h.granQ ++
        [⟨unitOf k, ⟨paCore k, 8⟩, k, p.aux.toNat, write, inlWord p 8, qualBit p 3, qualBit p 2, some p, none⟩] })).serve (unitOf k)

/-- R136, R153: a wait of another package withdrawn: its access leaves the queue of its granule and is answered with
WAITLIMIT, unless it has been served. -/
def State.withdraw (s : State) (p : Packet) : State :=
  let mine (w : GranWait) : Bool := w.result.isNone && w.pkt.any (fun q => q.src == p.src && q.cslot == (p.inl[8]?).getD 0)
  match s.cores.findSome? (fun e => (e.2.granQ.find? mine).map (fun w => (e.1, w))) with
  | some (home, w) => (s.modCore home (fun h => { h with granQ := h.granQ.erase w })).granAnswer home w 0 Cause.waitlimit.code
  | none => s

/-- R30, R152, R167: a GET reads at the home and is answered with data or with the fault, and with zeros for a flooded context. -/
def execGet (p : Packet) (s : State) : Host.Outcome State Fault Refusal :=
  if !s.arrives p tyGET then .next s
  else .next (s.receive p (fun s => match s.ctxOf p with
    | none => s.respond p 0 0 0 Cause.coord.code.toNat p.addr []
    | some c =>
      if qualBit p 4 then (s.withdraw p).respond p c 0 0 0 0 []
      else if isQualified p then s.remoteQualified p c
      else if (s.ctx c).flooded then s.respond p c 0 0 0 0 (dataFlits p.addr.toNat (List.replicate p.aux.toNat 0))
      else match s.agentRead c p.addr.toNat p.aux.toNat with
      | .ok bs => s.respond p c 0 0 0 0 (dataFlits p.addr.toNat bs)
      | .error (e, at_) => s.respond p c 0 0 e.code.toNat (homeXval (w64 at_) e) []))

/-- R36, R163, R167: an atomic or reduction that arrived as a packet. A contribution that joins a round counts as performed
(notes/assumptions/37.md). -/
def State.remoteAtomic (s : State) (p : Packet) (op : AtomOp) : State :=
  let ret := isReturning p
  match s.ctxOf p with
  | none => if ret then s.respond p 0 0 0 Cause.coord.code.toNat p.addr [] else s.lateUnknown p
  | some c =>
    let (a, _) := remoteAgent c ((p.inl.drop 16).take 8) (p.inl.drop 24)
    let ga := p.addr.toNat
    let who : Contribution := ⟨.packet p, 0, p.addr, 0, 0, c, 0, 0xFF, a.lslot, a.path⟩
    let fail (s : State) (e : Cause) : State :=
      if ret then s.respond p c 0 0 e.code.toNat (homeXval p.addr e) []
      else s.agentRecord a 2 e.code.toNat p.addr (w64 (p.typ.toNat + 256 * p.opc.toNat))
    if (s.ctx c).flooded then (if ret then s.respond p c 0 0 0 0 [] else s)
    else if gaPkg ga != s.pkg.toNat || !s.coordOk c ga then fail s .coord
    else match s.atomic c ga op (s.agentMay a ga) who with
      | (s, .ok old fl) => if ret then s.respond p c old fl 0 0 [] else s
      | (_, .bad e) => fail s e
      | (s, .held) => s

def execPacketAmo (p : Packet) (s : State) : Host.Outcome State Fault Refusal :=
  if !s.arrives p tyAMO then .next s
  else .next (s.receive p (fun s => s.remoteAtomic p (.int (p.opc.setWidth 4) (inlWord p 0))))

def execPacketCas (p : Packet) (s : State) : Host.Outcome State Fault Refusal :=
  if !s.arrives p tyCAS then .next s
  else .next (s.receive p (fun s => s.remoteAtomic p (.cas (inlWord p 0) (inlWord p 8))))

def execPacketRed (p : Packet) (s : State) : Host.Outcome State Fault Refusal :=
  if !s.arrives p tyRED then .next s
  else .next (s.receive p (fun s => s.remoteAtomic p (.int (p.opc.setWidth 4) (inlWord p 0))))

def execPacketFamo (p : Packet) (s : State) : Host.Outcome State Fault Refusal :=
  if !s.arrives p tyFAMO then .next s
  else .next (s.receive p (fun s => s.remoteAtomic p (.flt (p.opc.setWidth 2) ((inlWord p 0).setWidth 32))))

def execPacketFred (p : Packet) (s : State) : Host.Outcome State Fault Refusal :=
  if !s.arrives p tyFRED then .next s
  else .next (s.receive p (fun s => s.remoteAtomic p (.flt (p.opc.setWidth 2) ((inlWord p 0).setWidth 32))))

/-- R44. -/
def execLnch (p : Packet) (s : State) : Host.Outcome State Fault Refusal :=
  if !s.arrives p tyLNCH then .next s
  else .next (s.receive p (fun s => s.lnchArrive (s.ctxOf p) p))

/-- R45, R99. -/
def execRrpt (p : Packet) (s : State) : Host.Outcome State Fault Refusal :=
  if !s.arrives p tyRRPT then .next s
  else .next (s.receive p (fun s => s.rrptArrive (s.ctxOf p) p))

/-- R48. -/
def execRdc (port : Nat) (p : Packet) (s : State) : Host.Outcome State Fault Refusal :=
  if !s.arrives p tyRDC then .next s
  else .next (s.receive p (fun s => s.redKid port p))

/-- R50. -/
def execRdr (p : Packet) (s : State) : Host.Outcome State Fault Refusal :=
  if !s.arrives p tyRDR then .next s
  else .next (s.receive p (fun s => s.redDown p))

-- responses at the source (R34, R38)

/-- R33, R34: FLOOR as the lowest SEQ that is held; retired packets leave. -/
def FlowSrc.settle (f : FlowSrc) : FlowSrc :=
  let held := f.held.filter (fun h => !h.retired)
  { f with held := held, floor := match held with | h :: _ => h.p.seq | [] => f.next }

/-- A flow with its retired packets gone, and what it kept back issued. -/
def State.settleFlow (s : State) (dst cls : Nat) (f : FlowSrc) : State := (s.setFlowOut dst cls f.settle).unstallAll

/-- R270: the value of a load from another package: the bytes that came, under the slot's own earlier stores. -/
def Ret.arrived (r : Ret) (p : Packet) : Ret :=
  let raw := (p.data.drop (r.addr.toNat % 64)).take r.size
  let bs := (raw.zipIdx).map (fun e => ((r.own.find? (fun o => o.1 == e.2)).map Prod.snd).getD e.1)
  { r with value := some (extend r.size r.zext (fromBytes bs)), remote := none }

/-- R4, R139, R142, R167: a load whose response is a fault traps at the load: its chunk is cut there, and what the slot did
since has no effect. A chunk does not commit before its loads have returned (R177), so it is always there to be cut. -/
def State.loadFault (s : State) (i : SlotId) (r : Ret) (c : BitVec 8) (xval : Word) : State :=
  match (s.slot i).chunks.find? (fun ch => r.chunk == some ch.no) with
  | some ch => match ch.cuts.find? (fun k => k.key == placeKey r.pos) with
    | some k => (s.cutAt i ch k).takeTrap i (Cause.ofCode c) xval k.arch.pc
    | none => s
  | none => s.modSlot i (fun m => { m with returns := m.returns.erase r })

/-- R138, R359: the answer for a slot of a context that has sent a request, which may be swapped out since. -/
def State.resumeAs (s : State) (i : SlotId) (ctx : Nat) (r : Resume) : State :=
  let give (m : Slot) : Slot := if m.sent then { m with resume := some r } else m
  if s.away i.core ctx then s.modSaved i ctx give else s.modSlot i give

/-- What a response brings to a slot of a context: a load's value, or the answer of an AMO, CAS, FAMO or qualified access. A
wait that a pre-emption has withdrawn is taken up again when the context returns (R155). -/
def State.answerSlot (s : State) (i : SlotId) (ctx n : Nat) (req : Packet) (p : Packet) : State :=
  let m := s.slot i
  let cause := (p.inl[8]?).getD 0
  let xval := inlWord p 16
  if req.typ.toNat = tyGET && !isQualified req then
    match m.returns.find? (fun r => r.remote == some (req.dst.toNat, n)) with
    | none => s
    | some r =>
      if cause != 0 then s.loadFault i r cause xval
      else s.setSlot i { m with returns := m.returns.map (fun x => if x == r then r.arrived p else x) }
  else if qualBit req 4 then s
  else if m.sent && cause = Cause.waitlimit.code && (s.ctx ctx).preempt.isSome && !s.away i.core ctx && !m.overLimit then
    s.setSlot i { m with sent := false }
  else
    let v := inlWord p 0
    let fl := ((p.inl[9]?).getD 0).toNat
    let v := if req.typ.toNat = tyFAMO then w64 (wbits v 31 0 + 2 ^ 32 * fl) else v
    s.resumeAs i ctx (if cause != 0 then ⟨xval, some cause, none, false⟩ else ⟨v, none, none, false⟩)

/-- R339, R342: what a response brings to a copy or GETR that waits for it. A read that a pre-emption has withdrawn is made
again (R155). -/
def CCmd.answer (c : CCmd) (pkg cslot : Nat) (p : Packet) : CCmd :=
  match c.gets.find? (fun g => g.1 == pkg && g.2.1 == cslot) with
  | none => c
  | some g =>
    let c := { c with gets := c.gets.filter (· != g) }
    let cause := (p.inl[8]?).getD 0
    if cause = Cause.waitlimit.code then c
    else if cause != 0 then
      if c.cause != 0 then c
      else { c with cause := cause, faultAddr := inlWord p 16, status := if c.getr then 1 else c.status }
    else
      let ga := g.2.2.1
      let bs := (p.data.drop (ga % 64)).take g.2.2.2
      { c with gathered := c.gathered ++ (bs.zipIdx).map (fun e => (ga + e.2, e.1)) }

/-- R38: a returning slot freed. -/
def State.freeReturning (s : State) (dst n : Nat) : State :=
  { s with retSlots := tset s.retSlots dst (setErase (tget s.retSlots [] dst) n) }

/-- R34, R38: a response retires its request, frees its slot, and is handed to who waits for it. One whose request is
no longer held changes nothing. -/
def State.response (s : State) (p : Packet) : State :=
  let peer := p.src.toNat
  let mine (h : Held) : Bool := isReturning h.p && h.p.cslot == p.cslot && h.p.seq.toNat == p.aux.toNat
  match [clORD, clUNO].findSome? (fun cls => ((s.flowOut peer cls).held.find? mine).map (fun h => (cls, h))) with
  | none => s
  | some (cls, h) =>
    let f := s.flowOut peer cls
    let s := s.freeReturning peer p.cslot.toNat
    let s := (s.settleFlow peer cls { f with held := f.held.erase h, noProg := 0 }).lnchRetry
    match h.who with
    | some (i, n) => s.answerSlot i h.ctx n h.p p
    | none =>
      let s : State := { s with cores := tmap (fun _ (c : Core) => { c with
        copy := c.copy.map (fun (x : CCmd) => x.answer peer p.cslot.toNat p) }) s.cores }
      let bytes := if (p.inl[8]?).getD 0 = 0 then some p.data else none
      (s.wdAnswer peer p.cslot.toNat bytes).lnchAnswer peer p.cslot.toNat bytes

def execRsp (p : Packet) (s : State) : Host.Outcome State Fault Refusal :=
  if !s.arrives p tyRSP then .next s
  else .next (s.receive p (fun s => s.response p))

-- acknowledgement and replay

/-- R34: packets that are not returning and that lie below a SEQ are retired; NOPROG is cleared when the ACK advances. -/
def FlowSrc.ack (f : FlowSrc) (upto : BitVec 24) : FlowSrc :=
  let below (q : BitVec 24) : Bool := let d := (upto - q).toNat; 0 < d && d ≤ 2 ^ 23
  let moved := below f.acked
  { f with
    held := f.held.map (fun h => if !isReturning h.p && below h.p.seq then { h with retired := true } else h)
    acked := if moved then upto else f.acked
    noProg := if moved then 0 else f.noProg }

/-- The class of the flow that an ACK, NAK or FLR is about. -/
def ctlClass (p : Packet) : Nat := ((p.inl[0]?).getD 0).toNat % 4

/-- R34, R35: a cumulative ACK. -/
def execAck (p : Packet) (s : State) : Host.Outcome State Fault Refusal :=
  let s := s.handled p
  if !s.arrives p tyACK || p.aux.getLsbD 31 || malformed p then .next s
  else
    let f := s.flowOut p.src.toNat (ctlClass p)
    if f.failed then .next s else .next (s.settleFlow p.src.toNat (ctlClass p) (f.ack (p.aux.setWidth 24)))

/-- The unretired packets of a flow from a SEQ on sent again under the flow's GEN and RSEL. -/
def State.resend (s : State) (dst cls : Nat) (from_ : BitVec 24) : State :=
  let f := s.flowOut dst cls
  let again (h : Held) : Bool := !h.retired && (h.p.seq - from_).toNat < 2 ^ 23
  let held := f.held.map (fun h => if again h then
    { h with sentAt := s.now, p := pktSeal { h.p with gen := f.gen, rsel := f.rsel, floor := f.floor, hops := 0 } } else h)
  let s := s.setFlowOut dst cls { f with held := held, lastSent := s.now, floorSent := f.floor }
  (held.filter again).foldl (fun s h => s.transmit h.p) s

/-- R35: a NAK makes the source resend from the named SEQ. -/
def execNak (p : Packet) (s : State) : Host.Outcome State Fault Refusal :=
  let s := s.handled p
  if !s.arrives p tyACK || !p.aux.getLsbD 31 || malformed p then .next s
  else
    let dst := p.src.toNat
    let cls := ctlClass p
    let f := s.flowOut dst cls
    let q : BitVec 24 := p.aux.setWidth 24
    if f.failed then .next s else .next ((s.settleFlow dst cls (f.ack q)).resend dst cls q)

/-- R34, R39. -/
def execFlr (p : Packet) (s : State) : Host.Outcome State Fault Refusal :=
  let s := s.handled p
  if !s.arrives p tyFLR || malformed p then .next s
  else .next (s.releaseCache p.src.toNat (ctlClass p) p.floor)

/-- R35: the ACK that is due within 1 µs of a packet's performance. -/
def execAckTimer (src cls : Nat) (s : State) : Host.Outcome State Fault Refusal :=
  if (s.flowIn src cls).unacked = 0 then .next s else .next (s.sendAck src cls false)

/-- R34: whether a flow owes an FLR packet. -/
def State.flrDue (s : State) (f : FlowSrc) : Bool := f.floor != f.floorSent && f.lastSent + 8 * usec ≤ s.now

def execFlrTimer (dst cls : Nat) (s : State) : Host.Outcome State Fault Refusal :=
  let f := s.flowOut dst cls
  if f.failed || !s.flrDue f then .next s
  else .next ((s.setFlowOut dst cls { f with lastSent := s.now, floorSent := f.floor }).control tyFLR dst cls 0 f.floor)

/-- R37: whether a flow's oldest unretired packet was last sent 20 µs ago. -/
def State.replayDue (s : State) (f : FlowSrc) : Bool :=
  !f.failed && f.wanted.isNone && (match f.held with | h :: _ => h.sentAt + 20 * usec ≤ s.now | [] => false)

def execReplayTimeout (dst cls : Nat) (s : State) : Host.Outcome State Fault Refusal :=
  let f := s.flowOut dst cls
  if s.replayDue f then .next (s.setFlowOut dst cls (f.want s.now)) else .next s

/-- R37: a request from system software. -/
def execReplayRequest (dst cls : Nat) (s : State) : Host.Outcome State Fault Refusal :=
  .next (s.setFlowOut dst cls ((s.flowOut dst cls).want s.now))

/-- R37: the next selector after RSEL whose entry is valid and whose port is up; where none is, the present one stays
(notes/assumptions/37.md). -/
def State.nextSelector (s : State) (dst : Nat) (rsel : BitVec 3) : BitVec 3 :=
  match ((upFrom 1 8).map (fun n => (rsel.toNat + n) % 8)).find? (fun n =>
      (s.route dst n).2 && (s.port (s.route dst n).1.toNat).up) with
  | some n => BitVec.ofNat 3 n
  | none => rsel

/-- R41: an unretired operation of a failed flow ends UNREACHABLE: a slot that waits for its response traps with FENCED,
an engine that waits for it stops, and one that nobody waits for becomes a record. Packets that carry no operation of a
program end without one. -/
def State.unreachable (s : State) (dst : Nat) (h : Held) : State :=
  let waited (id : Nat) : Bool := s.allSlots.any (fun i =>
      (s.slot i).status == .parked && (s.slot i).wait.any (·.release) && (s.slot i).cover.contains id)
    || s.cores.any (fun e => e.2.copy.any (fun c => c.puts.any (·.1 == id)))
  if isReturning h.p then
    match h.who with
    | some (i, n) =>
      let m := s.slot i
      if h.p.typ.toNat = tyGET && !isQualified h.p then
        match m.returns.find? (fun r => r.remote == some (dst, n)) with
        | some r => s.loadFault i r Cause.fenced.code (w64 dst)
        | none => s
      else if qualBit h.p 4 then s else s.resumeAs i h.ctx ⟨w64 dst, some Cause.fenced.code, none, false⟩
    | none =>
      let end_ (x : CCmd) : CCmd := match x.gets.find? (fun g => g.1 == dst && g.2.1 == h.p.cslot.toNat) with
        | some g => { x with gets := [], cause := Cause.fenced.code, faultAddr := w64 g.2.2.1
                             status := if x.getr then 2 else x.status }
        | none => x
      let s : State := { s with cores := tmap (fun _ (c : Core) => { c with copy := c.copy.map end_ }) s.cores }
      (s.wdAnswer dst h.p.cslot.toNat none).lnchAnswer dst h.p.cslot.toNat none
  else if h.p.typ.toNat == tyLNCH then
    let lid := field h.p.inl 16 4
    let ctx := lid / 256 % 16
    let mine (t : Target) : Bool := t.pkg == dst && t.first == field h.p.inl 0 8 && t.accepted.isNone
    let s := s.modLaunch ctx (lid % 256) (fun l => { l with
      targets := l.targets.map (fun t => if mine t then { t with accepted := some 0 } else t)
      partialEnd := l.partialEnd || l.targets.any (fun t => mine t && t.offers == 2) })
    s.offerAgain ctx (lid % 256)
  else if h.p.typ.toNat ≤ 8 && !h.write.any waited then
    let mark := if h.p.typ.toNat = tyPUTSG then remoteAgent h.ctx (List.replicate 8 0) ((h.p.inl.drop 17).take 8)
      else remoteAgent h.ctx ((h.p.inl.drop 16).take 8) (h.p.inl.drop 24)
    let a := match h.who with
      | some (i, _) => { mark.1 with
          core := ((s.ctx h.ctx).logical i.core).getD i.core, slot := i.slot }
      | none => mark.1
    s.agentRecord a 3 Cause.fenced.code.toNat h.p.addr 0
  else s

/-- R41: packets of a failed flow end with their operations. -/
def State.endLost (s : State) (dst : Nat) (lost : List Held) : State :=
  let s := lost.foldl (fun s h => if isReturning h.p then s.freeReturning dst h.p.cslot.toNat else s) s
  lost.foldl (fun s h => s.unreachable dst h) s

/-- R41: what came to a flow after it had failed. -/
def State.endStalled (s : State) (dst cls : Nat) : State :=
  let f := s.flowOut dst cls
  (s.setFlowOut dst cls { f with stalled := [], held := f.held ++ f.stalled.filter (fun h => h.write.isSome) }).endLost dst f.stalled

/-- R41, R51: FLOWFAIL. Writes stay held, so that a later release that covers them learns of their loss. -/
def State.flowFail (s : State) (dst cls : Nat) : State :=
  let f := s.flowOut dst cls
  let lost := (f.held ++ f.stalled).filter (fun h => !h.retired)
  let s := s.setFlowOut dst cls { f with
    failed := true, wanted := none, stalled := [], held := lost.filter (fun h => h.write.isSome) }
  let s := s.logEvent evFLOWFAIL 4 noCtx dst (s.pkg.toNat + 256 * dst + 2 ^ 16 * cls)
  let s := s.endLost dst lost
  if cls != clCTL then s
  else (s.groups.map Prod.fst).foldl (fun s g =>
    let c := (s.group g).cfg
    if gVALID c && gOk c && (s.group g).cur.started && (gKids c).any (fun k => (Config.neighbour k).toNat == dst) then
      s.redFail g else s) s

/-- R37: the advance at time T, or the failure of a flow that has made no progress in 8. R41: on a failed flow, the end of
what has come to it since. -/
def execGenerationAdvance (dst cls : Nat) (s : State) : Host.Outcome State Fault Refusal :=
  let f := s.flowOut dst cls
  if f.failed then .next (if f.stalled.isEmpty then s else s.endStalled dst cls) else
  match f.wanted with
  | none => .next s
  | some t =>
    if s.now < t then .next s
    else if f.noProg = 8 then .next (s.flowFail dst cls)
    else
      let s := s.setFlowOut dst cls { f with
        gen := f.gen + 1, lastAdv := s.now, noProg := f.noProg + 1, rsel := s.nextSelector dst f.rsel, wanted := none }
      let port := (s.route dst (s.flowOut dst cls).rsel.toNat).1.toNat
      .next ((s.countPort port ctREPLAY).resend dst cls f.floor)

/-- R41: system software resets one end of a flow here: its source if that has failed, else the receiving end of the
peer's flow. -/
def execFlowReset (peer cls : Nat) (s : State) : Host.Outcome State Fault Refusal :=
  if (s.flowOut peer cls).failed then .next { s with flowsOut := tdel s.flowsOut (flowKey peer cls) }
  else .next { s with
    flowsIn := tdel s.flowsIn (flowKey peer cls)
    respCache := s.respCache.filter (fun e => !(e.1 / 256 == peer && e.2.2.1.toNat == cls)) }

/-- R114: qualified accesses that have arrived at a granule served as far as its bit allows, and the responses to those
of other packages sent. -/
def execGranuleAccess (key : Nat) (s : State) : Host.Outcome State Fault Refusal :=
  let s := s.serve key
  let home := paCore (key * 16)
  let done := (s.core home).granQ.filter (fun w => w.key == key && w.result.isSome)
  let s := s.modCore home (fun c => { c with granQ := c.granQ.filter (fun w => !done.contains w) })
  .next (done.foldl (fun s w => match w.pkt, w.result with
    | some p, some (v, c) => s.respond p ((s.ctxOf p).getD 0) (w64 v) 0 c.toNat (if c = 0 then 0 else granAddr p.addr.toNat)
        (if c = 0 && qualBit p 5 then dataFlits p.addr.toNat (toBytes v p.aux.toNat) else [])
    | _, _ => s) s)

/-- R181, R187, R189, R341: what is on its way arrives at its home. Data of granted commits is written in the order of the
grants, up to the named one; a unit of a write is performed by itself, behind earlier ones of its owner at the same place only;
a signal follows the data of its operation. -/
def execHomeAccess (id : Nat) (s : State) : Host.Outcome State Fault Refusal :=
  if s.homeWrites.any (fun w => w.id == id) then
    let n := (s.homeWrites.takeWhile (fun w => w.id != id)).length + 1
    .next (s.landWrites n)
  else match s.unitWrites.find? (fun u => u.id == id), s.signals.find? (fun e => e.id == id) with
    | some u, _ => .next (if s.unitWrites.any (fun v => v.owner == u.owner && v.id < u.id && (u.last || v.meets u)) || s.vecOpen u then s
        else s.performUnit u)
    | none, some e => .next (if s.landing e.owner then s else s.giveSignal e)
    | none, none => .next s

/-- R53: a counter read and cleared; its value is the answer. -/
def execCounterReadClear (port idx : Nat) (s : State) : Host.Outcome State Fault Refusal :=
  let p := s.port port
  let v := (p.counters[idx]?).getD 0
  .next { s.setPort port { p with counters := p.counters.setIfInBounds idx 0 } with
    reply := some (.data (toBytes v.toNat 4) false) }

end Sys2Proof.Machine
end

