-- ==== Sys2Proof/Machine/Hoist.lean ====
section
/-!
DEFINITION. Flooded contexts (R151, R152) and pre-emption: the request, the deadline, Hoist's save and restore (R155 to
R160, R376, R377).
-/
namespace Sys2Proof.Machine

-- flooding

/-- R152 step 1: a slot of a flooded context stops; its chunks never commit. -/
def Slot.flood (m : Slot) : Slot :=
  { m with
    status := match m.status with | .unowned => .unowned | .sealed => .sealed | _ => .stopped
    chunks := [], returns := [], removed := [], pulled := [], wait := none, resume := none, trap := none, plive := none
    lvq := [], cmp := [] }

/-- R151, R152: a context is flooded: its slots stop, nothing of it commits, and writes of it that a BM channel
controller has not performed are dropped. -/
def State.flood (s : State) (ctx : Nat) : State :=
  if !(s.ctx ctx).started || (s.ctx ctx).flooded then s
  else
    let s := s.modCtx ctx (fun c => { c with flooded := true, floodAt := s.now, preempt := none })
    let s := (s.coresOf ctx).foldl (fun s k => s.modCore k (fun c => { c with
      slots := c.slots.map Slot.flood, sfuQ := [], sfuRun := [], granQ := [] })) s
    { s with homeWrites := s.homeWrites.map (fun (w : HomeWrite) =>
        if w.ctx == ctx then { w with cells := s.uncut ctx w.cells } else w) }

/-- R151. -/
def execFloodRequest (ctx : Nat) (s : State) : Host.Outcome State Fault Refusal := .next (s.flood ctx)

/-- R144, R151: a slot consumes an uncorrectable error, which seals its core; one in SY space, in a sync variable, an estate
entry or a dealing table (notes/assumptions/40.md), floods the context. -/
def execUncorr (i : SlotId) (place : Word) (s : State) : Host.Outcome State Fault Refusal :=
  if gaSpace place.toNat == spSY then .next (s.flood (s.core i.core).tenant.toNat)
  else .next (s.seal i.core Cause.uncorr.code (some i.slot) (s.slot i).arch.pc place)

/-- R187, R189: whether a write or a signal of a context is on its way. -/
def State.ctxLanding (s : State) (ctx : Nat) : Bool :=
  s.homeWrites.any (fun w => w.ctx == ctx) || s.unitWrites.any (fun u => u.ctx == ctx) || s.signals.any (fun e => e.agent.ctx == ctx)

/-- R152: whether packets of a context await their acknowledgement or response. -/
def State.ctxPackets (s : State) (ctx : Nat) : Bool :=
  s.flowsOut.any (fun e => !e.2.failed && (e.2.held ++ e.2.stalled).any (fun h => h.ctx == ctx && !h.retired && (s.ctx ctx).started))

/-- R152 step 3: whether no unit has a request of the context outstanding. -/
def State.drained (s : State) (ctx : Nat) : Bool :=
  (s.coresOf ctx).all (fun k =>
    let c := s.core k
    c.copy.isEmpty && c.vec.isEmpty && c.tens.isEmpty)
  && !s.ctxLanding ctx && !s.ctxPackets ctx
  && !s.dies.any (fun d => d.2.jig.any (fun j => j.ctx == ctx))
/-- R152: the flood ends when all is drained, or 100 µs after it. -/
def State.floodOver (s : State) (ctx : Nat) : Bool :=
  (s.ctx ctx).flooded && (s.drained ctx || (s.ctx ctx).floodAt + 100 * usec ≤ s.now)

/-- R137, R152 step 4: a holding of the context freed, with a HEIRLESS record in the tailings log. Its variable is left as
R134 leaves that of a holding without an heir. -/
def State.tearHolding (s : State) (ctx die idx : Nat) : State :=
  let e := s.entry die idx
  let v : VarId := ⟨die, gaOff e.hid.toNat / 16⟩
  let s := match e.kind.toNat with
    | 1 => s.setMode v (.lock .poisoned false [])
    | 3 => s.setMode v (.promise .broken)
    | _ => s
  (s.freeEntry die idx).faultRecord 5 0 ctx 0 0xFF (refLslot e.holder) 0 0 e.hid

/-- The places of a context's slots in every queue removed, and its held contributions. -/
def Mode.forget (m : Mode) (ctx : Nat) (mine : SlotId → Bool) : Mode :=
  match m with
  | .lock st h q => .lock st h (q.filter (fun e => !mine e.1))
  | .barrier c a p l ms ws => .barrier c a p l (ms.filter (fun t => t.ctx != ctx)) (ws.filter (fun e => !mine e.1))
  | .reduce c r l held since => .reduce c r l (held.filter (fun h => h.ctx != ctx)) since
  | m => m

/-- R145, R152: a core of a context that is torn down. -/
def Core.tear (c : Core) : Core :=
  { c with
    slots := c.slots.map (fun _ => Slot.reset), inbox := [], niWait := [], sfuQ := [], sfuRun := [], tens := [], checks := []
    vec := [], copy := [], early := [], sealed := none, kills := [], queues := [], roundDue := false, ended := []
    assay := [], merging := [], granQ := [], role := 0, param := 0, recast := false }

/-- R152 step 5: the completion words of the running launches, by untagged writes. -/
def State.floodWords (s : State) (ctx : Nat) : State :=
  (s.ctx ctx).launches.foldl (fun s l =>
    if l.2.remoteFrom.isSome then s else s.writeCw ctx (field l.2.record 0x78 8) 5 l.2.tasks l.1) s

/-- R152, R78, R137: teardown. -/
def State.tearDown (s : State) (ctx : Nat) : State :=
  let mine := s.coresOf ctx
  let own (i : SlotId) : Bool := mine.contains i.core
  let s := s.modCtx ctx (fun c => { c with started := false })
  let held := s.dies.flatMap (fun d => (d.2.estates.filter (fun e =>
    e.2.kind != 0 && refCtx e.2.holder == ctx)).map (fun e => (d.1, e.1)))
  let s := held.foldl (fun s e => s.tearHolding ctx e.1 e.2) s
  let s := s.floodWords ctx
  let s := { s with
    dies := tmap (fun _ (d : Die) => { d with
      kept := d.kept.filter (fun e => e.1 != ctx), sync := tmap (fun _ (m : Mode) => m.forget ctx own) d.sync
      mail := d.mail.filter (fun e => e.2.ctx != ctx), jig := d.jig.filter (fun j => j.ctx != ctx)
      pwait := d.pwait.filter (fun w => !own w.1), capWait := d.capWait.filter (fun w => !own w.1) }) s.dies
    cores := tmap (fun k (c : Core) =>
      let t := if mine.contains k then c.tear else c
      { t with saved := tdel t.saved ctx, holders := t.holders.filter (fun h => h.ctx != ctx)
               granQ := t.granQ.filter (fun w => !own w.who), assay := c.assay, merging := c.merging }) s.cores
    supWaiting := s.supWaiting.filter (fun w => w.1 != ctx)
    homeWrites := s.homeWrites.filter (fun w => w.ctx != ctx || !w.cells.isEmpty)
    unitWrites := s.unitWrites.filter (fun u => u.ctx != ctx), signals := s.signals.filter (fun e => e.agent.ctx != ctx)
    lnchWaits := s.lnchWaits.filter (fun w => w.ctx != ctx), wdReads := s.wdReads.filter (fun w => w.ctx != ctx) }
  ({ s with fresh := s.fresh + 1 } : State).modCtx ctx (fun c => { c with
    flooded := false, win := [], cte := [], launches := [], key := Config.randomKey s.fresh, preempt := none, saveOff := 0
    queues := tmap (fun _ (q : Queue) => { q with packet := none }) c.queues })

def execFloodEnd (ctx : Nat) (s : State) : Host.Outcome State Fault Refusal :=
  if s.floodOver ctx then .next (s.tearDown ctx) else .next s

-- stopping (R154, R155)

/-- R359: whether a slot's FAMO waits in an open round. -/
def State.inRound (s : State) (i : SlotId) : Bool :=
  s.dies.any (fun d => d.2.sync.any (fun m => match m.2 with
    | .reduce _ _ _ held _ => held.any (fun c => match c.who with | .slot j _ => j == i | .packet _ => false)
    | _ => false))

/-- R123, R377: whether a slot is where its pair can stop: a leading thread at an instruction boundary that the trailing one
has not passed, for an effect that it has not performed is matched again, and a trailing thread where the stopped leading one
is. A slot without a partner stops anywhere. -/
def State.pairCanStop (s : State) (i : SlotId) : Bool :=
  match s.partner i with
  | none => true
  | some j =>
    let m := s.slot i
    let o := s.slot j
    if m.task.any (·.trailing) then o.status == .stopped && m.issued == o.issued && o.lvq.isEmpty && o.cmp.isEmpty
    else o.issued ≤ m.issued

/-- R377: whether a trailing thread is past its leading one, which comes to the same boundary to stop. -/
def State.runsAhead (s : State) (i : SlotId) : Bool :=
  let m := s.slot i
  m.task.any (·.trailing) && (s.partner i).any (fun j => (s.slot j).status != .stopped && (s.slot j).issued < m.issued)
/-- Whether a trailing thread's leading one has stopped. -/
def State.leadStopped (s : State) (i : SlotId) : Bool :=
  (s.slot i).task.any (·.trailing) && (s.partner i).any (fun j => (s.slot j).status == .stopped)

/-- R359: whether a slot awaits the result of a FAMO of another package, which may be in a round there. -/
def State.famoOut (s : State) (i : SlotId) : Bool :=
  s.flowsOut.any (fun e => (e.2.held ++ e.2.stalled).any (fun h =>
    !h.retired && h.p.typ.toNat == tyFAMO && h.who.any (fun w => w.1 == i)))

/-- R155: whether a parked slot can stop where it is: its wait is not over, and nothing that it has sent is on its way. A
FAMO in a round, or sent to another package, stays outstanding (R359). -/
def State.parkedStops (s : State) (i : SlotId) : Bool :=
  let m := s.slot i
  m.status == .parked && m.resume.isNone && (!m.sent || s.inRound i || s.famoOut i) && s.pairCanStop i

/-- R120, R142, R155: a slot stops at an instruction boundary: its chunk is cut, its SFU requests leave the queue, and a
wait leaves its queue. -/
def State.stopSlot (s : State) (i : SlotId) : State :=
  let before := (s.slot i).taken
  let s := (s.leaveQueues i).pullSfu i
  s.modSlot i (fun m => { m.closeChunk with
    status := .stopped, wait := none, queued := false, plive := none
    taken := before, pulled := m.pulled ++ m.taken.drop before.length
    cmp := m.cmp.filter (fun e => e.op == 0) })

/-- R155: a pre-emption is asked for, and parked slots stop at once. One whose access has gone to another package stops once
it is withdrawn there. -/
def execPreemptRequest (ctx : Nat) (s : State) : Host.Outcome State Fault Refusal :=
  let c := s.ctx ctx
  if !c.started || c.flooded || c.preempt.isSome || (s.coresOf ctx).isEmpty then .next s
  else
    let s := s.modCtx ctx (fun c => { c with preempt := some s.now })
    let s := (s.coresOf ctx).foldl (fun s k => s.modCore k (fun c => { c with preemptFrom := c.ncyc })) s
    let slots := (s.coresOf ctx).flatMap (fun k => (upFrom 0 8).map (fun n => (⟨k, n⟩ : SlotId)))
    let far := slots.filter (fun i => (s.slot i).status == .parked && (s.slot i).sent && (s.slot i).resume.isNone)
    .next (far.foldl State.withdrawFar ((slots.filter s.parkedStops).foldl State.stopSlot s))

/-- R155, R2: whether a pending pre-emption stops a slot here: at once where it is parked, else once PREEMPTDL nominal cycles
of its NCYC have passed since the request; the threads of a pair stop at one boundary (R377). -/
def State.deadlineDue (s : State) (i : SlotId) : Bool :=
  let c := s.core i.core
  (s.ctx c.tenant.toNat).preempt.isSome && !s.away i.core c.tenant.toNat
    && (s.parkedStops i || ((s.slot i).status == .ready && (s.slot i).resume.isNone
      && (let late := c.preemptdl.toNat ≤ (c.ncyc - c.preemptFrom).toNat
          (s.pairCanStop i && (late || s.leadStopped i)) || (late && s.runsAhead i))))

/-- R155: the slot stops; one that waits for another package is withdrawn there first. -/
def execPreemptDeadline (i : SlotId) (s : State) : Host.Outcome State Fault Refusal :=
  if s.deadlineDue i then .next (s.stopSlot i)
  else if (s.ctx (s.core i.core).tenant.toNat).preempt.isSome && !s.away i.core (s.core i.core).tenant.toNat
      && (s.slot i).status == .parked && (s.slot i).sent && (s.slot i).resume.isNone then .next (s.withdrawFar i)
  else .next s

-- saving (R155 to R158)

/-- R376, R377: the live sets of a slot that stopped at a PLIVE: its g and f masks and its ranges, or none where the entry
cannot be used and the save is as after the deadline. -/
def State.liveSets (s : State) (i : SlotId) : Option (Nat × Nat × List (Nat × Nat × Nat)) :=
  let m := s.slot i
  match m.plive, m.task with
  | some imm, some t =>
    let ctx := t.ref.ctx
    let at_ (n : Int) : Nat := gaSum t.kcb.toNat (t.zlive + 64 * n)
    match s.agentRead ctx (at_ 0) 64 with
    | .error _ => none
    | .ok e0 =>
      let sidx0 := field e0 12 4
      if t.zlive = 0 || imm < sidx0 then none
      else match s.agentRead ctx (at_ ((imm : Int) - sidx0)) 64 with
        | .error _ => none
        | .ok e =>
          let n := byteAt e 8
          let size (sp : Nat) : Nat :=
            match sp with
            | 1 => t.lmb
            | 2 => t.abb
            | 3 => t.wbb
            | _ => t.cbb
          let rs := (upFrom 0 n).map (fun k =>
            let w := field e (16 + 8 * k) 8
            (bits w 2 0, bits w 27 8, bits w 51 32))
          if field e 12 4 != imm || !zeroBytes e 9 3 || 6 < n
              || rs.any (fun r => r.1 = 0 || 4 < r.1 || size r.1 < r.2.1 + r.2.2) then none
          else some (field e 0 4, field e 4 4, rs.map (fun r => (r.1, t.lead * size r.1 + r.2.1, r.2.2)))
  | _, _ => none

/-- R377: the slot whose state is saved for a slot: a trailing thread's leading one, else itself. -/
def State.leadOf (s : State) (i : SlotId) : SlotId :=
  if (s.slot i).task.any (·.trailing) then (s.partner i).getD i else i

/-- R377: a trailing thread with the state of its leading one; its task, endpoints and bookkeeping are its own. -/
def Slot.likeLead (m lead : Slot) (slot : Nat) : Slot :=
  let mine (r : SfuReq) : SfuReq := { r with slot := slot }
  { m with arch := lead.arch, mstat := lead.mstat, scale := lead.scale, checkOn := lead.checkOn, outl := lead.outl
           supBefore := lead.supBefore, removed := lead.removed.map mine, pulled := lead.pulled.map mine }

/-- R156, R377: a slot as it is saved. -/
def State.savedSlot (s : State) (i : SlotId) : SavedSlot :=
  let lead := s.leadOf i
  let m := if lead = i then s.slot i else (s.slot i).likeLead (s.slot lead) i.slot
  match s.liveSets lead with
  | some (g, f, _) => ⟨m, g, f, false⟩
  | none => ⟨m, 0, 0, m.task.isSome⟩

/-- R156: the byte ranges of the typed buffers that a save keeps: the live ranges, or everything once some slot is not at
a liveness point. -/
def State.savedRanges (s : State) (core : Nat) : List (Nat × Nat × Nat) :=
  let slots := (upFrom 0 8).map (fun n => (⟨core, n⟩ : SlotId))
  if slots.any (fun i => (s.savedSlot i).full) then [1, 2, 3, 4].map (fun sp => (sp, 0, bufSize sp))
  else slots.flatMap (fun i => match s.liveSets i with
    | some (_, _, rs) => rs.filter (fun r => r.2.2 != 0)
    | none => [])

/-- Granted commits performed at every home (R181). -/
def State.drainAll (s : State) : State :=
  { s with mem := s.homeWrites.foldl (fun m w => memSetAll m w.cells) s.mem, homeWrites := [] }

/-- Whether a channel message on its way touches a core. -/
def touches (core : Nat) (i : Instr) : Bool :=
  match i with
  | .channelWordArrive ⟨e, f⟩ _ _ => e.core == core || f.core == core
  | .grantArrive ⟨e, f⟩ _ _ => e.core == core || f.core == core
  | .allowanceReturn ⟨e, f⟩ _ _ => e.core == core || f.core == core
  | .revokeArrive ⟨e, f⟩ => e.core == core || f.core == core
  | .recastArrival f t _ => f.core == core || t == core
  | _ => false

/-- R155: whether Hoist can save a core: every slot of the context has stopped with nothing returning and nothing
uncommitted, no channel message of the core and no write of the context is on its way but for the unit that a suspended
vector command adds to, its engines have run to completion but for suspended vector commands and copies at a 64-byte
boundary, and no Jig pass of the context has begun without having ended. -/
def State.saveReady (s : State) (core : Nat) : Bool :=
  let c := s.core core
  let ctx := c.tenant.toNat
  let still (k : Nat) : Bool := (s.core k).stopped
    && (s.core k).slots.all (fun m => m.returns.isEmpty && m.chunks.isEmpty)
  (s.ctx ctx).preempt.isSome && !s.away core ctx && (s.coresOf ctx).all still && !s.inflight.any (touches core)
    && !{ s with unitWrites := s.unitWrites.filter (fun u => !s.vecOpen u) : State }.ctxLanding ctx && c.assay.isEmpty && c.merging.isEmpty && c.tens.isEmpty && c.copy.all (fun k => k.gets.isEmpty && k.gathered.isEmpty)
    && c.vec.all (s.suspended core) && !s.dies.any (fun d => d.2.jig.any (fun j => j.ctx == ctx && j.begun))

/-- The Jig commands that a context has issued at a core. -/
def jigOf (core ctx : Nat) (j : JCmd) : Bool := j.issuer.core == core && j.ctx == ctx

/-- R138: to whom a message that waits in an NI goes once its core is saved. -/
def State.namedDest (s : State) (d : Dest) : Dest :=
  match d with
  | .slot i => match (s.slot i).task with
    | some t => .task t.ref
    | none => d
  | d => d

/-- R156 to R158: a core's context saved: the kept buffer bytes and the header into the save area, the tags of the written
blocks, and the core left empty. -/
def State.hoistSave (s : State) (core : Nat) : State :=
  let ctx := (s.core core).tenant.toNat
  let s := (s.drainAll).modCore core Core.clearOwners
  let c := s.core core
  let ranges := s.savedRanges core
  let kept (sp off : Nat) : Bool := ranges.any (fun r => r.1 == sp && r.2.1 ≤ off && off < r.2.1 + r.2.2)
  let old := s.saKey core ctx 0
  -- the buffers' bytes that are kept; the rest of the area's buffer blocks is zero
  let bytes := s.mem.filterMap (fun e =>
    let sp := paSpace e.1
    if e.1 < 2 ^ 64 && 1 ≤ sp && sp ≤ 4 && paCore e.1 == core && kept sp (paOff e.1) then
      some (old + saBuffer sp + paOff e.1, e.2) else none)
  let header := cellsOf old ((upFrom 0 saHeaderSize).map (fun n => Config.saveHeader s.fresh n))
  let blocks := (ranges.foldl (fun b r =>
    (upFrom ((saBuffer r.1 + r.2.1) / 4096) ((saBuffer r.1 + r.2.1 + r.2.2 - 1) / 4096 + 1 - (saBuffer r.1 + r.2.1) / 4096)).foldl
      setInsert b) [0, 1, 2])
  let v : Saved :=
    { slots := (upFrom 0 8).map (fun n => s.savedSlot ⟨core, n⟩), inbox := c.inbox
      fullBits := s.full.filter (fun g => paCore (16 * g) == core), copies := c.copy, vecs := c.vec, checks := c.checks
      preemptdl := c.preemptdl, recastwait := c.recastwait, seq := tget c.seqs 0 ctx + 1, written := blocks
      appended := [], waiting := c.queues, sealed := c.sealed, role := c.role, param := c.param, recast := c.recast
      units := s.unitWrites.filter (fun u => u.owner.ofCore core), jigs := (s.die (core / 1024)).jig.filter (jigOf core ctx) }
  let again := c.niWait.map (fun e => Instr.inboxDeliver e.1 (s.namedDest e.2.1) e.2.2)
  let s := { s with
    mem := memSetAll (s.mem.filter (fun e => !(old ≤ e.1 && e.1 < old + 4096 * saBlocks))) (header ++ bytes)
    unitWrites := s.unitWrites.filter (fun u => !u.owner.ofCore core)
    fresh := s.fresh + 1 }
  let s := s.modDie (core / 1024) (fun d => { d with jig := d.jig.filter (fun j => !jigOf core ctx j) })
  let s := s.setCore core { c.tear with
    saved := tset c.saved ctx v, seqs := tset c.seqs ctx (tget c.seqs 0 ctx + 1), early := c.early, kills := c.kills }
  let s := blocks.foldl (fun s b => s.writeTag core ctx b) s
  let s := s.postAll again
  if (s.coresOf ctx).isEmpty then s.modCtx ctx (fun c => { c with preempt := none }) else s

def execHoistSave (core : Nat) (s : State) : Host.Outcome State Fault Refusal :=
  if s.saveReady core then .next (s.hoistSave core) else .next s

-- restoring (R156, R158, R160)

/-- R156: a saved slot as it resumes: every register is written, with zero where it was not saved, and its SFU requests come
back with their destinations pending (R120). -/
def SavedSlot.back (v : SavedSlot) : Slot :=
  let m := v.slot
  let keep (mask n : Nat) : Bool := mask / 2 ^ n % 2 == 1
  let zero (r : Arch) : Arch :=
    (upFrom 0 32).foldl (fun r n =>
      let a : Reg := BitVec.ofNat 5 n
      let r := if keep v.gmask n then r else r.setG a 0
      if keep v.fmask n then r else r.setF a 0) r
  { m with
    arch := if v.full || m.task.isNone then m.arch else zero m.arch
    status := match m.status with | .stopped => .ready | st => st
    plive := none, pulled := [], parity := []
    returns := m.returns ++ m.pulled.map (fun r => { Ret.plain (codeF r.dest) 0 with value := none, sfu := true }) }

/-- R156: whether a core is free for a context to be restored. -/
def State.vacant (s : State) (core : Nat) : Bool :=
  let t := (s.core core).tenant.toNat
  !(s.ctx t).started || s.away core t

/-- R156: the saved buffer bytes reloaded, and every other byte of the buffers zero. -/
def State.reloadBuffers (s : State) (core ctx : Nat) (v : Saved) : State :=
  let old := s.saKey core ctx 0
  let inBuffers (k : Nat) : Bool := k < 2 ^ 64 && 1 ≤ paSpace k && paSpace k ≤ 4 && paCore k == core
  let cells := [1, 2, 3, 4].flatMap (fun sp =>
    let a := old + saBuffer sp
    s.mem.filterMap (fun e =>
      if a ≤ e.1 && e.1 < a + bufSize sp && v.written.contains ((e.1 - old) / 4096) then some (pa sp core (e.1 - a), e.2)
      else none))
  { s with mem := memSetAll (s.mem.filter (fun e => !inBuffers e.1)) cells
           full := v.fullBits.foldl setInsert (s.full.filter (fun g => paCore (16 * g) != core)) }

/-- R156, R108, R312: a context back on a core, its suspended vector commands resumed and its Jig commands issued again. -/
def State.install (s : State) (core ctx : Nat) (v : Saved) : State :=
  let slots := v.slots.map SavedSlot.back
  let back := (v.slots.map (fun x => x.slot.pulled.map (fun r => { r with chunk := none }))).flatten
  let first := s.nextWrite
  let s := { s with nextWrite := first + v.units.length
                    unitWrites := s.unitWrites ++ v.units.zipIdx.map (fun (e : UnitWrite × Nat) => { e.1 with id := first + e.2 }) }
  let s := s.modDie (core / 1024) (fun d => { d with jig := d.jig ++ v.jigs })
  s.modCore core (fun c => { c with
    tenant := BitVec.ofNat 4 ctx
    slots := (upFrom 0 8).foldl (fun (a : Vector Slot 8) n => match slots[n]? with
      | some m => a.setIfInBounds n m
      | none => a) (Vector.replicate 8 Slot.reset)
    inbox := v.inbox ++ v.appended.map (fun e => ⟨e.1, msgTo e.2 e.1, false⟩)
    copy := v.copies, vec := v.vecs, vecBusy := c.cyc.toNat
    checks := v.checks, preemptdl := v.preemptdl, recastwait := v.recastwait
    queues := v.waiting, roundDue := true, sealed := v.sealed, role := v.role, param := v.param, recast := v.recast, emptySince := c.cyc.toNat
    sfuQ := c.sfuQ ++ back, saved := tdel c.saved ctx })

/-- R158, R160: the first written block of a save that does not open: an uncorrectable error, or a tag that differs. -/
def State.badBlock (s : State) (core ctx : Nat) (v : Saved) (uncorrectable : Option Nat) : Option Nat :=
  v.written.find? (fun b => uncorrectable == some b || !s.tagOk core ctx b)

/-- R156, R160: a saved context restored on a core that is free; a context that has not run there has nothing to reload. A
block that does not open floods the context. -/
def execHoistRestore (core ctx : Nat) (badBlock : Option Nat) (s : State) : Host.Outcome State Fault Refusal :=
  match tfind (s.core core).saved ctx with
  | none => .next s
  | some v =>
    if !(s.ctx ctx).started || (s.ctx ctx).flooded || (s.ctx ctx).preempt.isSome || !s.vacant core then .next s
    else
      let s := s.drainAll
      if v.slots.isEmpty then .next (s.install core ctx v)
      else match s.badBlock core ctx v badBlock with
        | some b =>
          let l12 := ((s.ctx ctx).logical core).getD core
          .next ((s.faultRecord 4 Config.restoreBadCause.toNat ctx l12 0xFF 0 (w64 (s.saAddr core ctx b)) 0 0).flood ctx)
        | none => .next ((s.reloadBuffers core ctx v).install core ctx v)

end Sys2Proof.Machine
end

