-- ==== Sys2Proof/Machine/Waits.lean ====
section
/-!
DEFINITION. How the restartable waits age (R153): NCYC counted while a slot is parked, except while a party of the
awaited object is halted in debug.
-/
namespace Sys2Proof.Machine

/-- R143: the slots that are halted in debug. -/
def State.haltedSlots (s : State) : List SlotId := s.allSlots.filter (fun j => (s.slot j).status == .halted)

/-- R153: the variable, promise or lock that a slot waits for at an SYE, as the groups and tasks that are its parties. -/
def State.haltedParty (s : State) (i : SlotId) (halted : List SlotId) : Bool :=
  let holder (e : Option (Nat × Estate)) : Bool := e.any (fun e => halted.any (s.holds e.2))
  let isTask (t : TaskRef) : Bool := halted.any (fun j => (s.slot j).task.any (fun u => u.ref == t))
  s.dies.any (fun d =>
    d.2.sync.any (fun m => match m.2 with
      | .lock _ _ q => q.any (fun e => e.1 == i) && holder (s.varEntry ⟨d.1, m.1⟩)
      | .barrier _ _ _ _ ms ws => ws.any (fun e => e.1 == i) && ms.any isTask
      | _ => false)
    || d.2.pwait.any (fun w => w.1 == i && holder (s.varEntry ⟨d.1, w.2⟩))
    || d.2.capWait.any (fun w => w.1 == i && holder (s.objEntry d.1 (s.core i.core).tenant.toNat w.2)))

/-- R153: the slot at the other end of a queue register is halted. -/
def State.haltedPeer (s : State) (i : SlotId) (halted : List SlotId) (q : Nat) : Bool :=
  let b := (s.slot i).qreg q
  (b.kind == 1 || b.kind == 2) && (match s.peerCore (s.core i.core).tenant.toNat b with
    | some c => halted.contains ⟨c, b.pslot.toNat⟩
    | none => false)

/-- R153: whether a slot's count is suspended. A QALT's parties are those of each queue register of its mask. -/
def State.waitHeld (s : State) (i : SlotId) : Bool :=
  let halted := s.haltedSlots
  !halted.isEmpty &&
    (s.haltedParty i halted
      || s.cores.any (fun c => c.2.granQ.any (fun w => w.pkt.isNone && w.who == i) && halted.any (fun j => j.core == c.1))
      || (match (s.fetch i).toOption with
          | some (.qop _ _ q _) => s.haltedPeer i halted q.toNat
          | some (.qalt _ _ _) =>
            let mask := (match (s.slot i).wait with | some w => w.value | none => 0)
            (upFrom 0 16).any (fun q => mask.getLsbD q && s.haltedPeer i halted q)
          | _ => false))

/-- R153: `n` nominal cycles counted by the waits of a core. -/
def State.ageWaits (s : State) (core n : Nat) : State :=
  if n = 0 then s
  else (upFrom 0 8).foldl (fun s k =>
    let i : SlotId := ⟨core, k⟩
    let m := s.slot i
    match m.wait with
    | some w => if m.status == .parked && w.counted && !w.regs && !s.waitHeld i
        then s.setSlot i { m with wait := some { w with count := w.count + n } } else s
    | none => s) s

end Sys2Proof.Machine
end

