-- ==== Sys2Proof/Machine/Clock.lean ====
section
/-!
DEFINITION. Clocks, power and sensors: frequency steps and relocks (R9, R17 to R19), power and its cap (R20, R21), the
sensors with coolant and thermal events (R22, R23, R71), fencing a die (R16) and the election and reissue that follow
(R96 to R98).
-/
namespace Sys2Proof.Machine

/-- R73: event codes. -/
def evTHERMAL : Nat := 0x01
def evPOWER : Nat := 0x10
def evCOOLANT : Nat := 0x11

-- islands (R9, R17, R18)

/-- R9: the number of islands, of those on compute dies, and the top step. -/
def islandCount : Nat := 520
def octetCount : Nat := 512
def topStep : Nat := 13
/-- The die of an island as the event log names it (R72). -/
def islandDie (i : Nat) : Nat := min (i / 128) 4

/-- R17: INC at step n in units of 2^-32: 1.3/f = 26/(13 + n) rounded to nearest, ties upward. -/
def incOf (n : Nat) : Nat := (2 * 26 * 2 ^ 32 + (13 + n)) / (2 * (13 + n))

/-- R18: 3 µs in nominal cycles. -/
def relockCycles : Nat := 3900

/-- R17: NCYC after one actual cycle. -/
def Core.tick (c : Core) (inc : Nat) : Core :=
  let v := c.ncyc.toNat * 2 ^ 32 + c.ncycFrac.toNat + inc
  { c with cyc := c.cyc + 1, ncyc := w64 (v / 2 ^ 32), ncycFrac := BitVec.ofNat 32 v }

/-- R18 step 1: NCYC rounded up to an integer. -/
def Core.roundUp (c : Core) : Core :=
  { c with ncyc := if c.ncycFrac = 0 then c.ncyc else c.ncyc + 1, ncycFrac := 0 }

/-- Whether a core stands at a rotation boundary. -/
def Core.atBoundary (c : Core) : Bool := c.cyc.toNat % 8 == 0

/-- R18, R21, R23, R74: whether an island may step now. -/
def State.maySet (s : State) (i step : Nat) : Bool :=
  let v := s.island i
  i < islandCount && step ≤ v.ceiling && step ≤ topStep && v.relock.isNone && step != v.step && (!v.hot || step < v.step)

/-- R16, R20: whether a core's clock runs at all. -/
def State.clocked (s : State) (core : Nat) : Bool :=
  !s.halted && !(s.die (core / 1024)).fenced && !(s.die (core / 1024)).heldReset

/-- R18 step 1: whether every core of an island has finished its rotation. -/
def State.rotated (s : State) (i : Nat) : Bool :=
  s.cores.all (fun e => islandOf e.1 != i || e.2.atBoundary || !s.clocked e.1)

/-- R18 step 2: the clock of an island that is to step stops, once its cores have finished their rotations. -/
def State.stopIsland (s : State) (i : Nat) : State :=
  match (s.island i).relock with
  | some (step, none) =>
    if s.rotated i then s.setIsland i { s.island i with relock := some (step, some (s.now + relockCycles)) } else s
  | _ => s

/-- R18 steps 1 and 2: a step of an island begins. Cores inside a rotation finish it first. -/
def State.startRelock (s : State) (i step : Nat) : State :=
  let s := s.setIsland i { s.island i with relock := some (step, none) }
  ({ s with cores := tmap (fun k (c : Core) => if islandOf k == i && c.atBoundary then c.roundUp else c) s.cores } : State).stopIsland i

/-- R18, R19: a frequency step; one of all octets of a die together also relocks its bridge clock. -/
def execFrequencyStep (islands : List Nat) (step : Nat) (s : State) : Host.Outcome State Fault Refusal :=
  let go := islands.eraseDups.filter (fun i => s.maySet i step)
  let s := go.foldl (fun s i => s.startRelock i step) s
  let whole (d : Nat) : Bool := (upFrom (128 * d) 128).all go.contains
  .next (((upFrom 0 4).filter whole).foldl (fun s d => s.modDie d (fun v => { v with wide := true })) s)

/-- R18 steps 3 and 4: a relock that is over: NCYC gains 3,900, the new INC takes effect and issue resumes. -/
def State.endRelock (s : State) (i : Nat) : State :=
  match (s.island i).relock with
  | some (step, some t) =>
    if t ≤ s.now then
      let s := s.setIsland i { s.island i with step := step, relock := none }
      let s := if i % 128 = 0 && i < octetCount then s.modDie (i / 128) (fun v => { v with wide := false }) else s
      let mine := (s.cores.map Prod.fst).filter (fun k => islandOf k == i)
      mine.foldl (fun s k => (s.modCore k (fun c =>
        { c.roundUp with ncyc := c.roundUp.ncyc + w64 relockCycles })).ageWaits k relockCycles) s
    else s
  | _ => s

/-- R18: the islands whose cores have finished their rotation stop, and the relocks that are over end. -/
def execRelockEnd (islands : List Nat) (s : State) : Host.Outcome State Fault Refusal :=
  .next (islands.eraseDups.foldl (fun s i => (s.stopIsland i).endRelock i) s)

/-- R21, R23: one step down for an island, at most every 10 µs. -/
def State.canStepDown (s : State) (i : Nat) : Bool :=
  let v := s.island i
  i < islandCount && 0 < v.step && v.relock.isNone && v.lastStep.all (fun t => t + 10 * usec ≤ s.now)
def State.stepDown (s : State) (i : Nat) : State :=
  let s := s.startRelock i ((s.island i).step - 1)
  s.setIsland i { s.island i with lastStep := some s.now }

-- die loss (R16, R96 to R98)

/-- R96: whether every task of a die-bound node, and every fork descendant, has ended. -/
def Launch.nodeEnded (l : Launch) (d : Dealt) : Bool :=
  let n := Rec.size l.record d.level
  (upFrom (d.node * n) n).all l.exited.contains

/-- A task that a fenced die takes with it: its group ends, and its holdings convey (R97). -/
def State.loseTask (s : State) (t : Task) (cover : List Nat) : State :=
  let ctx := t.ref.ctx
  let ls := t.ref.lslot
  let s := s.modLaunch ctx ls (fun l => { l with covers := setUnion l.covers cover })
  if t.sup then
    (s.modLaunch ctx ls (fun l => { l with
      sups := tset l.sups t.supDie ⟨(tget l.sups ⟨none, true, true⟩ t.supDie).place, true, true⟩ })).sendExit
      (mkSup ctx ls t.supDie) 0
  else (s.taskEnds ctx ls t.ref.path t.gen).1

/-- The tasks of a core that own its slots or wait there, of the context that runs and of those saved. -/
def State.tasksOf (s : State) (core : Nat) : List (Task × List Nat) :=
  let c := s.core core
  let owner (m : Slot) : List (Task × List Nat) :=
    match m.task with
    | some t => if t.trailing || m.status == .unowned || m.status == .ending || m.status == .sealed then [] else [(t, m.cover)]
    | none => []
  let waits (qs : List ArbQueue) : List (Task × List Nat) := qs.flatMap (fun a => match s.launch a.ctx a.lslot with
    | some l => a.each.map (fun p => (waitingTask l a.ctx a.lslot p, []))
    | none => [])
  c.slots.toList.flatMap owner ++ waits c.queues
    ++ c.saved.flatMap (fun e => e.2.slots.flatMap (fun x => owner x.slot) ++ waits e.2.waiting)

/-- Slots removed from every queue that they wait in. -/
def State.dropSlots (s : State) (mine : SlotId → Bool) : State :=
  { s with
    dies := tmap (fun _ (d : Die) => { d with
      sync := tmap (fun _ (m : Mode) => match m with
        | .lock st h q => .lock st h (q.filter (fun e => !mine e.1))
        | .barrier c a p l ms ws => .barrier c a p l ms (ws.filter (fun e => !mine e.1))
        | m => m) d.sync
      pwait := d.pwait.filter (fun w => !mine w.1), capWait := d.capWait.filter (fun w => !mine w.1) }) s.dies
    cores := tmap (fun _ (c : Core) => { c with granQ := c.granQ.filter (fun w => w.pkt.isSome || !mine w.who) }) s.cores }

/-- R16, R168: what had been granted to a fenced die and not received there is lost (notes/assumptions/43.md), and every
probe is answered again. -/
def State.dropLost (s : State) : State :=
  { s with
    homeWrites := (s.homeWrites.map (fun (w : HomeWrite) =>
      { w with cells := w.cells.filter (fun c => !s.lostCell c.1) })).filter (fun w => !w.cells.isEmpty)
    cores := tmap (fun _ (c : Core) => { c with slots := c.slots.map (fun (m : Slot) =>
      { m with chunks := m.chunks.map (fun (k : Chunk) => { k with probed := false }) }) }) s.cores }

/-- R16: a die is fenced: its contexts lose its cores with the tasks on them, and an election is due. -/
def State.fenceDie (s : State) (die : Nat) : State :=
  if 4 ≤ die || (s.die die).fenced then s
  else
    let cores := (s.cores.map Prod.fst).filter (fun k => k / 1024 == die)
    let lost := cores.flatMap s.tasksOf
    let s := { s with ctxs := tmap (fun _ (c : Ctx) =>
      let d := c.logDie die
      { c with launches := tmap (fun _ (l : Launch) => { l with
          dealt := l.dealt.map (fun (n : Dealt) => if n.die == d then { n with finished := l.nodeEnded n } else n) }) c.launches }) s.ctxs }
    let s := (s.modDie die (fun d => { d with fenced := true, jig := [] })).dropLost
    let s := { s.dropSlots (fun i => i.core / 1024 == die) with electAt := some (s.electAt.getD s.now) }
    let s := cores.foldl (fun s k => s.modCore k (fun c => { c.tear with saved := [] })) s
    lost.foldl (fun s t => s.loseTask t.1 t.2) s

/-- R16. -/
def execUncorrectableDieFault (die : Nat) (s : State) : Host.Outcome State Fault Refusal := .next (s.fenceDie die)

/-- R97: one node dealt again on a die: its tasks start afresh, under a supervisor where the launch has one. -/
def State.redeal (s : State) (ctx lslot : Nat) (d : Dealt) (die : Nat) : State :=
  match s.launch ctx lslot with
  | none => s
  | some l =>
    let n := Rec.size l.record d.level
    let tasks := upFrom (d.node * n) n
    let again := Rec.supent l.record != 0 && (match tfind l.sups die with | some p => p.ended | none => true)
    let s := s.modLaunch ctx lslot (fun l => { l with
      dealt := l.dealt.map (fun x => if x == d then { x with die := die, finished := false } else x)
      exited := l.exited.filter (fun t => !tasks.contains t)
      live := tasks.foldl (fun v t => tset v t 1) l.live
      gens := tasks.foldl (fun v t => tset v t (l.genOf t + 1)) l.gens
      former := l.former.filter (fun e => !tasks.contains e.1)
      reported := l.reported.filter (fun r => !(again && r.1 == mkSup ctx lslot die))
      sups := if again then tset l.sups die ⟨none, false, false⟩ else l.sups })
    let s := if again then s.post (.supervisorStart ctx lslot die) else s
    let cores := (s.dealCores ctx).filter (fun c => c / 1024 == die)
    (dealNodes l.record d.level d.node 1 cores).foldl (fun s e => match (s.ctx ctx).phys e.1 with
      | some p => s.place p ctx lslot (.run e.2.1 e.2.2)
      | none => s) s

/-- R97, R98: the unfinished nodes of fenced dies of one launch, reissued or given up; they are given up too where no live die
has an enabled core of the context (notes/assumptions/43.md). -/
def State.reissue (s : State) (ctx lslot : Nat) : State :=
  match s.launch ctx lslot with
  | none => s
  | some l =>
    let gone (d : Nat) : Bool := (s.die ((s.ctx ctx).physDie d)).fenced
    let lost := l.dealt.filter (fun d => gone d.die && !d.finished)
    let nodes := lost.foldl (fun r d => r.filter (fun x => x.node < d.node) ++ [d] ++ r.filter (fun x => !(x.node < d.node))) []
    let live := ((upFrom 0 4).filter (fun d => !gone d)).map (fun d =>
      (d, ((s.dealCores ctx).filter (fun c => c / 1024 == d)).length))
    let to_ := (nodes.zipIdx).map (fun e => (e.1, reissueTo live nodes.length e.2))
    if nodes.isEmpty then s
    else if !l.restart || to_.any (fun e => e.2.isNone) then s.modLaunch ctx lslot (fun l => { l with
      partialEnd := true
      dealt := l.dealt.map (fun d => if gone d.die then { d with finished := true } else d) })
    else to_.foldl (fun s e => match e.2 with
      | some die => s.redeal ctx lslot e.1 die
      | none => s) s

/-- R96 to R98: the lowest live die is master, and reissues what the fenced dies had not finished. -/
def execMasterWdElection (s : State) : Host.Outcome State Fault Refusal :=
  match s.electAt with
  | none => .next s
  | some _ =>
    let live := (upFrom 0 4).filter (fun d => !(s.die d).fenced)
    let s := { s with electAt := none, master := live.headD s.master }
    .next (s.ctxs.foldl (fun s c => c.2.launches.foldl (fun s l => s.reissue c.1 l.1) s) s)

-- power (R20, R21)

/-- R20: whether a reading is outside its limits: the input in mV, or the power in W. -/
def outside (power : Bool) (x : Nat) : Bool := if power then 3200 < x else x < 48000 || 58000 < x

/-- Whether every compute die is held in reset. -/
def State.allHeld (s : State) : Bool := (upFrom 0 4).all (fun d => (s.die d).heldReset)
/-- R20, R23: every compute die held in reset. -/
def State.holdDies (s : State) : State :=
  (upFrom 0 4).foldl (fun s d => s.modDie d (fun v => { v with heldReset := true })) s

/-- R20: outside its limits the module's compute dies are held in reset. -/
def execPowerLimitExceeded (power : Bool) (reading : BitVec 32) (s : State) : Host.Outcome State Fault Refusal :=
  if outside power reading.toNat then .next ((s.holdDies).logEvent evPOWER 4 noCtx power.toNat reading.toNat)
  else .next s

/-- R20: a power cap of 1.2 to 3.2 kW in 25 W steps. -/
def execPowerCapSet (watt : Nat) (s : State) : Host.Outcome State Fault Refusal :=
  if 1200 ≤ watt && watt ≤ 3200 && watt % 25 == 0 then .next { s with hf := { s.hf with powerCap := watt } } else .next s

/-- R21: while the 1 ms average exceeds the cap, the island of highest power that can steps down; with every island at
0.65 GHz the tensor engines are limited, until the average is within the cap. -/
def execPowerCapStep (average : Nat) (byPower : List Nat) (s : State) : Host.Outcome State Fault Refusal :=
  if average ≤ s.hf.powerCap then .next { s with hf := { s.hf with throttle := false } }
  else match byPower.find? s.canStepDown with
    | some i => .next (s.stepDown i)
    | none =>
      if (upFrom 0 octetCount).all (fun i => (s.island i).step == 0) then .next { s with hf := { s.hf with throttle := true } }
      else .next s

-- sensors (R22, R23, R71)

/-- R23: one hot-spot reading in m°C. -/
def State.hotSpot (s : State) (i temp : Nat) : State :=
  if islandCount ≤ i then s else
  let v := { s.island i with temp := temp }
  let s := if 105000 ≤ temp && !v.hot then (s.setIsland i { v with hot := true }).logEvent evTHERMAL (islandDie i) noCtx i temp
    else s.setIsland i { v with hot := v.hot && 100000 ≤ temp }
  if 118000 ≤ temp then s.fenceDie (i / 128) else s

/-- R23: a hot island steps down, at most every 10 µs, until its sensor falls below 100 °C. -/
def execThermalStep (island temp : Nat) (s : State) : Host.Outcome State Fault Refusal :=
  if islandCount ≤ island || !(s.island island).hot then .next s
  else if temp < 100000 then .next (s.setIsland island { s.island island with hot := false })
  else
    let s := if s.canStepDown island then s.stepDown island else s
    .next (if 118000 ≤ temp then s.fenceDie (island / 128) else s)

/-- R20, R23: a limit as the present sampling finds it: its event is logged when the limit comes to be exceeded
(notes/assumptions/44.md). -/
def State.limit (s : State) (event unit reading : Nat) (out : Bool) : State :=
  let was := s.hf.outside.contains (event, unit)
  let s := { s with hf := { s.hf with outside := s.hf.outside.filter (· != (event, unit)) ++ (if out then [(event, unit)] else []) } }
  if out && !was then s.logEvent event 4 noCtx unit reading else s

/-- R20: a reading of the 54 V input or of the power: outside its limits the dies are held. -/
def State.powerReading (s : State) (power : Bool) (x : Nat) : State :=
  (if outside power x then s.holdDies else s).limit evPOWER power.toNat x (outside power x)

/-- R23: loss of coolant flow, below the 3.0 L/min of R22, or a hot inlet: the dies are held and the contexts flooded. -/
def State.coolant (s : State) (unit reading : Nat) (out : Bool) : State :=
  (if out then s.ctxs.foldl (fun s c => s.flood c.1) s.holdDies else s).limit evCOOLANT unit reading out

/-- R71: the sampling periods of 100 µs that have passed since the start. -/
def State.samplings (s : State) : Nat := (s.now - s.hf.hftBase) / (100 * usec)

/-- R20, R22, R23, R71: one sampling of the sensors, once every 100 µs: the readings are kept, and each island's hot spot, the
input, the power and the coolant acted upon. -/
def execSensorSample (r : Sensors) (s : State) : Host.Outcome State Fault Refusal :=
  if s.samplings ≤ s.hf.sampled then .next s
  else
    let s := { s with hf := { s.hf with sampled := s.samplings, readings := some r } }
    let s := (upFrom 0 islandCount).foldl (fun s i => s.hotSpot i ((r.hot[i]?).getD 0)) s
    let s := (s.powerReading false r.milliVolt).powerReading true r.watt
    .next ((s.coolant 0 r.flow (r.flow < 3000)).coolant 1 r.inlet (45000 < r.inlet))

/-- R16: a bridge of R7 runs at half width. -/
def isBridge (a b : Nat) : Bool := (b == 4 && a < 4) || [(0, 1), (2, 3), (0, 2), (1, 3)].contains (a, b)
def State.narrowBridge (s : State) (a b : Nat) : State :=
  let p := (min a b, max a b)
  if isBridge p.1 p.2 && !s.narrow.contains p then { s with narrow := s.narrow ++ [p] } else s

def execBridgeLaneFailure (dieA dieB : Nat) (s : State) : Host.Outcome State Fault Refusal :=
  .next (s.narrowBridge dieA dieB)

end Sys2Proof.Machine
end

