-- ==== Sys2Proof/Machine/Cycle.lean ====
section
/-!
DEFINITION. One cycle of a core (R103): what the slot whose cycle it is finds at its PC, and what the cycle's end does to
counters (R17, R386), waits (R153), the empty time (R101) and, at a rotation boundary, to the arbiter (R94).
-/
namespace Sys2Proof.Machine

/-- The length of an instruction in words (R250). -/
def wordsOf (i : Instr) : Nat := (encode i).length

/-- What a slot does at its cycle. -/
inductive Doing where
  | idle
  | issue (i : Instr)
  | trap (c : Cause) (val : Word)
  | miss
  deriving DecidableEq, Repr

/-- R103: whether a slot acts at its cycle. A slot parked at an instruction looks at its condition again. -/
def Slot.acts (m : Slot) : Bool :=
  m.status == .ready || (m.status == .parked && !m.wait.any (·.regs))

/-- R89: a supervisor slot whose launch has no task left on its die. -/
def State.supOver (s : State) (m : Slot) : Bool :=
  match m.task with
  | some t => t.sup && s.dieDone t.ref.ctx t.ref.lslot t.supDie
  | none => false

/-- The place at which an instruction of a slot acts while it issues, where that is another than its core: the home of a
page 5 or atomic operation, or the master WD (notes/assumptions/1.md). -/
def State.actsAt (s : State) (i : SlotId) (ins : Instr) : Option Nat :=
  let ctx := (s.core i.core).tenant.toNat
  let at_ (r : Reg) : Option Nat := some (s.gaPlace ctx ((s.slot i).arch.getG r).toNat)
  match ins with
  | .lrw _ _ b _ | .sch _ _ b _ | .rls _ _ b | .barr _ _ b | .bara _ _ b | .barw _ _ b _ | .symg _ _ b _ _ | .prom _ _ b _
  | .fulf _ _ b | .pwait _ _ b | .heir _ _ b _ | .capgv _ _ b _ | .captk _ _ b | .capq _ _ b => at_ b
  | .amo _ _ b _ _ | .cas _ _ b _ | .famo _ _ b _ _ | .red _ b _ _ | .fred _ b _ _ => at_ b
  | .dgst _ a _ => at_ a
  | .estq _ _ b _ idx => if idx then some (dieAt ((s.ctx ctx).physDie (wbits ((s.slot i).arch.getG b) 17 16))) else at_ b
  | .fork _ _ _ _ | .launch _ _ _ | .tctl _ _ _ _ => some (dieAt s.master)
  | _ => none

/-- R18, R19: whether an instruction cannot be sent to the place at which it acts. -/
def State.cannotSend (s : State) (i : SlotId) (ins : Instr) : Bool := (s.actsAt i ins).any (s.blocked i.core)

/-- What a slot does now: it issues the instruction at its PC, unless that is held up on its way, takes the trap of R251, R252
or R255, or misses in the instruction cache. -/
def State.doing (s : State) (i : SlotId) : Doing :=
  let m := s.slot i
  if !m.acts then .idle
  else if s.supOver m then .issue (.tend false)
  else match s.fetch i with
    | .ok ins =>
      if !(s.icMiss i (wordsOf ins)).isEmpty then .miss
      else if s.cannotSend i ins then .idle
      else .issue ins
    | .error (c, v) => if (s.icMiss i 1).isEmpty then .trap c v else .miss

/-- R103, R386: a miss parks the slot and asks for the line. -/
def State.cacheMiss (s : State) (i : SlotId) : State :=
  let s := if s.inflight.contains (.icacheFill i) then s
    else (s.modSlot i (fun m => m.count 4 1)).post (.icacheFill i)
  s.modSlot i (fun m => { m with status := .parked, wait := if m.wait.isSome then m.wait else some Wait.poll })

/-- R386: a rotation that a slot spent parked: it was parked at its cycle, and still is. -/
def Slot.countParked (m before : Slot) : Slot :=
  if before.status == .parked && m.status == .parked then
    let m := m.count 1 1
    match m.wait with
    | some w => (m.count 6 w.sfuFull.toNat).count 7 w.queueFull.toNat
    | none => m
  else m

/-- R18 step 1, R94: the end of a rotation. -/
def Core.endRotation (c : Core) (relocks : Bool) : Core :=
  let c := if relocks then c.roundUp else c
  { c with roundDue := c.roundDue || !c.queues.isEmpty || !c.ended.isEmpty }

/-- R17, R103, R153, R386: the end of a cycle of a core, whose slot had been `before`. -/
def State.endCycle (s : State) (i : SlotId) (before : Slot) : State :=
  let s := s.modSlot i (fun m => m.countParked before)
  let old := s.core i.core
  let isl := s.island (islandOf i.core)
  let s := s.modCore i.core (fun c =>
    let c := c.tick (incOf isl.step)
    let c := if c.recvEmpty then c else { c with emptySince := c.cyc.toNat }
    if c.atBoundary then c.endRotation isl.relock.isSome else c)
  s.ageWaits i.core ((s.core i.core).ncyc - old.ncyc).toNat

/-- The cycle of a slot that issues nothing. -/
def State.emptyCycle (s : State) (i : SlotId) : State :=
  let m := s.slot i
  match s.doing i with
  | .trap c v => (s.takeTrap i c v m.arch.pc).endCycle i m
  | .miss => (s.cacheMiss i).endCycle i m
  | _ => s.endCycle i m

end Sys2Proof.Machine
end

