-- ==== Sys2Proof/Machine/Float.lean ====
section
/-!
DEFINITION. Page 1: scalar floating point (R280 to R288) and the SFU with its queue (R119, R290, R292).
-/
namespace Sys2Proof.Machine

/-- R281: an operation on FP32, or on the two BF16 lanes with their flags joined. -/
def lanes (bf : Bool) (op : Nat → Nat → Nat → Nat → Nat × Fl) (x y z : Single) : Single × Fl :=
  if bf then
    let lo := op pBF16 (x.toNat % 65536) (y.toNat % 65536) (z.toNat % 65536)
    let hi := op pBF16 (x.toNat / 65536) (y.toNat / 65536) (z.toNat / 65536)
    (BitVec.ofNat 32 (lo.1 % 65536 + 65536 * hi.1), Fl.or lo.2 hi.2)
  else
    let r := op pFP32 x.toNat y.toNat z.toNat
    (BitVec.ofNat 32 r.1, r.2)

/-- R201: an f result with its flags. -/
def State.setFf (s : State) (a : Reg) (r : Single × Fl) : State := (s.setF a r.1).orFstat r.2.word
/-- R201: a g result with its flags. -/
def State.setGf (s : State) (a : Reg) (v : Word) (f : Fl) : State := (s.setG a v).orFstat f.word

/-- R282: an instruction on f[b] and f[c]. -/
def floatOp (h : Hdr) (a b c : Reg) (bf : Bool) (op : Nat → Nat → Nat → Nat × Fl) (s : State) :
    Host.Outcome State Fault Refusal :=
  issue s (Info.chunked h.s (lenP h.rgx 0) [codeF b, codeF c] [codeF a]) none
    (fun s => .done (s.setFf a (lanes bf (fun p x y _ => op p x y) (s.f b) (s.f c) 0)))

/-- R283. -/
def execFmov (h : Hdr) (a b : Reg) (dir : BitVec 2) (s : State) : Host.Outcome State Fault Refusal :=
  let reads := if dir = 1 then codeG b else codeF b
  let writes := if dir = 2 then codeG a else codeF a
  issue s (Info.chunked h.s (lenP h.rgx 0) [reads] [writes]) none (fun s =>
    .done (match dir.toNat with
      | 0 => s.setF a (s.f b)
      | 1 => s.setF a ((s.g b).setWidth 32)
      | _ => s.setG a ((s.f b).setWidth 64)))

def execFadd (h : Hdr) (a b c : Reg) (bf : Bool) (rm : BitVec 2) (s : State) : Host.Outcome State Fault Refusal :=
  floatOp h a b c bf (fun p => fAdd p rm.toNat) s
def execFsub (h : Hdr) (a b c : Reg) (bf : Bool) (rm : BitVec 2) (s : State) : Host.Outcome State Fault Refusal :=
  floatOp h a b c bf (fun p => fSub p rm.toNat) s
def execFmul (h : Hdr) (a b c : Reg) (bf : Bool) (rm : BitVec 2) (s : State) : Host.Outcome State Fault Refusal :=
  floatOp h a b c bf (fun p => fMul p rm.toNat) s
def execFmin (h : Hdr) (a b c : Reg) (bf : Bool) (s : State) : Host.Outcome State Fault Refusal :=
  floatOp h a b c bf (fun p => fMinMax p false) s
def execFmax (h : Hdr) (a b c : Reg) (bf : Bool) (s : State) : Host.Outcome State Fault Refusal :=
  floatOp h a b c bf (fun p => fMinMax p true) s

/-- R282: f[a] is read as the addend before it is written. The RGX word is required. -/
def execFma (sBit : Bool) (a b c : Reg) (neg bf : Bool) (rm : BitVec 2) (s : State) :
    Host.Outcome State Fault Refusal :=
  issue s (Info.chunked sBit 3 [codeF a, codeF b, codeF c] [codeF a]) none
    (fun s => .done (s.setFf a (lanes bf (fun p => fFma p rm.toNat neg) (s.f b) (s.f c) (s.f a))))

/-- R284. -/
def signOf (op : Nat) (x y : Bool) : Bool :=
  match op with
  | 0 => y
  | 1 => !y
  | 2 => x != y
  | _ => false
def fSgn (op : BitVec 2) (bf : Bool) (x y : Single) : Single :=
  let hi := signOf op.toNat (x.getLsbD 31) (y.getLsbD 31)
  let lo := signOf op.toNat (x.getLsbD 15) (y.getLsbD 15)
  let put (v : Single) (m : Single) (b : Bool) : Single := if b then v ||| m else v &&& ~~~m
  let r := put x 0x80000000 hi
  if bf then put r 0x8000 lo else r

def execFsgn (h : Hdr) (a b c : Reg) (op : BitVec 2) (bf : Bool) (s : State) : Host.Outcome State Fault Refusal :=
  issue s (Info.chunked h.s (lenP h.rgx 0) ([codeF b] ++ (if op = 3 then [] else [codeF c])) [codeF a]) none
    (fun s => .done (s.setF a (fSgn op bf (s.f b) (s.f c))))

/-- R285. -/
def execFcmp (h : Hdr) (a b c : Reg) (cond : BitVec 3) (s : State) : Host.Outcome State Fault Refusal :=
  issue s (Info.chunked h.s (lenP h.rgx 0) [codeF b, codeF c] [codeG a]) none (fun s =>
    let (r, f) := fCompare pFP32 cond.toNat (s.f b).toNat (s.f c).toNat
    .done (s.setGf a (if r then 1 else 0) f))

/-- R286. -/
def execFclass (h : Hdr) (a b : Reg) (bf : Bool) (s : State) : Host.Outcome State Fault Refusal :=
  issue s (Info.chunked h.s (lenP h.rgx 0) [codeF b] [codeG a]) none (fun s =>
    .done (s.setG a (w64 (if bf then fClassify pBF16 ((s.f b).toNat % 65536) else fClassify pFP32 (s.f b).toNat))))

/-- R287: the conversions to an integer, by code, and those to a float. -/
def toIntBy (code rm x : Nat) : Word × Fl :=
  match code with
  | 0 => let r := fToInt pFP32 rm (-(2 ^ 31)) (2 ^ 31 - 1) x; (i64 r.1, r.2)
  | 1 => let r := fToInt pFP32 rm 0 (2 ^ 32 - 1) x; (i64 r.1, r.2)
  | 2 => let r := fToInt pFP32 rm (-(2 ^ 63)) (2 ^ 63 - 1) x; (i64 r.1, r.2)
  | _ => let r := fToInt pFP32 rm 0 (2 ^ 64 - 1) x; (i64 r.1, r.2)
def toFloatBy (code rm : Nat) (g : Word) (f : Single) : Nat × Fl :=
  match code with
  | 4 => fOfInt pFP32 rm (sext 32 g.toNat)
  | 5 => fOfInt pFP32 rm ((g.toNat % 2 ^ 32 : Nat) : Int)
  | 6 => fOfInt pFP32 rm g.toInt
  | 7 => fOfInt pFP32 rm (g.toNat : Int)
  | 8 => fNarrow rm f.toNat
  | _ => fWiden f.toNat

def execFcvt (h : Hdr) (a b : Reg) (code : BitVec 5) (rm : BitVec 2) (s : State) : Host.Outcome State Fault Refusal :=
  let n := code.toNat
  let reads := if 4 ≤ n && n ≤ 7 then codeG b else codeF b
  let writes := if n ≤ 3 then codeG a else codeF a
  issue s (Info.chunked h.s (lenP h.rgx 0) [reads] [writes]) none (fun s =>
    .done (if n ≤ 3 then
        let r := toIntBy n rm.toNat (s.f b).toNat
        s.setGf a r.1 r.2
      else
        let r := toFloatBy n rm.toNat (s.g b) (s.f b)
        s.setFf a (BitVec.ofNat 32 r.1, r.2)))

/-- R288. -/
def execFldi (sBit : Bool) (a : Reg) (i : ImmB) (s : State) : Host.Outcome State Fault Refusal :=
  issue s (Info.chunked sBit (2 + i.hi.length) [] [codeF a]) none
    (fun s => .done (s.setF a ((i64 (immVal i)).setWidth 32)))

-- the SFU

/-- The SFU's operations, numbered for requests. -/
def sfDIV : Nat := 0
def sfSQRT : Nat := 1
def sfRCP : Nat := 2
def sfRSQ : Nat := 3
def sfEXP2 : Nat := 4
def sfLOG2 : Nat := 5
def sfTANH : Nat := 6

/-- R290, R291: the result of a request. -/
def sfuValue (r : SfuReq) : Single × Fl :=
  let x := r.x.toNat
  let rm := r.rm.toNat
  let v := match r.op with
    | 0 => fDiv pFP32 rm x r.y.toNat
    | 1 => fSqrt pFP32 rm x
    | 2 => fRcp pFP32 rm x
    | 3 => fRsq pFP32 rm x
    | 4 => fExp2 pFP32 rm x
    | 5 => fLog2 pFP32 rm x
    | _ => fTanh pFP32 rm x
  (BitVec.ofNat 32 v.1, v.2)

/-- R119, R290: a request joins the tail of the queue; a slot that finds it full parks until an entry frees. -/
def sfuOp (h : Hdr) (a b : Reg) (c : Option Reg) (op : Nat) (rm : BitVec 2) (s : State) :
    Host.Outcome State Fault Refusal :=
  issue s (Info.chunked h.s (lenP h.rgx 0) (codeF b :: (c.map codeF).toList) [codeF a]) none (fun s =>
    if 16 ≤ s.myCore.sfuQ.length then .park { Wait.poll with sfuFull := true } s
    else
      let chunk := s.me.openNo
      let req : SfuReq := ⟨s.cur.slot, op, a, s.f b, (c.map s.f).getD 0, rm, chunk, s.me.openCount, false⟩
      let s := s.modCore s.cur.core (fun k => { k with sfuQ := k.sfuQ ++ [req] })
      .done (s.addRet { Ret.plain (codeF a) 0 with value := none, chunk := chunk, sfu := true }))

def execFdiv (h : Hdr) (a b c : Reg) (rm : BitVec 2) (s : State) : Host.Outcome State Fault Refusal :=
  sfuOp h a b (some c) sfDIV rm s
def execFsqrt (h : Hdr) (a b : Reg) (rm : BitVec 2) (s : State) : Host.Outcome State Fault Refusal :=
  sfuOp h a b none sfSQRT rm s
def execFrcp (h : Hdr) (a b : Reg) (rm : BitVec 2) (s : State) : Host.Outcome State Fault Refusal :=
  sfuOp h a b none sfRCP rm s
def execFrsq (h : Hdr) (a b : Reg) (rm : BitVec 2) (s : State) : Host.Outcome State Fault Refusal :=
  sfuOp h a b none sfRSQ rm s
def execFexp2 (h : Hdr) (a b : Reg) (rm : BitVec 2) (s : State) : Host.Outcome State Fault Refusal :=
  sfuOp h a b none sfEXP2 rm s
def execFlog2 (h : Hdr) (a b : Reg) (rm : BitVec 2) (s : State) : Host.Outcome State Fault Refusal :=
  sfuOp h a b none sfLOG2 rm s
def execFtanh (h : Hdr) (a b : Reg) (rm : BitVec 2) (s : State) : Host.Outcome State Fault Refusal :=
  sfuOp h a b none sfTANH rm s

/-- R290: whether the SFU may take its head request. -/
def Core.sfuReady (c : Core) : Bool := !c.sfuQ.isEmpty && c.sfuNext ≤ c.cyc.toNat

/-- R290: the head request taken, at least 4 cycles after the one before; its result is due 24 cycles on. -/
def execSfuTake (core : Nat) (s : State) : Host.Outcome State Fault Refusal :=
  let c := s.core core
  match c.sfuQ with
  | r :: rest =>
    if c.sfuReady then
      .next (s.setCore core { c with
        sfuQ := rest, sfuRun := c.sfuRun ++ [(r, c.cyc.toNat + 24)], sfuNext := c.cyc.toNat + 4 })
    else .next s
  | [] => .next s

/-- R178, R201: an SFU result written with its flags; the registers to which a squash returns a later chunk hold it too. -/
def Slot.sfuWrite (m : Slot) (code : Nat) (v : Single) (f : Word) : Slot :=
  match m.returns.find? (fun r => r.sfu && r.reg.toNat == code) with
  | some r => (({ m with returns := m.returns.erase r } : Slot).receive { r with flags := f } (v.setWidth 64)).settle
  | none => m

/-- R290, R292, R201: a due result written with its flags; the result of a squashed request is discarded. -/
def execSfuResult (core : Nat) (s : State) : Host.Outcome State Fault Refusal :=
  let c := s.core core
  match c.sfuRun.find? (fun r => r.2 ≤ c.cyc.toNat) with
  | none => .next s
  | some r =>
    let s := s.setCore core { c with sfuRun := c.sfuRun.erase r }
    if r.1.dropped then .next s
    else
      let (v, f) := sfuValue r.1
      .next (s.modSlot ⟨core, r.1.slot⟩ (fun m => m.sfuWrite (codeF r.1.dest) v f.word))

end Sys2Proof.Machine
end

