-- ==== Sys2Proof/Machine/Headframe.lean ====
section
/-!
DEFINITION. The Headframe: ageing and clock limits (R74), predictive-failure marks (R75, R76), firmware updates (R77),
keys (R78), the start and its journal (R79, R80), the start of a context (R76, R108), and writes through the mailbox.
-/
namespace Sys2Proof.Machine

/-- R73: event codes. -/
def evAGEING : Nat := 0x0C
def evPFMARK : Nat := 0x0D
def evUPDATE : Nat := 0x0E
def evBOOTSTEP : Nat := 0x0F

-- ageing (R74)

/-- The physical cores of an octet (R9). -/
def octetCores (i : Nat) : List Nat :=
  let base := 1024 * (i / 128) + 32 * (2 * (i % 128 / 8)) + 4 * (i % 8)
  (upFrom base 4) ++ (upFrom (base + 32) 4)

/-- R75: a mark set, with its PFMARK event; a mark that is set already stays. -/
def State.setMark (s : State) (m : Mark) : State :=
  let s := if s.hf.marks.contains m then s else { s with hf := { s.hf with marks := s.hf.marks ++ [m] } }
  match m with
  | .core c => s.logEvent evPFMARK (c / 1024) noCtx (c % 1024) 0
  | .lane p l => s.logEvent evPFMARK 4 noCtx (p + 256 * l) 1

/-- R74: the ceiling step for a count at a birth value: below 3, 5 and 7 per cent of loss. -/
def ageCeiling (birth count : Nat) : Nat :=
  let loss : Int := (birth : Int) - count
  if 100 * loss < 3 * (birth : Int) then 13
  else if 100 * loss < 5 * (birth : Int) then 12
  else if 100 * loss < 7 * (birth : Int) then 11
  else 9

/-- Intervals of so many nominal cycles that have passed since the start. -/
def State.intervals (s : State) (cycles : Nat) : Nat := (s.now - s.hf.hftBase) / cycles

/-- R74: the intervals of 10 s that have passed. -/
def State.ageIntervals (s : State) : Nat := s.intervals (10000000 * usec)

/-- R74: whether an octet is to be measured: once in every interval, and after a relock. -/
def State.ageDue (s : State) (octet : Nat) : Bool :=
  octet < octetCount && (s.island octet).measured < s.ageIntervals && (s.island octet).relock.isNone

/-- R74: an octet's oscillator measured at the step it runs at. -/
def execAgeingMeasure (octet count : Nat) (s : State) : Host.Outcome State Fault Refusal :=
  if !s.ageDue octet then .next s
  else
    let v := s.island octet
    let n := ageCeiling (Config.birthCount octet v.step) count
    let ceil := min v.ceiling n
    let s := s.setIsland octet { v with ceiling := ceil, measured := s.ageIntervals }
    let s := if n < 13 then s.logEvent evAGEING (islandDie octet) noCtx octet count else s
    let s := if n ≤ 9 then (octetCores octet).foldl (fun s c => s.setMark (.core c)) s else s
    .next (if ceil < v.step then s.startRelock octet ceil else s)

-- predictive failure (R75)

/-- A bucket's value with the leak interval in which it last leaked. -/
def State.bucketAt (s : State) (b : Bucket) : Option (Nat × Nat) := (s.hf.buckets.find? (fun e => e.1 == b)).map Prod.snd
def State.bucket (s : State) (b : Bucket) : Nat := ((s.bucketAt b).map Prod.fst).getD 0
def State.setBucket (s : State) (b : Bucket) (v leak : Nat) : State :=
  { s with hf := { s.hf with buckets := s.hf.buckets.filter (fun e => e.1 != b) ++ (if v = 0 then [] else [(b, v, leak)]) } }

/-- R75: the leak interval of a bucket in nominal cycles: 1 h, or 10 min for a lane. -/
def leakCycles (b : Bucket) : Nat :=
  match b with
  | .lane _ _ => 600 * 1000000 * usec
  | _ => 3600 * 1000000 * usec

/-- R75: corrected FEC symbols of a lane in the present second, with one more; those above 10⁶ count. -/
def State.fecCount (s : State) (b : Bucket) : State × Bool :=
  let second := s.intervals (1000000 * usec)
  let n := match s.hf.fec.find? (fun e => e.1 == b) with
    | some (_, t, n) => if t = second then n + 1 else 1
    | none => 1
  ({ s with hf := { s.hf with fec := s.hf.fec.filter (fun e => e.1 != b) ++ [(b, second, n)] } }, 1000000 < n)

/-- R75: the threshold of a bucket. -/
def bucketThreshold (b : Bucket) : Nat :=
  match b with
  | .bank _ _ => 64
  | .lane _ _ => 32
  | .cluster _ => 128

/-- R75: the core of an octet with the most corrected errors, the lowest 32·y + x on a tie. -/
def State.worstCore (s : State) (octet : Nat) : Nat :=
  (octetCores octet).foldl (fun b c => if tget s.hf.clusterErrors 0 b < tget s.hf.clusterErrors 0 c then c else b)
    ((octetCores octet).headD 0)

/-- R75: whether a bucket names a unit of the module. -/
def bucketExists (b : Bucket) : Bool :=
  match b with
  | .bank c k => c < 4096 && k < 16
  | .lane p l => p < 16 && l < 8
  | .cluster o => o < octetCount

/-- R75: a corrected error that a bucket counts; the error that fills it sets its mark. For a cluster, `core` is the core of
the octet that had the error. -/
def State.bucketAdd (s : State) (b : Bucket) (core : Nat) : State :=
  let old := s.bucket b
  let v := min (old + 1) 0xFFFF
  let s := s.setBucket b v (((s.bucketAt b).map Prod.snd).getD (s.intervals (leakCycles b)))
  let s := match b with
    | .cluster o => if (octetCores o).contains core then
        { s with hf := { s.hf with clusterErrors := tset s.hf.clusterErrors core (tget s.hf.clusterErrors 0 core + 1) } }
      else s
    | _ => s
  if v < bucketThreshold b || bucketThreshold b ≤ old then s
  else match b with
    | .bank c _ => s.setMark (.core c)
    | .lane p l => s.setMark (.lane p l)
    | .cluster o => s.setMark (.core (s.worstCore o))

/-- R75: a corrected error: of a lane, a FEC symbol. -/
def execCorrectedError (b : Bucket) (core : Nat) (s : State) : Host.Outcome State Fault Refusal :=
  if !bucketExists b then .next s
  else match b with
    | .lane _ _ =>
      let (t, counts) := s.fecCount b
      .next (if counts then t.bucketAdd b core else t)
    | _ => .next (s.bucketAdd b core)

/-- R75: a leak interval of a bucket has passed. -/
def execBucketLeak (b : Bucket) (s : State) : Host.Outcome State Fault Refusal :=
  match s.bucketAt b with
  | some (v, t) => if t < s.intervals (leakCycles b) then .next (s.setBucket b (v - 1) (t + 1)) else .next s
  | none => .next s

-- updates (R77)

/-- The slot that is not active. -/
def otherSlot (fw : List (SlotState × Image)) : Nat :=
  match fw.findIdx? (fun e => e.1 == .active) with
  | some 0 => 1
  | _ => 0

/-- An answer to the host or the mailbox. -/
def State.replyWith (s : State) (r : Reply) : State := { s with reply := some r }

/-- R77: an update begun, or its streamed image verified: PENDING, or invalid with an UPDATE event. A request during
another is refused as BUSY. -/
def execUpdate (op : UpdateOp) (s : State) : Host.Outcome State Fault Refusal :=
  let n := otherSlot s.hf.firmware
  let put (st : SlotState) (img : Image) (s : State) : State :=
    { s with hf := { s.hf with firmware := listSet s.hf.firmware n (st, img), updating := false } }
  match op with
  | .begin => if s.hf.updating then .next (s.replyWith .busy)
    else .next (({ s with hf := { s.hf with updating := true } } : State).replyWith .ok)
  | .finish img =>
    if !s.hf.updating then .next s
    else if !Config.signatureOk img.bytes then .next ((put .invalid img s).logEvent evUPDATE 4 noCtx n 1)
    else if img.version.toNat < s.hf.floor.toNat then .next ((put .invalid img s).logEvent evUPDATE 4 noCtx n 2)
    else .next (put .pending img s)

-- keys (R78)

/-- R78: a tenant key is written; a context with an open assay handle or saved state is BUSY, and that of one that is started
is not written. -/
def execTenantKeyWrite (ctx : Nat) (key : BitVec 256) (s : State) : Host.Outcome State Fault Refusal :=
  let busy := s.images.any (fun e => e.2.refs.contains ctx)
    || s.cores.any (fun e => match tfind e.2.saved ctx with | some (v : Saved) => !v.slots.isEmpty | none => false)
  if 16 ≤ ctx then .next s
  else if busy then .next (s.replyWith .busy)
  else if (s.ctx ctx).started then .next s
  else .next ((s.modCtx ctx (fun c => { c with key := key })).replyWith .ok)

-- the start (R79, R80)

/-- A start under way: the machine, the retry states, those that failed in this start, the journal's rows, and how the
start has ended, with a halt or without. -/
structure Start where
  s : State
  boot : List (Nat × Nat × BootStep)
  failed : List (Nat × Nat)
  rows : List (Nat × Nat × Nat × Nat)
  over_ : Option Bool

/-- R79: the units of the steps in their order. -/
def bootUnits : List (Nat × Nat) :=
  [(0, 0), (1, 0)] ++ (upFrom 0 4).map (fun d => (2, d)) ++ (upFrom 0 4).map (fun d => (3, d))
    ++ (upFrom 0 16).map (fun p => (4, p)) ++ [(5, 0)]

def bootState (b : List (Nat × Nat × BootStep)) (step unit : Nat) : BootStep :=
  ((b.find? (fun e => e.1 == step && e.2.1 == unit)).map (fun e => e.2.2)).getD ⟨false, false, 0⟩
def setBoot (b : List (Nat × Nat × BootStep)) (step unit : Nat) (v : BootStep) : List (Nat × Nat × BootStep) :=
  b.filter (fun e => !(e.1 == step && e.2.1 == unit)) ++ [(step, unit, v)]

/-- R79: a step done in normal mode. -/
def State.bootNormal (s : State) (step unit : Nat) : State :=
  match step with
  | 1 => { s with islands := tmap (fun _ (v : Island) => { v with step := min v.ceiling topStep }) s.islands }
  | 4 =>
    match widestOf 8 (s.usableLanes unit) with
    | some w => s.setPort unit { s.port unit with up := true, lanes := w }
    | none => s
  | 5 => { s with hf := { s.hf with cxl := 1 } }
  | _ => s

/-- R79: a step done in its fallback mode. The other image slot boots unless it is invalid, for then the previous active
one does (R77); a port trains at 2 lanes that may be used (R76). -/
def State.bootFallback (s : State) (step unit : Nat) : State :=
  match step with
  | 0 =>
    let other := 1 - s.hf.booted
    if s.hf.firmware[other]?.any (fun e => e.1 == .invalid) then s else { s with hf := { s.hf with booted := other } }
  | 1 => (upFrom 0 islandCount).foldl (fun s i => s.setIsland i { s.island i with step := 0 }) s
  | 3 => (upFrom 0 5).foldl (fun s d => s.narrowBridge unit d) s
  | 4 =>
    match widestOf 2 (s.usableLanes unit) with
    | some w => s.setPort unit { s.port unit with up := true, lanes := w }
    | none => s
  | 5 => { s with hf := { s.hf with cxl := 2 } }
  | _ => s

/-- R79: what a failed fallback comes to: none is a halt. -/
def State.bootAction (s : State) (step unit : Nat) : Option State :=
  match step with
  | 2 => some (s.modDie unit (fun d => { d with fenced := true }))
  | 3 => some (s.modDie unit (fun d => { d with fenced := true }))
  | 4 => some s
  | _ => none

/-- R79, R80: a row of the journal and its BOOTSTEP event: mode 0 normal, 1 fallback, 2 not attempted; result 0 done, 1
failed. The attempt is the number of the start (notes/assumptions/45.md). -/
def Start.row (t : Start) (step unit mode result : Nat) : Start :=
  let die := if step = 2 || step = 3 then unit else 4
  { t with rows := t.rows ++ [(step, unit, mode, result)]
           s := t.s.logEvent evBOOTSTEP die noCtx step (t.s.hf.starts % 256 + 2 ^ 8 * mode + 2 ^ 16 * result + 2 ^ 24 * unit) }

/-- R80: the action of a failed fallback taken, in this start. -/
def Start.act (t : Start) (step unit : Nat) : Start :=
  match t.s.bootAction step unit with
  | some s => { t with s := s }
  | none => { t with over_ := some true }

/-- R80: one step on one unit. -/
def Start.attempt (b : BootInput) (t : Start) (u : Nat × Nat) : Start :=
  let (step, unit) := u
  if t.over_.isSome || ((step = 3) && (t.s.die unit).fenced) then t
  else
    let v := bootState t.boot step unit
    if v.fallbackFailed then (t.row step unit 2 1).act step unit
    else if v.normalFailed then
      if b.fallbackFails.contains u then
        { (t.row step unit 1 1).act step unit with
          boot := setBoot t.boot step unit ⟨true, true, 0⟩, failed := t.failed ++ [u] }
      else
        let t := t.row step unit 1 0
        { t with s := t.s.bootFallback step unit }
    else if b.normalFails.contains u then
      let t := t.row step unit 0 1
      { t with
        s := { t.s with hf := { t.s.hf with wantStart := true } }
        boot := setBoot t.boot step unit ⟨true, false, 0⟩, failed := t.failed ++ [u], over_ := some false }
    else
      let t := t.row step unit 0 0
      { t with s := t.s.bootNormal step unit }

/-- R80: the retry states after a start: a READY start counts for every earlier failure, and the fourth in a row clears
it; another start counts for none. -/
def bootAfter (t : Start) (ready : Bool) : List (Nat × Nat × BootStep) :=
  t.boot.filterMap (fun e =>
    if t.failed.contains (e.1, e.2.1) then some e
    else if !ready then some (e.1, e.2.1, { e.2.2 with readySince := 0 })
    else if 4 ≤ e.2.2.readySince + 1 then none
    else some (e.1, e.2.1, { e.2.2 with readySince := e.2.2.readySince + 1 }))

/-- R77: the image slot that a start boots in normal mode: a pending one, or else the active one. -/
def bootSlot (fw : List (SlotState × Image)) : Nat :=
  match fw.findIdx? (fun e => e.1 == .pending) with
  | some n => n
  | none => (fw.findIdx? (fun e => e.1 == .active)).getD 0

/-- R77 steps 4 and 5: the firmware slots after a start: a pending slot that booted and reached READY becomes active, and
one that did not is invalid. -/
def firmwareAfter (fw : List (SlotState × Image)) (good : Bool) : List (SlotState × Image) :=
  if !fw.any (fun e => e.1 == .pending) then fw
  else fw.map (fun e => match e.1 with
    | .pending => (if good then .active else .invalid, e.2)
    | .active => (if good then .inactive else .active, e.2)
    | st => (st, e.2))

/-- The machine at step 0 of a start: what the flash, the fuses, the host and the marks keep stays (R74, R76, R77, R80);
everything else is as at reset, with fresh tenant keys (R78). Memory keeps what it holds (notes/assumptions/3.md). -/
def State.atStart (s : State) : State :=
  let s := s.drainAll
  { State.reset with
    agenda := s.agenda, now := s.now, fresh := s.fresh + 16, mem := s.mem
    islands := tmap (fun _ (v : Island) => { Island.reset with step := min v.ceiling topStep, ceiling := v.ceiling }) s.islands
    dies := tmap (fun _ (d : Die) => { Die.reset with fused := d.fused, hmap := d.fused, heldReset := true }) s.dies
    hf := { s.hf with hftBase := s.now, sampled := 0, readings := none, outside := [], powerCap := 3200, throttle := false, buckets := []
                      fec := [], clusterErrors := [], updating := false, booted := bootSlot s.hf.firmware
                      starts := s.hf.starts + 1, wantStart := false, cxl := 0, keyBase := s.fresh } }

/-- R76, R77, R79, R80: a start. The spec does not say when an update's request to clear the marks acts: the model clears them
where the pending image has reached READY (notes/assumptions/45.md). -/
def execModuleStart (b : BootInput) (s : State) : Host.Outcome State Fault Refusal :=
  let fw := s.hf.firmware
  let s0 := (s.atStart).holdDies
  let t : Start := bootUnits.foldl (Start.attempt b) ⟨s0, s.hf.boot, [], [], none⟩
  let t := if t.over_.isNone && (upFrom 0 4).all (fun d => (t.s.die d).fenced) then { t with over_ := some true } else t
  let ready := t.over_.isNone
  let t := if ready then t.row 6 0 0 0 else t
  let pending := match listGet fw (.invalid, ⟨0, 0, false, []⟩) t.s.hf.booted with
    | (.pending, i) => if ready then some i else none
    | _ => none
  let s := { t.s with
    halted := t.over_ == some true
    hf := { t.s.hf with
      boot := bootAfter t ready
      journal := (t.s.hf.journal ++ [t.rows]).drop (t.s.hf.journal.length + 1 - 8)
      firmware := firmwareAfter fw pending.isSome
      floor := match pending with
        | some i => if t.s.hf.floor.toNat < i.floor.toNat then i.floor else t.s.hf.floor
        | none => t.s.hf.floor
      marks := match pending with
        | some i => if i.clear then [] else t.s.hf.marks
        | none => t.s.hf.marks } }
  if ready then
    let live := (upFrom 0 4).filter (fun d => !(s.die d).fenced)
    .next { (upFrom 0 4).foldl (fun s d => s.modDie d (fun v => { v with heldReset := false })) s with
      master := live.headD 0 }
  else .next s

/-- R80: the journal and the retry states cleared through the mailbox. -/
def execJournalClear (s : State) : Host.Outcome State Fault Refusal :=
  .next { s with hf := { s.hf with journal := [], boot := [] } }

-- contexts (R76, R108)

/-- R76: the pending core marks of a die take effect, or fence it where HCNT would fall below 960. The contexts that run on a
retired core keep it. -/
def State.applyMarks (s : State) (die : Nat) : State :=
  let marked (n : Nat) : Bool := s.hf.marks.any (fun m => match m with | .core c => c == 1024 * die + n | .lane _ _ => false)
  let old := (s.die die).hmap
  let keep := (upFrom 0 1024).filter (fun n => old.getLsbD n && !marked n)
  if !(upFrom 0 1024).any (fun n => old.getLsbD n && marked n) then s
  else if keep.length < 960 then s.fenceDie die
  else
    let gone := (upFrom 0 1024).filter (fun n => old.getLsbD n && marked n)
    let users (n : Nat) : List (Nat × Nat) := (s.ctxs.filter (fun c => c.2.started && (c.2.logical (1024 * die + n)).isSome)).map (fun c => (c.1, n))
    s.modDie die (fun d => { d with
      hmap := keep.foldl (fun h n => h ||| BitVec.ofNat 1024 (2 ^ n)) 0, kept := d.kept ++ gone.flatMap users })

/-- R76, R108, R163, R350: a context starts: marks take effect on its dies, their variables are PLAIN, and it runs on each of its cores that is free; on a
core that another context uses it waits for Hoist. -/
def execContextStart (ctx : Nat) (s : State) : Host.Outcome State Fault Refusal :=
  let c := s.ctx ctx
  if 16 ≤ ctx || c.started then .next s
  else
    let s := ((upFrom 0 4).filter c.hasWin).foldl (fun s d => (s.applyMarks (c.physDie d)).plainVars ctx (c.physDie d)) s
    let cores := (c.enabled.filterMap c.phys).eraseDups
    let s := cores.foldl (fun s k =>
      if s.vacant k then s.modCore k (fun (v : Core) => { v with
        tenant := BitVec.ofNat 4 ctx, preemptdl := c.preemptdl, recastwait := c.recastwait
        role := 0, param := 0, recast := false, saved := tdel v.saved ctx })
      else s.modCore k (fun v => { v with
        saved := tset v.saved ctx { Saved.empty with preemptdl := c.preemptdl, recastwait := c.recastwait } })) s
    .next (s.modCtx ctx (fun c => { c with started := true }))

-- mailbox writes

/-- The rows of a start as the mailbox reads them: step, unit, mode and result (notes/assumptions/45.md). -/
def journalBytes (rows : List (Nat × Nat × Nat × Nat)) : List Byte :=
  rows.flatMap (fun r => toBytes r.1 1 ++ toBytes r.2.1 1 ++ toBytes r.2.2.1 1 ++ toBytes r.2.2.2 1)

/-- R166: the bits of a map entry that are not reserved. -/
def mapMask : BitVec 32 := 0x87FFFFFF

/-- R166, R168: a map entry written; open chunks whose probes read the old or the new page are squashed. -/
def execMapEntryWrite (core ctx idx : Nat) (entry : BitVec 32) (s : State) : Host.Outcome State Fault Refusal :=
  if 4096 ≤ core || 16 ≤ ctx || 64 ≤ idx then .next s
  else
    let old := tget (s.core core).pageMap 0 (64 * ctx + idx)
    let vpns := [bits old.toNat 19 0, bits entry.toNat 19 0]
    let hit (k : Nat) : Bool :=
      2 ^ 80 ≤ k && (k - 2 ^ 80) / 2 ^ 64 == core * 16 + ctx && gaSpace (k % 2 ^ 64) == spBM && vpns.contains (bits k 40 21)
    let lines := s.allSlots.flatMap (fun i => (s.slot i).chunks.flatMap (fun c => c.probes.filter hit))
    let s := s.modCore core (fun c => { c with pageMap := tset c.pageMap (64 * ctx + idx) (entry &&& mapMask) })
    .next (s.squashHits lines)

/-- R5, R46: the bits of a group's entry that are not reserved. -/
def groupMask : BitVec 256 :=
  BitVec.ofNat 256 (2 ^ 256 - 1 - 0xF000 - 0xFF * 2 ^ 56 - (2 ^ 48 - 1) * 2 ^ 80)

/-- A write through the mailbox to a configuration register; each constructor of Mailbox names its rule. Reserved bits
stay 0 (R5). The spec does not number the entries of the log and the journal: the model's reads count from the oldest one held
and answer no bytes beyond the last (notes/assumptions/36.md, 52.md). -/
def execMailboxWrite (m : Mailbox) (s : State) : Host.Outcome State Fault Refusal :=
  let ctx (c : Nat) (f : Ctx → Ctx) : Host.Outcome State Fault Refusal := if 16 ≤ c then .next s else .next (s.modCtx c f)
  match m with
  | .packageNumber n => .next { s with pkg := n }
  | .coreTable c die idx e =>
    if 4 ≤ die || 1024 ≤ idx then .next s
    else ctx c (fun v => { v with cte := tset v.cte (1024 * die + idx) (e &&& 0x8FFF) })
  | .window c die w => if 4 ≤ die then .next s else ctx c (fun v => { v with win := tset v.win die (w &&& 0x3F3F) })
  | .hostWindow c base limit => ctx c (fun v => { v with hostBase := base / 4096 * 4096, hostLimit := limit })
  | .reach c map => ctx c (fun v => { v with reach := map })
  | .domain c d => ctx c (fun v => { v with dctx := d })
  | .contextWaits c p r => ctx c (fun v => { v with preemptdl := p, recastwait := r })
  | .faultRing (some c) base => ctx c (fun v => { v with faults := { v.faults with base := base, set := true, prod := 0, cons := 0 } })
  | .faultRing none base => .next { s with tailings := { s.tailings with base := base, set := true, prod := 0, cons := 0 } }
  | .saveArea c off => ctx c (fun v => { v with saveOff := off })
  | .debugArm c on_ => ctx c (fun v => { v with debugArm := on_ })
  | .releaseCheck c on_ => ctx c (fun v => { v with releaseCheck := on_ })
  | .overflow die base novf nmail =>
    if 4 ≤ die || 65536 < nmail then .next s
    else .next (s.modDie die (fun d => { d with ovfBase := base, novf := novf, nmail := nmail }))
  | .route dst rsel port valid =>
    if 256 ≤ dst || 8 ≤ rsel then .next s else .next { s with routes := tset s.routes (dst * 8 + rsel) (port, valid) }
  | .group g cfg => if 256 ≤ g then .next s else .next (s.setGroup g ⟨cfg &&& groupMask, RedStep.empty, RedStep.empty⟩)
  | .redto n => .next { s with redto := n }
  | .readLog n => .next (s.replyWith (.data ((s.hf.log[n]?.map LogEntry.bytes).getD []) false))
  | .readJournal n => .next (s.replyWith (.data ((s.hf.journal[n]?.map journalBytes).getD []) false))

end Sys2Proof.Machine
end

