-- ==== Sys2Proof/Machine/HostPort.lean ====
section
/-!
DEFINITION. The host port: CXL.mem accesses (R55), command queues and their doorbells (R57 to R62), the packets (R60),
and assay images opened and sealed (R68 to R70, R394 to R396).
-/
namespace Sys2Proof.Machine

/-- R73: event codes of the host port. -/
def evHOSTPOISON : Nat := 0x0A
def evASEALBAD : Nat := 0x0B

-- CXL.mem (R55)

/-- R55: the physical core and BM offset of an HDM offset. -/
def hdmCore (h : Nat) : Nat := 1024 * bits h 38 37 + 32 * bits h 36 32 + bits h 31 27
def hdmOff (h : Nat) : Nat := bits h 26 0

/-- R55: whether a line is fused, fenced or beyond the core's BM, so that it reads as poison and its writes drop. -/
def State.poisoned (s : State) (h : Nat) : Bool :=
  let d := s.die (hdmCore h / 1024)
  d.fenced || !d.hmap.getLsbD (hdmCore h % 1024) || bufSize spBM ≤ hdmOff h

/-- R54, R55: a host access within one 64-byte line of the range. It has no chunk semantics, so it squashes nothing. A
read answers with as many bytes as `data` has, or with poison. -/
def execHostMemAccess (write : Bool) (addr : Nat) (data : List Byte) (s : State) : Host.Outcome State Fault Refusal :=
  if 2 ^ 39 ≤ addr || 64 < addr % 64 + data.length || data.isEmpty then .next s
  else if !write then
    let bad := s.poisoned addr
    .next { s with reply := some (.data (if bad then [] else s.bytes (pa spBM (hdmCore addr) (hdmOff addr)) data.length) bad) }
  else if s.poisoned addr then
    .next (s.logEvent evHOSTPOISON (hdmCore addr / 1024) noCtx (hdmCore addr % 1024) addr)
  else .next (s.rawWrite (cellsOf (pa spBM (hdmCore addr) (hdmOff addr)) data))

-- command queues (R57 to R59)

def State.queue (s : State) (ctx q : Nat) : Option Queue := tfind (s.ctx ctx).queues q
def State.setQueue (s : State) (ctx q : Nat) (v : Queue) : State :=
  s.modCtx ctx (fun c => { c with queues := tset c.queues q v })

/-- R57: the codes of a stop. -/
def ecBADTYPE : Nat := 1
def ecBADARG : Nat := 2
def ecBADTAIL : Nat := 3
def ecXLATE : Nat := 4
def ecBUSY : Nat := 5

/-- R58: a queue stopped with HEAD where it is. -/
def Queue.stop (v : Queue) (code : Nat) : Queue :=
  { v with err := true, ecode := BitVec.ofNat 8 code, packet := none, badTail := false }
def State.queueStop (s : State) (ctx q code : Nat) : State :=
  match s.queue ctx q with
  | none => s
  | some v => s.setQueue ctx q (v.stop code)

/-- R58: the packet is done and HEAD advances; a bad TAIL write during it stops the queue now. -/
def Queue.done (v : Queue) : Queue :=
  let v := { v with head := BitVec.ofNat 16 ((v.head.toNat + 1) % v.size), packet := none }
  if v.badTail then v.stop ecBADTAIL else v
def State.queueDone (s : State) (ctx q : Nat) : State :=
  match s.queue ctx q with
  | none => s
  | some v => s.setQueue ctx q v.done

/-- R57, R58: a TAIL write. -/
def execTail (ctx q : Nat) (v : BitVec 32) (s : State) : Host.Outcome State Fault Refusal :=
  match s.queue ctx q with
  | none => .next s
  | some u =>
    let t := bits v.toNat 15 0
    if u.size ≤ t then
      .next (s.setQueue ctx q (if u.packet.isSome then { u with badTail := true } else u.stop ecBADTAIL))
    else .next (s.setQueue ctx q { u with tail := BitVec.ofNat 16 t })

/-- R57: a write of STAT: ERR is cleared by a 1, and ECODE stays. -/
def execErr (ctx q : Nat) (v : BitVec 32) (s : State) : Host.Outcome State Fault Refusal :=
  match s.queue ctx q with
  | none => .next s
  | some u => if v.getLsbD 1 then .next (s.setQueue ctx q { u with err := false }) else .next s

/-- R57, R58, R94: a queue of 2^k entries configured through the mailbox. -/
def execQueueConfigure (ctx q base k : Nat) (s : State) : Host.Outcome State Fault Refusal :=
  if 16 ≤ ctx || 64 ≤ q || k < 4 || 16 < k then .next s
  else .next (s.setQueue ctx q { Queue.reset with run := true, base := base, size := 2 ^ k })

/-- A packet's fields (R59). -/
def pkType (p : List Byte) : Nat := byteAt p 0
def pkArg (p : List Byte) : Nat := byteAt p 1
def pkA (p : List Byte) : Nat := field p 8 8
def pkB (p : List Byte) : Nat := field p 16 8
def pkC (p : List Byte) : Nat := field p 24 8

/-- R59, R60: for each TYPE, the bits of ARG and the number of operands that it uses. -/
def pkUses (typ : Nat) : Option (Nat × Nat) :=
  match typ with
  | 1 => some (0, 1)
  | 2 => some (3, 3)
  | 3 => some (0, 2)
  | 4 => some (0xFF, 0)
  | 5 => some (0xFF, 0)
  | 6 => some (0, 1)
  | 7 => some (0, 1)
  | _ => none

/-- R59: whether everything that shall be 0 is. -/
def pkZeros (p : List Byte) (argMask operands : Nat) : Bool :=
  zeroBytes p 2 2 && zeroBytes p 32 32 && (pkArg p &&& argMask) == pkArg p
    && (0 < operands || pkA p == 0) && (1 < operands || pkB p == 0) && (2 < operands || pkC p == 0)

/-- R57: STAT.RUN, and the register STAT. -/
def Queue.running (u : Queue) : Bool := u.run && !u.err
def Queue.stat (u : Queue) : BitVec 32 := BitVec.ofNat 32 (u.running.toNat + 2 * u.err.toNat + 256 * u.ecode.toNat)

/-- R56, R58: whether the queue has a packet to fetch. -/
def State.fetchDue (s : State) (ctx : Nat) (u : Queue) : Bool :=
  (s.ctx ctx).started && u.running && u.packet.isNone && u.head != u.tail

/-- R56, R58, R59, R60: the next packet fetched through the context's host window, and its form checked. -/
def execPacketFetch (ctx q : Nat) (s : State) : Host.Outcome State Fault Refusal :=
  match s.queue ctx q with
  | none => .next s
  | some u =>
    if !s.fetchDue ctx u then .next s
    else match s.agentRead ctx (gaOf s.pkg.toNat 0 spHW (u.base + 64 * u.head.toNat)) 64 with
      | .error _ => .next (s.queueStop ctx q ecXLATE)
      | .ok p =>
        match pkUses (pkType p) with
        | none => .next (s.queueStop ctx q ecBADTYPE)
        | some (m, n) =>
          if pkZeros p m n then .next (s.setQueue ctx q { u with packet := some p, lastRead := none })
          else .next (s.queueStop ctx q ecBADARG)

/-- The packet of a type that a queue is processing. -/
def State.packetOf (s : State) (ctx q typ : Nat) : Option (Queue × List Byte) :=
  match s.queue ctx q with
  | none => none
  | some u => match u.packet with
    | some p => if pkType p == typ && !u.err then some (u, p) else none
    | none => none

/-- R60: whether an address operand is out of its range: its alignment, or a space other than BM and HW. -/
def badAddr (a align : Nat) : Bool := a % align != 0 || (gaSpace a != spBM && gaSpace a != spHW)

/-- R61, R62: whether a kernel that the queue launched still runs. -/
def State.queueRuns (s : State) (ctx q : Nat) : Bool := (s.ctx ctx).launches.any (fun l => l.2.host == some (ctx, q))
/-- R70: whether one runs that the queue, or a kernel of it through LAUNCH, launched. -/
def State.queueChainRuns (s : State) (ctx q : Nat) : Bool := (s.ctx ctx).launches.any (fun l => l.2.origin == some q)

/-- R60, R62, R93, R163, R390: LAUNCH. It waits for what it reads in other packages, and while no launch number is free. -/
def execLaunchPacket (ctx q : Nat) (s : State) : Host.Outcome State Fault Refusal :=
  match s.packetOf ctx q 1 with
  | none => .next s
  | some (u, p) =>
    if badAddr (pkA p) 256 then .next (s.queueStop ctx q ecBADARG)
    else
      let who : WdWho := .queue ctx q
      let rd := s.wdSee who ctx
      match s.wdNext who ctx ((pkA p, 256) :: (match rd (pkA p) 256 with | some r => roleNeeds rd r | none => [])) with
      | some s => .next s
      | none => match rd (pkA p) 256 with
        | none => .next ((s.wdDrop who).queueStop ctx q ecXLATE)
        | some r =>
          match s.wdLaunch ctx r (s.checkRecord who ctx r) (.host q) (max (byteAt r 4) u.level) u.weight (64 * ctx + q) with
          | (.malformed _ unread, _) => .next ((s.wdDrop who).queueStop ctx q (if unread then ecXLATE else ecBADARG))
          | (.busy, _) => .next s
          | (_, s) => .next ((s.wdDrop who).queueDone ctx q)

/-- R60: the comparison of WAITW, of the masked word and the masked value. -/
def waitwHolds (cond x y : Nat) : Bool :=
  match cond with
  | 0 => x == y
  | 1 => x != y
  | _ => y ≤ x

/-- R60, R61, R163: one read of WAITW's word, by a GET where it lies in another package. -/
def State.waitwRead (s : State) (ctx q : Nat) (u : Queue) (p : List Byte) : State :=
  let cond := pkArg p % 4
  if badAddr (pkA p) 8 || cond == 3 then s.queueStop ctx q ecBADARG
  else
    let who : WdWho := .queue ctx q
    match s.wdNext who ctx [(pkA p, 8)] with
    | some s => s
    | none => match s.wdSee who ctx (pkA p) 8 with
      | none => (s.wdDrop who).queueStop ctx q ecXLATE
      | some bs =>
        let s := s.wdDrop who
        if waitwHolds cond (fromBytes bs &&& pkC p) (pkB p &&& pkC p) then s.queueDone ctx q
        else s.setQueue ctx q { u with lastRead := some s.now }

def execWaitw (ctx q : Nat) (s : State) : Host.Outcome State Fault Refusal :=
  match s.packetOf ctx q 2 with
  | none => .next s
  | some (u, p) => if u.lastRead.isNone then .next (s.waitwRead ctx q u p) else .next s

/-- R61: the word is read again. -/
def execWaitwReread (ctx q : Nat) (s : State) : Host.Outcome State Fault Refusal :=
  match s.packetOf ctx q 2 with
  | none => .next s
  | some (u, p) => if u.lastRead.isNone then .next s else .next (s.waitwRead ctx q u p)

/-- R60, R61, R163: SIGW, in another package by a PUT, which is performed once it is acknowledged (R36). -/
def execSigw (ctx q : Nat) (s : State) : Host.Outcome State Fault Refusal :=
  match s.packetOf ctx q 3 with
  | none => .next s
  | some (u, p) =>
    if badAddr (pkA p) 8 then .next (s.queueStop ctx q ecBADARG)
    else if gaPkg (pkA p) != s.pkg.toNat then
      let settled (s : State) : State := s.setQueue ctx q { u with sent := none }
      match u.sent with
      | some id =>
        if (s.lostWrite [id]).isSome then .next ((settled s).queueStop ctx q ecXLATE)
        else if s.unackedWrite id then .next s
        else .next ((settled s).queueDone ctx q)
      | none =>
        if !s.coordOk ctx (pkA p) then .next (s.queueStop ctx q ecXLATE)
        else .next ((s.setQueue ctx q { u with sent := some s.nextWrite }).wdPut ctx (pkA p) (toBytes (pkB p) 8) 0)
    else match s.agentWrite ⟨ctx, 0, 0xFF, 0, 0, none⟩ (pkA p) (toBytes (pkB p) 8) with
      | .error _ => .next (s.queueStop ctx q ecXLATE)
      | .ok s => .next (s.queueDone ctx q)

/-- R60, R62: SETDET waits for the kernels that the queue launched before. -/
def execSetdet (ctx q : Nat) (s : State) : Host.Outcome State Fault Refusal :=
  match s.packetOf ctx q 4 with
  | none => .next s
  | some (u, p) =>
    if 2 < pkArg p then .next (s.queueStop ctx q ecBADARG)
    else if s.queueRuns ctx q then .next s
    else .next ((s.setQueue ctx q { u with level := pkArg p }).queueDone ctx q)

/-- R60, R62. -/
def execSetwt (ctx q : Nat) (s : State) : Host.Outcome State Fault Refusal :=
  match s.packetOf ctx q 5 with
  | none => .next s
  | some (u, p) =>
    if pkArg p = 0 then .next (s.queueStop ctx q ecBADARG)
    else .next ((s.setQueue ctx q { u with weight := pkArg p }).queueDone ctx q)

-- assay images (R68 to R70)

def adIMAGE (d : List Byte) : Nat := field d 0 8
def adSLOTS (d : List Byte) : Nat := field d 8 4
def adHANDLE (d : List Byte) : Nat := field d 12 4
def adSEALED (d : List Byte) : Nat := field d 16 8
def adSKEY (d : List Byte) : Nat := field d 32 16
def adTEXTD (d : List Byte) : Nat := field d 48 16

/-- R68: whether the fields of a descriptor are in range. -/
def State.descriptorOk (s : State) (d : List Byte) : Bool :=
  let here (a : Nat) : Bool := gaPkg a == s.pkg.toNat
  1 ≤ adSLOTS d && adSLOTS d ≤ 65536 && zeroBytes d 24 8
    && adIMAGE d % 16 == 0 && gaSpace (adIMAGE d) == spBM && here (adIMAGE d)
    && (adSEALED d == 0 || (!badAddr (adSEALED d) 16 && here (adSEALED d)))

/-- R68: the descriptor of an ALOAD or ASEAL, or the code of the stop. -/
def State.descriptor (s : State) (ctx a : Nat) : Except Nat (List Byte) :=
  if badAddr a 64 || gaPkg a != s.pkg.toNat then .error ecBADARG
  else match s.agentRead ctx a 64 with
    | .error _ => .error ecXLATE
    | .ok d => if s.descriptorOk d then .ok d else .error ecBADARG

/-- R69, R78: the tag of a sealed image: KMAC256 under the device key and the share key, or the tenant key. -/
def State.assayTag (s : State) (ctx skey textd : Nat) (slots : List Byte) : List Byte :=
  let k := if skey != 0 then toBytes skey 16 else toBytes (s.ctx ctx).key.toNat 32
  toBytes (kmac256 (deviceKey ++ k) (toBytes textd 16 ++ slots) 256
    [0x43, 0x4D, 0x34, 0x20, 0x41, 0x53, 0x53, 0x41, 0x59]) 32

/-- R69, R380: an image with every count field cleared. -/
def clearCounts (bs : List Byte) : List Byte :=
  (bs.zipIdx).map (fun e => if e.2 % 16 < 4 then e.1 else 0)

/-- R69: the image that a share key joins. -/
def State.sharedImage (s : State) (d : List Byte) : Option (Nat × AssayImage) :=
  if adSKEY d = 0 then none
  else s.images.find? (fun e => e.2.skey == adSKEY d && e.2.textd == adTEXTD d && e.2.slots == adSLOTS d)

/-- R69: what an opening ALOAD puts at IMAGE, and whether the sealed image was bad; or the code of the stop. -/
def State.openContents (s : State) (ctx : Nat) (d : List Byte) (live : List Byte) : Except Nat (List Byte × Bool) :=
  if adSEALED d = 0 then .ok (clearCounts live, false)
  else
    let n := 16 * adSLOTS d
    match s.agentRead ctx (adSEALED d) (n + 32) with
    | .error _ => .error ecXLATE
    | .ok b =>
      if s.assayTag ctx (adSKEY d) (adTEXTD d) (b.take n) == b.drop n then .ok (b.take n, false)
      else .ok (clearCounts live, true)

/-- R60, R69, R394, R395. -/
def execAload (ctx q : Nat) (s : State) : Host.Outcome State Fault Refusal :=
  match s.packetOf ctx q 6 with
  | none => .next s
  | some (_, p) =>
    let stop (code : Nat) : Host.Outcome State Fault Refusal := .next (s.queueStop ctx q code)
    match s.descriptor ctx (pkA p) with
    | .error code => stop code
    | .ok d =>
      match s.agentKeys ctx (gaSum (pkA p) 12) true 0 4 with
      | .error _ => stop ecXLATE
      | .ok hk =>
        let give (s : State) (h : Nat) : Host.Outcome State Fault Refusal :=
          .next ((s.write (s.uncut ctx (hk.zip (toBytes h 4)))).queueDone ctx q)
        match s.sharedImage d with
        | some (h, img) => give { s with images := tset s.images h { img with refs := img.refs ++ [ctx] } } h
        | none =>
          if 2 ^ 32 ≤ s.nextHandle then stop ecBUSY
          else match s.agentKeys ctx (adIMAGE d) true 0 (16 * adSLOTS d) with
            | .error _ => stop ecXLATE
            | .ok ks => match s.openContents ctx d (ks.map s.byte) with
              | .error code => stop code
              | .ok (bs, bad) =>
                let s := if bad then s.logEvent evASEALBAD 4 ctx q 0 else s
                let s := s.write (s.uncut ctx (ks.zip bs))
                let img : AssayImage := ⟨(upFrom 0 (adSLOTS d)).map (fun i => listGet ks 0 (16 * i)), adSLOTS d, adSKEY d,
                  adTEXTD d, [ctx], bs⟩
                give { s with images := tset s.images s.nextHandle img, nextHandle := s.nextHandle + 1 } s.nextHandle

/-- R70: whether a running kernel of any context names the handle. -/
def State.imageInUse (s : State) (h : Nat) : Bool :=
  s.ctxs.any (fun c => c.2.launches.any (fun l => field l.2.record 0x88 4 == h))

/-- R60, R70, R396: ASEAL waits for the kernels of its queue and those they launched. No running kernel names the image when
the caches are merged. An image on a fenced die cannot be read, which stops the queue (R8, notes/assumptions/55.md). -/
def execAseal (ctx q : Nat) (s : State) : Host.Outcome State Fault Refusal :=
  match s.packetOf ctx q 7 with
  | none => .next s
  | some (_, p) =>
    let stop (code : Nat) : Host.Outcome State Fault Refusal := .next (s.queueStop ctx q code)
    match s.descriptor ctx (pkA p) with
    | .error code => stop code
    | .ok d =>
      let h := adHANDLE d
      match tfind s.images h with
      | none => stop ecBADARG
      | some img =>
        if s.queueChainRuns ctx q then .next s
        else if s.imageInUse h then stop ecBUSY
        else if 1 < img.refs.length then
          .next ({ s with images := tset s.images h { img with refs := (if img.refs.contains ctx then img.refs.erase ctx else img.refs.drop 1) } }.queueDone ctx q)
        else
          let held (c : Core) : Bool := c.assay.any (fun a => a.handle == h) || c.merging.any (fun a => a.handle == h)
          let s := (s.cores.filter (fun c => held c.2)).foldl (fun s c => s.mergeCore c.1) s
          if adSEALED d = 0 then .next ({ s with images := tdel s.images h }.queueDone ctx q)
          else match s.agentKeys ctx (adSEALED d) true 0 (16 * img.slots + 32) with
            | .error _ => .next (s.queueStop ctx q ecXLATE)
            | .ok ks =>
              if img.pa.any s.lostCell then .next (s.queueStop ctx q ecXLATE) else
              let slots := img.pa.flatMap (fun k => s.bytes k 16)
              let out := slots ++ s.assayTag ctx img.skey img.textd slots
              .next (({ s.write (s.uncut ctx (ks.zip out)) with images := tdel s.images h }).queueDone ctx q)

/-- What a command queue has to do next, if its time has come (R58, R61): a fetch, its packet's step, or a re-read of
WAITW every 2 µs. -/
def State.queueDue (s : State) (ctx q : Nat) (u : Queue) : Option Instr :=
  match u.packet with
  | none => if s.fetchDue ctx u then some (.packetFetch ctx q) else none
  | some p =>
    match pkType p with
    | 1 => some (.launchPacket ctx q)
    | 2 => match u.lastRead with
      | none => some (.waitw ctx q)
      | some t => if t + 2600 ≤ s.now then some (.waitwReread ctx q) else none
    | 3 => some (.sigw ctx q)
    | 4 => some (.setdet ctx q)
    | 5 => some (.setwt ctx q)
    | 6 => some (.aload ctx q)
    | _ => some (.aseal ctx q)

-- fault rings (R149)

/-- R149: CONS advanced; a value beyond PROD is ignored. -/
def Ring.consume (r : Ring) (v : BitVec 32) : Ring :=
  if (r.prod - r.cons).toNat < (v - r.cons).toNat then r else { r with cons := v }

def execConsWrite (ctx : Option Nat) (v : BitVec 32) (s : State) : Host.Outcome State Fault Refusal :=
  match ctx with
  | none => .next { s with tailings := s.tailings.consume v }
  | some c => if 16 ≤ c then .next s else .next (s.modCtx c (fun c => { c with faults := c.faults.consume v }))

end Sys2Proof.Machine
end

