-- ==== Sys2Proof/Machine/Jig.lean ====
section
/-!
DEFINITION. The Jig engine of a die (R226 to R230, R343): commands, checks of shape-and-stride entries, passes token by
token, and JIGDONE.
-/
namespace Sys2Proof.Machine

-- entries (R227)

def jSCORES (r : List Byte) : Nat := field r 0 8
def jTSTR (r : List Byte) : Int := sfield r 8 4
def jESTR (r : List Byte) : Int := sfield r 12 4
def jNTOK (r : List Byte) : Nat := field r 16 4
def jNEXP (r : List Byte) : Nat := field r 20 2
def jK (r : List Byte) : Nat := byteAt r 22
def jBf (r : List Byte) : Bool := byteAt r 23 % 2 == 1
def jNorm (r : List Byte) : Nat := bits (byteAt r 23) 2 1
def jIDX (r : List Byte) : Nat := field r 24 8
def jWGT (r : List Byte) : Nat := field r 32 8
def jHIST (r : List Byte) : Nat := field r 40 8
def jSize (r : List Byte) : Nat := if jBf r then 2 else 4

/-- The offset of score (t, e) from SCORES. -/
def jScore (r : List Byte) (t e : Nat) : Int := t * jTSTR r + e * jESTR r

/-- R227, R230: whether an entry keeps R227. Every score is aligned when the first is and the strides that are used are
multiples of the element size. -/
def jigOk (pkg : Nat) (r : List Byte) : Bool :=
  let sp (ga : Nat) : Bool := gaPkg ga == pkg && [spLM, spAB, spBM].contains (gaSpace ga)
  let al (n : Int) : Bool := n % (jSize r : Int) == 0
  sp (jSCORES r) && sp (jIDX r) && sp (jWGT r) && sp (jHIST r)
    && 1 ≤ jNTOK r && jNTOK r ≤ 65536 && 1 ≤ jNEXP r && jNEXP r ≤ 256 && 1 ≤ jK r && jK r ≤ 8 && jK r ≤ jNEXP r
    && byteAt r 23 < 8 && jNorm r != 3 && jWGT r % 4 == 0 && jHIST r % 4 == 0 && zeroBytes r 48 16
    && al (jSCORES r : Nat) && (jNTOK r == 1 || al (jTSTR r)) && (jNEXP r == 1 || al (jESTR r))

-- commands

/-- R343: the entry's offset checked. -/
def jigCheck (off : Nat) : Option Cause :=
  if off % 64 ≠ 0 then some .align else if bufSize spLM < off + 64 then some .xlate else none

/-- The command as the engine takes it. -/
def State.jigCmd (s : State) (i : SlotId) (off : Nat) (pushed bad : Bool) : JCmd :=
  let m := s.slot i
  { issuer := i, off := off, record := if bad then [] else s.bytes (pa spLM i.core off) 64, pushed := pushed, bad := bad
    ctx := (s.core i.core).tenant.toNat, task := m.task.map (·.ref), checked := m.detlvl == 2 && !m.arch.sup
    tok := 0, hist := [], flags := 0, ended := false }

/-- R343: the queue of 64 commands of a die. -/
def State.jigFull (s : State) (die : Nat) : Bool := 64 ≤ (s.die die).jig.length
def State.addJig (s : State) (die : Nat) (c : JCmd) : State := s.modDie die (fun d => { d with jig := d.jig ++ [c] })

def execJig (sBit : Bool) (a : Reg) (s : State) : Host.Outcome State Fault Refusal :=
  issue s (Info.synch sBit 2 [codeG a] [] false 0x40A [s.g a]) none (fun s =>
    let off := (s.g a).toNat
    match jigCheck off with
    | some c => .trap c (s.g a)
    | none =>
      if s.me.outstanding ≥ 4 || s.jigFull (s.cur.core / 1024) then .park Wait.poll s
      else .done ((s.addJig (s.cur.core / 1024) (s.jigCmd s.cur off false false)).modMe
        (fun m => m.issueEngine kJIG true)))

/-- R343: a word pushed to a JIG endpoint. -/
def State.pushJig (s : State) (i : SlotId) (w : Word) : State :=
  let off := wbits w 15 0
  let bad := wbits w 63 16 != 0 || (jigCheck off).isSome
  (s.addJig (i.core / 1024) (s.jigCmd i off true bad)).modSlot i (fun m => m.issueEngine kJIG false)

/-- The cores at which a pass works: the issuing one, and those whose LM or AB the entry names. -/
def State.jigCores (s : State) (c : JCmd) : List Nat :=
  c.issuer.core :: [jSCORES c.record, jIDX c.record, jWGT c.record, jHIST c.record].filterMap (fun ga =>
    if gaSpace ga == spLM || gaSpace ga == spAB then (s.ctx c.ctx).phys (gaCore ga) else none)

/-- R155, R226: a pass begins only while none of its cores is away, and not once its context has stopped for a save: Hoist
keeps the command with its core (notes/assumptions/41.md). -/
def State.jigMayBegin (s : State) (c : JCmd) : Bool :=
  (s.jigCores c).all (fun k => !s.away k c.ctx) && !((s.ctx c.ctx).preempt.isSome && (s.coresOf c.ctx).all s.coreStopped)

/-- R226: the command whose pass runs or begins, in arrival order. -/
def State.jigTurn (s : State) (die : Nat) : Option JCmd :=
  (s.die die).jig.find? (fun c => c.begun || s.jigMayBegin c)

-- the pass (R228)

/-- RANK: whether score a goes before score b: a greater value, −0 equal to +0, a NaN below −∞. -/
def jigAbove (a b : Nat) : Bool := if fIsNan pFP32 a then false else if fIsNan pFP32 b then true else fLess pFP32 b a

/-- The expert first in RANK order among those not taken; equal ranks go to the lower index. -/
def jigBest (sc : List Nat) (taken : List Nat) : Nat :=
  ((sc.zipIdx).foldl (fun (best : Option (Nat × Nat)) e =>
    if taken.contains e.2 then best
    else match best with
      | none => some e
      | some b => if jigAbove e.1 b.1 then some e else some b) none).elim 0 Prod.snd

def jigTop (sc : List Nat) : Nat → List Nat → List Nat
  | 0, taken => taken
  | n + 1, taken => jigTop sc n (taken ++ [jigBest sc taken])

/-- The sum of a list in order, rounded at each step, from its first element. -/
def jigSum : List Nat → Nat × Fl
  | [] => (0, {})
  | x :: xs => xs.foldl (fun (r : Nat × Fl) p =>
      let (v, f) := fAdd pFP32 0 r.1 p
      (v, r.2.or f)) (x, {})

/-- R228: the weights of the selected scores. -/
def jigWeights (norm : Nat) (vs : List Nat) : List Nat × Fl :=
  let over_ (ps : List (Nat × Fl)) : List Nat × Fl :=
    let (sum, f) := jigSum (ps.map Prod.fst)
    let ws := ps.map (fun p => fDiv pFP32 0 p.1 sum)
    (ws.map Prod.fst, (ps ++ ws).foldl (fun f e => f.or e.2) f)
  match norm with
  | 0 => (vs, {})
  | 1 => over_ (vs.map (fun v =>
      let (u, f) := fSub pFP32 0 v (vs.headD 0)
      let (p, g) := fNatExp u
      (p, f.or g)))
  | _ => over_ (vs.map (fun v => (v, {})))

/-- A score as FP32 bits, BF16 widened exactly. -/
def jigScore (bf : Bool) (bs : List Byte) : Nat := if bf then fromBytes bs * 65536 else fromBytes bs

/-- The scores of one token. -/
def State.jigScores (s : State) (c : JCmd) (t : Nat) : Nat → Nat → Except (Cause × Nat) (List Nat)
  | _, 0 => .ok []
  | e, n + 1 =>
    let r := c.record
    match gaAdd (jSCORES r) (jScore r t e) with
    | none => .error (.xlate, gaSum (jSCORES r) (jScore r t e))
    | some ga => match s.agentRead c.ctx ga (jSize r) with
      | .error x => .error x
      | .ok bs => match s.jigScores c t (e + 1) n with
        | .ok l => .ok (jigScore (jBf r) bs :: l)
        | .error x => .error x

/-- The agent of a command, as its writes are checked and its records written. -/
def State.jigAgent (s : State) (c : JCmd) : Agent :=
  { s.agent c.issuer.core c.issuer.slot c.task c.checked with ctx := c.ctx }

/-- The owner of a pass's writes. -/
def JCmd.owner (c : JCmd) : WriteOwner := .engine c.issuer.core c.issuer.slot kJIG

/-- R189: a write of the pass, in units; one that the capability refuses is dropped with an ENGINE record (R172). -/
def State.jigWrite (s : State) (c : JCmd) (ga : Nat) (bs : List Byte) : Except (Cause × Nat) State :=
  match s.agentUnits (s.jigAgent c) c.owner ga bs with
  | .ok s => .ok s
  | .error (.capfault, at_) => .ok (s.agentRecord (s.jigAgent c) 1 Cause.capfault.code.toNat (w64 at_) 0)
  | .error e => .error e

/-- The index and weight outputs of one token. -/
def State.jigOutputs (s : State) (c : JCmd) : Nat → List (Nat × Nat) → Except (Cause × Nat) State
  | _, [] => .ok s
  | n, (x, w) :: rest =>
    let r := c.record
    let put (s : State) (ga : Nat) (off : Nat) (bs : List Byte) : Except (Cause × Nat) State :=
      match gaAdd ga off with
      | none => .error (.xlate, gaSum ga off)
      | some g => s.jigWrite c g bs
    match put s (jIDX r) n (toBytes x 1) with
    | .error e => .error e
    | .ok s => match put s (jWGT r) (4 * n) (toBytes w 4) with
      | .error e => .error e
      | .ok s => s.jigOutputs c (n + 1) rest

/-- R228: one token, once the writes of those before it are performed. -/
def State.jigToken (s : State) (c : JCmd) : Except (Cause × Nat) (State × JCmd) :=
  let s := s.landOwner c.owner
  let r := c.record
  match s.jigScores c c.tok 0 (jNEXP r) with
  | .error e => .error e
  | .ok sc =>
    let xs := jigTop sc (jK r) []
    let (ws, f) := jigWeights (jNorm r) (xs.map (listGet sc 0))
    match s.jigOutputs c (jK r * c.tok) (xs.zip ws) with
    | .error e => .error e
    | .ok s => .ok (s, { c with tok := c.tok + 1, flags := Nat.lor c.flags f.bits4
                                hist := xs.foldl (fun h x => listSet h x (listGet h 0 x + 1)) c.hist })

/-- R229: JIGDONE. -/
def jigdoneMsg (c : JCmd) (status : Nat) (cause : BitVec 8) (addr : Nat) : Msg :=
  ⟨w64 (0x13 + 2 ^ 16 * status + 2 ^ 24 * c.flags + 2 ^ 32 * (c.off % 65536) + 2 ^ 48 * cause.toNat), w64 c.tok, w64 addr, 0⟩

/-- R226, R229, R230: the pass ends: its writes are performed, its command leaves the queue and the completion is posted.
That of a sealed core is mail in full, however the pass was issued. -/
def State.jigEnd (s : State) (die : Nat) (c : JCmd) (status : Nat) (cause : BitVec 8) (addr : Nat) : State :=
  let s := (s.landOwner c.owner).modDie die (fun d => { d with jig := d.jig.drop 1 })
  let s := if status = 2 then s.agentRecord (s.jigAgent c) 1 cause.toNat (w64 addr) 0 else s
  let m := jigdoneMsg c status cause addr
  if c.pushed && (s.sealOf c.issuer.core c.ctx).isNone then s.postResult c.issuer 6 c.task (msgTo m c.issuer.slot).w0 else s.completion c.issuer c.task m

/-- R230: the histogram word addresses checked, then written. -/
def State.jigHist (s : State) (c : JCmd) : Except (Cause × Nat) State :=
  let ga := jHIST c.record
  let words := c.hist.zipIdx
  match words.findSome? (fun w => match gaAdd ga (4 * w.2 : Nat) with
      | none => some (Cause.xlate, gaSum ga (4 * w.2 : Nat))
      | some g => match s.agentKeys c.ctx g true 0 4 with
        | .error e => some e
        | .ok _ => none) with
  | some e => .error e
  | none => words.foldl (fun (r : Except (Cause × Nat) State) w => match r with
      | .error e => .error e
      | .ok s => s.jigWrite c (gaSum ga (4 * w.2 : Nat)) (toBytes w.1 4)) (.ok s)

/-- Tokens done one after another, at most so many. -/
def State.jigRun (s : State) (die : Nat) (c : JCmd) : Nat → State
  | 0 => s.modDie die (fun d => { d with jig := listSet d.jig 0 c })
  | n + 1 =>
    if c.ended then s.jigEnd die c 0 0 0
    else if jNTOK c.record ≤ c.tok then
      match (s.landOwner c.owner).jigHist c with
      | .ok s => State.jigRun s die { c with ended := true } n
      | .error (e, at_) => s.jigEnd die c 2 e.code at_
    else match s.jigToken c with
      | .ok (s, c) => State.jigRun s die c n
      | .error (e, at_) => s.jigEnd die c 2 e.code at_

/-- R228, R230: the engine's oldest command goes on, for at most `limit` tokens; 0 sets no limit. A fenced die's engine
does nothing. -/
def execJigPass (die limit : Nat) (s : State) : Host.Outcome State Fault Refusal :=
  match s.jigTurn die with
  | none => .next s
  | some c =>
    let s := s.modDie die (fun d => { d with jig := c :: d.jig.erase c })
    if (s.die die).fenced || (c.pushed && !c.begun && !s.resultRoom c.issuer 6 c.task) then .next s
    else if c.bad || !jigOk s.pkg.toNat c.record then .next (s.jigEnd die c 1 0 0)
    else
      let c := if c.tok = 0 then { c with hist := List.replicate (jNEXP c.record) 0, flags := 0 } else c
      .next (s.jigRun die c (if limit = 0 then jNTOK c.record + 1 else limit))

end Sys2Proof.Machine
end

