-- ==== Sys2Proof/Machine/Queue.lean ====
section
/-!
DEFINITION. QOP (R275, R116): pushes to and pops from queue registers, by the kind of their endpoint (R115).
-/
namespace Sys2Proof.Machine

/-- R116: a slot's open chunk closed, if an instruction stands in it. -/
def Slot.cutOpen (m : Slot) : Slot := m.modOpen (fun c => { c with closed := c.count != 0 })

/-- R116, R175: a push to a SEND endpoint; the word leaves with the chunk. One that found no allowance waits, and then
stands alone in a chunk of its own behind the slot's earlier ones (notes/assumptions/51.md). -/
def State.pushSend (s : State) (n : Nat) (w : Word) : Res :=
  let b := s.me.qreg n
  let waited := s.me.wait.any (·.counted)
  if b.dead then .trap .qdead (w64 n)
  else if b.allow = 0 || (waited && s.me.chunks.any (·.count != 0)) then
    .park (Wait.restartable (w64 n)) (s.modMe (·.cutOpen))
  else match s.sendTarget s.myCtx b with
    | none => .trap .qdead (w64 n)
    | some e =>
      let s := s.modQ s.cur n (fun b => { b with allow := b.allow - 1, sent := b.sent + 1 })
      let s := s.modMe (fun m => m.modOpen (fun c => { c with pushes := c.pushes ++ [⟨n, e, w, b.gen⟩] }))
      .done (if waited then s.modMe (·.endAfter) else s)

/-- R116, R329, R305, R339, R343: a push to an engine endpoint. -/
def State.pushEngine (s : State) (kind : Nat) (w : Word) : Res :=
  if 8 ≤ s.opsHeld s.cur kind then .park Wait.poll s
  else match kind with
    | 5 => .done (s.pushCopy s.cur w)
    | 6 => if s.jigFull (s.cur.core / 1024) then .park Wait.poll s else .done (s.pushJig s.cur w)
    | k => .done (s.modMe (fun m =>
        let m := m.setFifo k { (m.fifoOf k) with ops := (m.fifoOf k).ops ++ [w] }
        if k = 3 then { m with unacquired := m.unacquired ++ [kPUSH] } else m))

/-- R116, R153: a pop from a RECV endpoint. -/
def State.popRecv (s : State) (n : Nat) (a : Reg) : Res :=
  let b := s.me.qreg n
  match b.entries with
  | some w :: rest => .done ((s.modQ s.cur n (fun b => { b with entries := rest })).addRet (Ret.plain (codeG a) w))
  | none :: _ => .trap .qdead (w64 n)
  | [] => if b.dead then .trap .qdead (w64 n) else .park (Wait.restartable (w64 n)) s

/-- R192, R226, R329, R339: what popping a result word of an endpoint acquires. Words come in the order of the pushes, so
those of commands that an MWAIT has covered come first. -/
def State.acquirePopped (s : State) (kind : Nat) : State :=
  let m := s.me
  let mine := (s.myCore.tens.filter (fun t => t.slot == s.cur.slot && t.pushed)).length
  let words := (m.fifoOf 3).ops.length + (m.fifoOf 3).res.length + mine
  match kind with
  | 3 => if words ≤ m.unacquired.count kPUSH then s.modMe (·.acquireOne kPUSH) else s
  | 5 => s.modMe (·.acquireOne kCOPY)
  | 6 => s.modMe (·.acquireOne kJIG)
  | _ => s

/-- R116: a pop from an engine endpoint. -/
def State.popEngine (s : State) (kind n : Nat) (a : Reg) : Res :=
  let f := s.me.fifoOf kind
  match f.res with
  | w :: rest =>
    let s := (s.acquirePopped kind).modMe (fun m => m.setFifo kind { f with res := rest })
    .done (s.addRet (Ret.plain (codeG a) w))
  | [] => .park (Wait.restartable (w64 n)) s

def execQop (h : Hdr) (a : Reg) (q : BitVec 4) (pop : Bool) (s : State) : Host.Outcome State Fault Refusal :=
  let n := q.toNat
  let kind := (s.queueSlot.qreg n).kind.toNat
  let len := len0 h 0
  let bad := s.queueIllegal (kind = 0 || 7 ≤ kind || (if pop then kind == 1 else kind == 2)) n
  if pop then
    issue s (Info.synch h.s len [codeQ q] [codeG a] true 6 [w64 n]) bad
      (fun s => if kind = 2 then s.popRecv n a else s.popEngine kind n a)
  else if kind = 1 then
    if !s.hasRoom [] 1 then s.awaitRoom else
    issue s { Info.chunked h.s len [codeG a, codeQ q] [] with eff := some (7, [w64 n, s.g a]) } bad
      (fun s => s.pushSend n (s.g a))
  else
    issue s (Info.synch h.s len [codeG a, codeQ q] [] false 7 [w64 n, s.g a]) bad (fun s => s.pushEngine kind (s.g a))

end Sys2Proof.Machine
end

