-- ==== Sys2Proof/Machine/Tensor.lean ====
section
/-!
DEFINITION. Page 3 (R313 to R329) and the tensor engine (R207 to R225): slot state, acceptance and its checks, execution
of the matrix instructions, MZERO, MOUTL, MCKS, MCHK and MREL, retirement, pushed commands, and MWAIT.
-/
namespace Sys2Proof.Machine

-- configuration (R208, R209)

def tcAPITCH (tc : Word) : Nat := wbits tc 12 0
def tcCBASE (tc : Word) : Nat := wbits tc 28 16
def tcCPITCH (tc : Word) : Nat := wbits tc 44 32
def tcWKSTR (tc : Word) : Nat := wbits tc 57 48
/-- R209: the bits of TC that are not reserved. -/
def tcMask : Word := 0x03FF1FFF1FFF1FFF

/-- R209: a pitch is a multiple of 16 from 16 to 4,096. -/
def pitchOk (p : Nat) : Bool := p % 16 == 0 && 16 ≤ p && p ≤ 4096

/-- R207: the matrix majors. -/
def isMatrix (major : Nat) : Bool := 1 ≤ major && major ≤ 4
def isIntPair (major : Nat) : Bool := major == 1 || major == 2
/-- R314: the plane count of a form. -/
def planes (form : BitVec 4) : Nat := if form.toNat % 8 = 0 then 8 else form.toNat % 8
/-- R211: the bytes of TXK elements of A. -/
def rowBytes (major k : Nat) : Nat := if major = 1 then k else if major = 2 then ceilDiv k 2 else 2 * k
/-- R212: the distance of weight blocks, and the bytes of one that are read. -/
def blockSize (major : Nat) : Nat := if major = 3 then 512 else 256
def blockRead (major : Nat) (form : BitVec 4) : Nat := if major = 3 then 512 else 32 * planes form

def TCmd.nb (t : TCmd) : Nat := ceilDiv t.txn 16
def TCmd.kb (t : TCmd) : Nat := ceilDiv t.txk 16
def TCmd.base (t : TCmd) : Nat := 16 * tcCBASE t.tc
def TCmd.pitch (t : TCmd) : Nat := tcCPITCH t.tc

/-- R212, R215: the dense blocks as (kb, nb, WB offset): the skip list's packed blocks, or all with the stride WKSTR. -/
def TCmd.blocks (t : TCmd) : List (Nat × Nat × Nat) :=
  let bs := blockSize t.major
  match t.skip with
  | none => (upFrom 0 t.nb).flatMap (fun nb => (upFrom 0 t.kb).map (fun kb =>
      (kb, nb, t.opB + bs * (nb * tcWKSTR t.tc + kb))))
  | some es => (es.foldl (fun (acc : List (Nat × Nat × Nat) × Nat × Nat) (e : Nat × Nat) =>
      let hi := min (e.1 + e.2) t.kb
      let mine := (upFrom e.1 (hi - e.1)).map (fun kb => (kb, acc.2.1, t.opB + bs * (acc.2.2 + kb - e.1)))
      (acc.1 ++ mine, acc.2.1 + 1, acc.2.2 + (hi - e.1))) ([], 0, 0)).1

/-- R215, R225: the bytes of one row of A that are read: those of the K blocks that some column block does not skip. -/
def TCmd.rowRead (t : TCmd) : Nat :=
  (((upFrom 0 t.kb).filter (fun kb => t.blocks.any (fun b => b.1 == kb))).map
    (fun kb => rowBytes t.major (min 16 (t.txk - 16 * kb)))).foldl (· + ·) 0

-- acceptance checks (R223, R316)

def extentOk (t : TCmd) : Bool :=
  1 ≤ t.txm && t.txm ≤ 64 && 1 ≤ t.txn && t.txn ≤ 128 && 1 ≤ t.txk && t.txk ≤ 512
/-- Reason 2 for MZERO, MCKS and MREL. -/
def cpitchOk (t : TCmd) : Bool := pitchOk t.pitch && 4 * t.txn ≤ t.pitch
def configOk (t : TCmd) (stream : Bool) : Bool :=
  pitchOk (tcAPITCH t.tc) && cpitchOk t && rowBytes t.major t.txk ≤ tcAPITCH t.tc && (stream || t.kb ≤ tcWKSTR t.tc)
def arangeOk (t : TCmd) : Bool :=
  t.opA % 16 == 0 && t.opA + (t.txm - 1) * tcAPITCH t.tc + rowBytes t.major t.txk ≤ bufSize spAB
def brangeOk (t : TCmd) : Bool :=
  extentOk t && t.opB % 32 == 0 && t.blocks.all (fun b => b.2.2 + blockRead t.major t.form ≤ bufSize spWB)
def crangeOk (t : TCmd) : Bool := t.base + (t.txm - 1) * t.pitch + 4 * t.txn ≤ bufSize spCB
def mrelOk (t : TCmd) : Bool :=
  let e := if t.form.getLsbD 0 then 2 else 4
  t.opA % 16 == 0 && pitchOk t.opB && e * t.txn ≤ t.opB
    && t.opA + (t.txm - 1) * t.opB + e * t.txn ≤ bufSize spCB

/-- R223, R316: the first reason that fails, 0 if none does. `addr` is kS.ADDR of a matrix command that names a stream
register, and `on` whether checking is enabled as MCHK judges it. -/
def TCmd.reason (t : TCmd) (addr : Option Nat) (on : Bool) : Nat :=
  let first (cs : List (Nat × Bool)) : Nat := ((cs.find? (fun c => !c.2)).map Prod.fst).getD 0
  match t.major with
  | 0x07 => first [(1, extentOk t), (2, cpitchOk t), (5, crangeOk t)]
  | 0x09 => first [(7, t.opA % 8 == 0 && t.opB ≤ 256 && t.opA + 8 * t.opB ≤ bufSize spLM)]
  | 0x0A => if t.form.getLsbD 0 then 0 else first [(1, extentOk t), (2, cpitchOk t), (5, crangeOk t)]
  | 0x0B => first [(8, t.opA % 32 == 0 && t.opA + 32 ≤ bufSize spLM), (10, on)]
  | 0x0C => first [(1, extentOk t), (2, cpitchOk t), (5, crangeOk t), (9, mrelOk t)]
  | _ => match addr with
    | none => first [(1, extentOk t), (2, configOk t false), (3, arangeOk t), (4, brangeOk t), (5, crangeOk t)]
    | some a => first [(1, extentOk t), (2, configOk t true), (3, arangeOk t),
        (6, a % 2 == 0 && a + 2 * t.nb ≤ bufSize spLM), (4, brangeOk t), (5, crangeOk t)]

-- acceptance

/-- The command as its operands, form and slot give it, before its acceptance; skip-list entries are read if they lie
in LM (R214). -/
def State.tensCmd (s : State) (i : SlotId) (major : Nat) (form : BitVec 4) (opA opB c : Nat) (kS : Option (BitVec 2))
    (pushed : Bool) : TCmd :=
  let m := s.slot i
  let nb := ceilDiv m.arch.txn.toNat 16
  let addr := (kS.map (fun k => wbits (m.arch.getK k) 15 0)).getD 0
  { slot := i.slot, major := major, form := form, opA := opA, opB := opB
    scale := if isMatrix major then (m.arch.getF (BitVec.ofNat 5 c), m.arch.getF (BitVec.ofNat 5 (c + 1))) else m.scale
    txm := m.arch.txm.toNat, txn := m.arch.txn.toNat, txk := m.arch.txk.toNat, tc := m.arch.tc
    skip := if kS.isSome && nb ≤ 8 then some ((upFrom 0 nb).map (fun n =>
        (s.num (pa spLM i.core (addr + 2 * n)) 1, s.num (pa spLM i.core (addr + 2 * n + 1)) 1)))
      else kS.map (fun _ => [])
    outl := m.outl, act := if isMatrix major then !isIntPair major else m.mstat.getLsbD 16
    tol := m.arch.cktol, pushed := pushed, inject := none, executed := false, flags := 0, outcome := none, writes := [], landing := false
    after := none, checked := m.detlvl == 2 && !m.arch.sup, task := m.task.map (·.ref)
    life := (m.task.map (·.life)).getD 0 }

/-- R214: kS.ADDR advanced past the entries read. -/
def Slot.advanceK (m : Slot) (kS : Option (BitVec 2)) : Slot :=
  match kS with
  | some k =>
    let addr := wbits (m.arch.getK k) 15 0 + 2 * ceilDiv m.arch.txn.toNat 16
    m.setK k (w64 (addr % 2 ^ 16))
  | none => m

/-- R222: whether FINJ injects into this command, and the injection's row, column and bit. -/
def Core.injects (c : Core) (t : TCmd) : Option (Nat × Nat × Nat) :=
  if isMatrix t.major && c.finj.getLsbD 0 && !c.finjSeen && wbits c.finj 3 1 == t.slot then
    some (wbits c.finj 9 4, wbits c.finj 16 10, wbits c.finj 21 17)
  else none

/-- R216, R222, R315, R317, R322, R325: acceptance: the command joins the retire queue and the slot's state follows. The
stream register of a pushed command advances in both threads of a pair (R328). -/
def State.tensAccept (s : State) (i : SlotId) (t : TCmd) (kS : Option (BitVec 2)) : State :=
  let inj := (s.core i.core).injects t
  let s := s.modCore i.core (fun c => { c with
    tens := c.tens ++ [{ t with inject := inj }], finjSeen := c.finjSeen || inj.isSome })
  let s := match (if t.pushed then s.partner i else none) with
    | some j => s.modSlot j (fun m => m.advanceK kS)
    | none => s
  s.modSlot i (fun m =>
    let m := m.advanceK kS
    let m := if t.pushed then m else { m with unacquired := m.unacquired ++ [kTENS] }
    match t.major with
    | 0x07 => m
    | 0x09 => { m with outl := some (t.opA, t.opB) }
    | 0x0A => { m with checkOn := !t.form.getLsbD 0 }
    | 0x0B => m
    | 0x0C => m
    | _ => { m with outl := none, scale := t.scale
                    mstat := (m.mstat &&& ~~~(0x10000 : Word)) ||| (if t.act then 0x10000 else 0) })

/-- R224: whether a slot's retire queue of 8 has no entry free. -/
def State.tensFull (s : State) (i : SlotId) : Bool :=
  8 ≤ ((s.core i.core).tens.filter (fun t => t.slot == i.slot)).length

/-- R316: XVAL of TENSOR. -/
def tensorXval (reason major : Nat) : Word := w64 (reason + 256 * major)

/-- R122, R328: what a redundant pair compares of a tensor command. -/
def Slot.tensArgs (m : Slot) (matrix : Bool) (opA opB c : Nat) (form : BitVec 4) (kS : Option (BitVec 2)) : List Word :=
  [w64 opA, w64 opB, m.arch.txm.setWidth 64, m.arch.txn.setWidth 64, m.arch.txk.setWidth 64, m.arch.tc,
    form.setWidth 64, (kS.map m.arch.getK).getD 0, (kS.map (fun k => k.setWidth 64 + 1)).getD 0]
  ++ (if matrix then [(m.arch.getF (BitVec.ofNat 5 c)).setWidth 64, (m.arch.getF (BitVec.ofNat 5 (c + 1))).setWidth 64] else [])

/-- R317, R321 to R325: an engine command of page 3 issued. The trailing thread of a pair only advances its own stream
register (R328). -/
def tensorCommand (sBit : Bool) (len major : Nat) (form : BitVec 4) (a b : Option Reg) (c : Reg)
    (kS : Option (BitVec 2)) (s : State) : Host.Outcome State Fault Refusal :=
  let opA := ((a.map s.g).getD 0).toNat
  let opB := ((b.map s.g).getD 0).toNat
  let regs := (a.map codeG).toList ++ (b.map codeG).toList
    ++ (if isMatrix major then [codeF c, codeF (c + 1)] else []) ++ (kS.map codeK).toList
  issue s { Info.synch sBit len regs (kS.map codeK).toList false (0x300 + major)
      (s.me.tensArgs (isMatrix major) opA opB c.toNat form kS) with both := true } none (fun s =>
    if s.me.task.any (·.trailing) then .done (s.modMe (fun m => m.advanceK kS))
    else if s.tensFull s.cur || !(s.me.fifoOf 3).ops.isEmpty then
      .park { Wait.poll with queueFull := s.tensFull s.cur } s
    else
      let t := s.tensCmd s.cur major form opA opB c.toNat kS false
      match t.reason (kS.map (fun k => wbits (s.me.arch.getK k) 15 0)) s.me.checkOn with
      | 0 => .done (s.tensAccept s.cur t kS)
      | r => .trap .tensor (tensorXval r major))

def execMmI8P (h : Hdr) (a b c : Reg) (pl : BitVec 3) (k : Option (BitVec 2)) (s : State) :
    Host.Outcome State Fault Refusal :=
  tensorCommand h.s (lenP h.rgx (k.map (fun _ => 1)).toList.length) 1 (pl.setWidth 4) (some a) (some b) c k s
def execMmI4P (h : Hdr) (a b c : Reg) (pl : BitVec 3) (k : Option (BitVec 2)) (s : State) :
    Host.Outcome State Fault Refusal :=
  tensorCommand h.s (lenP h.rgx (k.map (fun _ => 1)).toList.length) 2 (pl.setWidth 4) (some a) (some b) c k s
def execMmBFB (h : Hdr) (a b c : Reg) (pl : BitVec 3) (k : Option (BitVec 2)) (s : State) :
    Host.Outcome State Fault Refusal :=
  tensorCommand h.s (lenP h.rgx (k.map (fun _ => 1)).toList.length) 3 (pl.setWidth 4) (some a) (some b) c k s
def execMmBFP (h : Hdr) (a b c : Reg) (pl : BitVec 3) (k : Option (BitVec 2)) (s : State) :
    Host.Outcome State Fault Refusal :=
  tensorCommand h.s (lenP h.rgx (k.map (fun _ => 1)).toList.length) 4 (pl.setWidth 4) (some a) (some b) c k s
def execMzero (sBit : Bool) (s : State) : Host.Outcome State Fault Refusal :=
  tensorCommand sBit 2 0x07 0 none none 0 none s
def execMoutl (sBit : Bool) (a b : Reg) (s : State) : Host.Outcome State Fault Refusal :=
  tensorCommand sBit 2 0x09 0 (some a) (some b) 0 none s
def execMcks (h : Hdr) (off : Bool) (s : State) : Host.Outcome State Fault Refusal :=
  tensorCommand h.s (lenP h.rgx 0) 0x0A (if off then 1 else 0) none none 0 none s
def execMchk (sBit : Bool) (a : Reg) (s : State) : Host.Outcome State Fault Refusal :=
  tensorCommand sBit 2 0x0B 0 (some a) none 0 none s
def execMrel (h : Hdr) (a b : Reg) (bf zr : Bool) (s : State) : Host.Outcome State Fault Refusal :=
  tensorCommand h.s (lenP h.rgx 0) 0x0C (BitVec.ofNat 4 (bf.toNat + 2 * zr.toNat)) (some a) (some b) 0 none s

-- slot state (R318 to R320)

/-- R318: the plain form takes the extents from a register, `.id` from ID.EM, ID.EN and ID.EK. -/
def execMsetx (h : Hdr) (a : Reg) (id : Bool) (s : State) : Host.Outcome State Fault Refusal :=
  issue s (Info.chunked h.s (lenP h.rgx 0) (if id then [] else [codeG a]) []) none (fun s =>
    let v := (s.g a).toNat
    let ids (n : Nat) : BitVec 32 := ((s.me.ids[n]?).getD 0).setWidth 32
    .done (s.modArch (fun r => if id then { r with txm := ids 6, txn := ids 7, txk := ids 8 }
      else { r with txm := BitVec.ofNat 32 (bits v 15 0), txn := BitVec.ofNat 32 (bits v 31 16)
                    txk := BitVec.ofNat 32 (bits v 47 32) })))

def execMsetc (sBit : Bool) (a : Reg) (s : State) : Host.Outcome State Fault Refusal :=
  issue s (Info.chunked sBit 2 [codeG a] []) none (fun s =>
    let v := s.g a
    .done (s.modArch (fun r => { r with tc := v &&& tcMask })))

def execMskip (sBit : Bool) (k : BitVec 2) (b : Reg) (s : State) : Host.Outcome State Fault Refusal :=
  issue s (Info.chunked sBit 2 [codeG b] [codeK k]) none (fun s => .done (s.setK k (s.g b &&& 0xFFFF)))

/-- R326, R192: MWAIT. -/
def execMwait (sBit : Bool) (s : State) : Host.Outcome State Fault Refusal :=
  issue s (Info.synch sBit 2 [] [] false 0x30D []) none (fun s =>
    if s.myCore.tens.any (fun t => t.slot == s.cur.slot) || !(s.me.fifoOf 3).ops.isEmpty then .park Wait.poll s
    else .done (s.modMe (fun m => { m with unacquired := m.unacquired.filter (fun k => k != kTENS && k != kPUSH) })))

-- execution of a matrix instruction (R217)

/-- R211: A[m, k] as an exact value, with the mark of R198. -/
def State.tensA (s : State) (core : Nat) (t : TCmd) (m k : Nat) : FV × Bool :=
  let row := t.opA + m * tcAPITCH t.tc
  match t.major with
  | 1 => (fvInt (sext 8 (s.num (pa spAB core (row + k)) 1)), false)
  | 2 =>
    let b := s.num (pa spAB core (row + k / 2)) 1
    (fvInt (sext 4 (if k % 2 = 0 then b else b / 16)), false)
  | _ => bfEl (s.num (pa spAB core (row + 2 * k)) 2)

/-- R194, R212: the weight at (kk, nn) of the block at a WB offset, with the mark of R198. -/
def State.tensW (s : State) (core : Nat) (t : TCmd) (off kk nn : Nat) : FV × Bool :=
  let i := 16 * kk + nn
  if t.major = 3 then bfEl (s.num (pa spWB core (off + 2 * i)) 2)
  else
    let n := planes t.form
    let code := (upFrom 0 n).foldl (fun v j => 2 * v + s.num (pa spWB core (off + 32 * j + i / 8)) 1 / 2 ^ (i % 8) % 2) 0
    (fvInt (bpWeight n code), false)

/-- The key of an accumulator at a place. -/
def accKey (core base pitch m n : Nat) : Nat := pa spCB core (base + m * pitch + 4 * n)

/-- A dense row-major grid of numbers, with what lies outside as 0. -/
abbrev Grid (α : Type) := List (List α)
def gridGet {α : Type} (g : Grid α) (d : α) (m n : Nat) : α := listGet (listGet g [] m) d n
def gridSet {α : Type} (g : Grid α) (m n : Nat) (v : α) : Grid α := listSet g m (listSet (listGet g [] m) n v)
def gridOf {α : Type} (rows cols : Nat) (f : Nat → Nat → α) : Grid α :=
  (upFrom 0 rows).map (fun m => (upFrom 0 cols).map (f m))

/-- The accumulators of a tile. -/
def State.accs (s : State) (core base pitch rows cols : Nat) : Grid Nat :=
  gridOf rows cols (fun m n => s.num (accKey core base pitch m n) 4)
/-- The cells of a tile's new accumulators. -/
def accCells (core base pitch : Nat) (g : Grid Nat) : List (Nat × Byte) :=
  (g.zipIdx).flatMap (fun r => (r.1.zipIdx).flatMap (fun c => cellsOf (accKey core base pitch r.2 c.2) (toBytes c.1 4)))

/-- UPD of R217. -/
def upd (int : Bool) (acc : Nat) (v : FV) : Nat × Fl :=
  if int then (match v with
    | .fin sg m e => (updI acc (rneInt sg m e), {})
    | _ => (acc, {}))
  else updF acc v

/-- The operands of a matrix instruction: A′, and W of every dense block by (kb, nb), with the marks of R198: those of A by
element, for an element counts only where it is read. -/
structure TensIn where
  a : Grid FV
  w : List ((Nat × Nat) × Grid FV)
  za : Grid Bool
  zw : Bool
  deriving DecidableEq, Repr

/-- R203, R211, R212: the operands read; elements beyond the extents take no part. -/
def State.tensIn (s : State) (core : Nat) (t : TCmd) : TensIn :=
  let a := gridOf t.txm t.txk (s.tensA core t)
  let w := t.blocks.map (fun b => ((b.1, b.2.1),
    gridOf (min 16 (t.txk - 16 * b.1)) (min 16 (t.txn - 16 * b.2.1)) (s.tensW core t b.2.2)))
  { a := a.map (fun r => r.map Prod.fst), w := w.map (fun b => (b.1, b.2.map (fun r => r.map Prod.fst)))
    za := a.map (fun r => r.map Prod.snd), zw := w.any (fun b => b.2.any (fun r => r.any Prod.snd)) }

/-- B*: the weight at row k and column n, 0 in a skipped block. -/
def TensIn.b (x : TensIn) (k n : Nat) : FV :=
  match x.w.find? (fun e => e.1 == (k / 16, n / 16)) with
  | some e => gridGet e.2 (.fin false 0 0) (k % 16) (n % 16)
  | none => .fin false 0 0
def TensIn.el (x : TensIn) (m k : Nat) : FV := gridGet x.a (.fin false 0 0) m k

/-- R203, R217 stage 1: one accumulator over its dense K blocks in ascending order. -/
def stage1 (t : TCmd) (x : TensIn) (m n acc : Nat) : Nat × Fl :=
  (upFrom 0 t.kb).foldl (fun (r : Nat × Fl) kb =>
    if x.w.any (fun e => e.1 == (kb, n / 16)) then
      let v := fvSum ((upFrom (16 * kb) (min 16 (t.txk - 16 * kb))).map (fun k => fvMul (x.el m k) (x.b k n)))
      if isIntPair t.major then ((upd true r.1 v).1, r.2)
      else
        let (sv, f) := fvRound v
        let (u, g) := updF r.1 (fDecode pFP32 sv)
        (u, (r.2.or f).or g)
    else r) (acc, {})

/-- An applied outlier: its row, its column and d. -/
structure Outlier where
  k : Nat
  n : Nat
  d : FV
  deriving DecidableEq, Repr

/-- R216: the entries of the bound list that are not ignored, whether one was invalid, and the mark of R198. -/
def State.outliers (s : State) (core : Nat) (t : TCmd) (x : TensIn) : List Outlier × Bool × Bool :=
  match t.outl with
  | none => ([], false, false)
  | some (off, cnt) => (upFrom 0 cnt).foldl (fun (acc : List Outlier × Bool × Bool) j =>
      let e := s.bytes (pa spLM core (off + 8 * j)) 8
      let k := field e 0 2
      let n := field e 2 2
      if t.txk ≤ k || t.txn ≤ n then acc
      else
        let (v, z) := bfEl (field e 4 2)
        if isIntPair t.major && (outlierInt v).isNone then (acc.1, true, acc.2.2 || z)
        else (acc.1 ++ [⟨k, n, fvAdd v (fvNeg (x.b k n))⟩], acc.2.1, acc.2.2 || z)) ([], false, false)

/-- R217 stage 2: the outliers in list order. -/
def stage2 (t : TCmd) (x : TensIn) (os : List Outlier) (g : Grid Nat) : Grid Nat × Fl :=
  os.foldl (fun (r : Grid Nat × Fl) o =>
    (upFrom 0 t.txm).foldl (fun (r : Grid Nat × Fl) m =>
      let (v, f) := upd (isIntPair t.major) (gridGet r.1 0 m o.n) (fvMul (x.el m o.k) o.d)
      (gridSet r.1 m o.n v, r.2.or f)) r) (g, {})

/-- R218: one expected sum of stage 3: RNE(old + RNE(v)). -/
def expect (old : Single) (v : FV) : Single × Fl :=
  let (r, f) := fvRound v
  let (u, g) := updF old.toNat (fDecode pFP32 r)
  (BitVec.ofNat 32 u, f.or g)

/-- R217 stage 3: the expected sums updated from the inputs alone. -/
def stage3 (t : TCmd) (x : TensIn) (os : List Outlier) (c : Check) : Check × Fl :=
  let ms := min t.txm c.m
  let ns := min t.txn c.n
  let b (k n : Nat) : FV := os.foldl (fun v o => if o.k == k && o.n == n then fvAdd v o.d else v) (x.b k n)
  let rowB := (upFrom 0 t.txk).map (fun k => fvSum ((upFrom 0 ns).map (fun n => b k n)))
  let colA := (upFrom 0 t.txk).map (fun k => fvSum ((upFrom 0 ms).map (fun m => x.el m k)))
  let sumOver (f : Nat → FV) : FV := fvSum ((upFrom 0 t.txk).map f)
  let rs := (upFrom 0 ms).map (fun m =>
    expect (listGet c.rexp 0 m) (sumOver (fun k => fvMul (x.el m k) (listGet rowB (.fin false 0 0) k))))
  let cs := (upFrom 0 ns).map (fun n =>
    expect (listGet c.cexp 0 n) (sumOver (fun k => fvMul (listGet colA (.fin false 0 0) k) (b k n))))
  ({ c with rexp := rs.map Prod.fst ++ c.rexp.drop ms, cexp := cs.map Prod.fst ++ c.cexp.drop ns },
    (rs ++ cs).foldl (fun f e => f.or e.2) {})

/-- R198, R203, R215: whether a subnormal of A is read: by a dense block, by an outlier, or by the expected sums, which take
every k; a block that every column block skips reads nothing. -/
def zinA (t : TCmd) (x : TensIn) (os : List Outlier) (ck : Option Check) : Bool :=
  (x.za.zipIdx).any (fun r => (r.1.zipIdx).any (fun e => e.1 &&
    (x.w.any (fun b => b.1.1 == e.2 / 16) || os.any (fun o => o.k == e.2) || ck.any (fun c => r.2 < min t.txm c.m))))

/-- What executing a command comes to: the cells written, the checksum state after it, its MSTAT flags, MCHK's outcome
and the cycles it occupies the engine. -/
structure TensOut where
  cells : List (Nat × Byte)
  after : Option Check
  flags : Nat
  outcome : Option Nat
  cycles : Nat
  deriving DecidableEq, Repr

/-- R207: the MAC rate of a matrix instruction. -/
def macRate (major : Nat) (form : BitVec 4) : Nat :=
  let n := planes form
  let r := if n = 2 then 8192 else if n ≤ 4 then 4096 else 2048
  if major = 1 then r else if major = 2 then 2 * r else 512

/-- R217, R222, R225: a matrix instruction. -/
def State.matrixRun (s : State) (core : Nat) (t : TCmd) (ck : Option Check) : TensOut :=
  let x := s.tensIn core t
  let acc := s.accs core t.base t.pitch t.txm t.txn
  let one := gridOf t.txm t.txn (fun m n => stage1 t x m n (gridGet acc 0 m n))
  let f1 := one.foldl (fun f r => r.foldl (fun f (e : Nat × Fl) => f.or e.2) f) ({} : Fl)
  let (os, bad, zo) := s.outliers core t x
  let (g, f2) := stage2 t x os (one.map (fun r => r.map Prod.fst))
  let (after, f3) : Option Check × Fl := match ck with
    | some c => let (c', f) := stage3 t x os c
                (some c', f)
    | none => (none, {})
  let g := match t.inject with
    | some (m, n, b) => if m < t.txm && n < t.txn then gridSet g m n (Nat.xor (gridGet g 0 m n) (2 ^ b)) else g
    | none => g
  let fl := ((f1.or f2).or f3).or { nv := bad }
  let d := t.blocks.length
  let c := ceilDiv (256 * t.txm * d) (macRate t.major t.form)
  let f := ceilDiv (d * blockRead t.major t.form + t.txm * t.rowRead) 256
  ⟨accCells core t.base t.pitch g, after, fl.bits4 + 16 * (x.zw || zinA t x os ck || zo).toNat, none,
    max c f + os.length * ceilDiv t.txm 16 + 16⟩

-- the other commands

/-- R218: the expected sums at +0. -/
def Check.zeroed (c : Check) : Check := { c with rexp := c.rexp.map (fun _ => 0), cexp := c.cexp.map (fun _ => 0) }

/-- The sum over row m or column n of a grid of accumulators. -/
def gridRow (g : Grid Nat) (m : Nat) : List Nat := listGet g [] m
def gridCol (g : Grid Nat) (n : Nat) : List Nat := g.map (fun r => listGet r 0 n)

/-- R218, R323: MCKS. -/
def State.mcksRun (s : State) (core : Nat) (t : TCmd) : TensOut :=
  if t.form.getLsbD 0 then ⟨[], none, 0, none, 1⟩
  else
    let g := s.accs core t.base t.pitch t.txm t.txn
    let rs := (upFrom 0 t.txm).map (fun m => ckSum t.act (gridRow g m))
    let cs := (upFrom 0 t.txn).map (fun n => ckSum t.act (gridCol g n))
    let fl := (rs ++ cs).foldl (fun f e => f.or e.2) ({} : Fl)
    ⟨[], some ⟨t.slot, t.life, t.txm, t.txn, t.base, t.pitch, rs.map (fun e => BitVec.ofNat 32 e.1),
        cs.map (fun e => BitVec.ofNat 32 e.1)⟩, fl.bits4, none, 8 + ceilDiv (4 * t.txm * t.txn) 256⟩

/-- R220, R221, R324: MCHK on the checksum state c. -/
def State.mchkRun (s : State) (core : Nat) (t : TCmd) (c : Check) : TensOut :=
  let g := s.accs core c.base c.pitch c.m c.n
  let rs := (upFrom 0 c.m).map (fun m => ckSum t.act (gridRow g m))
  let cs := (upFrom 0 c.n).map (fun n => ckSum t.act (gridCol g n))
  let ract (m : Nat) : Nat := (listGet rs (0, {}) m).1
  let cact (n : Nat) : Nat := (listGet cs (0, {}) n).1
  let rexp (m : Nat) : Nat := (listGet c.rexp 0 m).toNat
  let cexp (n : Nat) : Nat := (listGet c.cexp 0 n).toNat
  let rows := (upFrom 0 c.m).filter (fun m => !ckPass (ract m) (rexp m) t.tol)
  let cols := (upFrom 0 c.n).filter (fun n => !ckPass (cact n) (cexp n) t.tol)
  let i := rows.headD 0
  let j := cols.headD 0
  let diff (e a : Nat) : FV := fvAdd (fDecode pFP32 e) (fvNeg (fDecode pFP32 a))
  let r := diff (rexp i) (ract i)
  let (rres, fr) : Nat × Fl := if rows.isEmpty then (0, {}) else fvRound r
  let (cres, fc) : Nat × Fl := if cols.isEmpty then (0, {}) else fvRound (diff (cexp j) (cact j))
  let sums := (rs ++ cs).foldl (fun f e => f.or e.2) ((fr.or fc) : Fl)
  let old := gridGet g 0 i j
  -- the outcome, the corrected value and whether it stays, and the flags of the correction
  let (out, new, kept, f2) : Nat × Nat × Bool × Fl :=
    if rows.isEmpty && cols.isEmpty then (0, 0, false, {})
    else if rows.length = 1 && cols.length = 1 then
      match r with
      | .fin sg m e =>
        let (new, fn) : Nat × Fl := if t.act then updF old r else (updI old (rneInt sg m e), {})
        let g' := gridSet g i j new
        let (ra, f3) := ckSum t.act (gridRow g' i)
        let (ca, f4) := ckSum t.act (gridCol g' j)
        let ok := ckPass ra (rexp i) t.tol && ckPass ca (cexp j) t.tol
        (if ok then 1 else 4, new, ok, (fn.or f3).or f4)
      | _ => (4, old, false, {})
    else if !rows.isEmpty && !cols.isEmpty then (2, 0, false, {})
    else (3, 0, false, {})
  let shown := out == 1 || out == 4
  let record := toBytes (out + 2 ^ 8 * rows.length + 2 ^ 16 * cols.length + 2 ^ 24 * i + 2 ^ 32 * j) 8
    ++ toBytes rres 4 ++ toBytes cres 4 ++ toBytes (if shown then old else 0) 4 ++ toBytes (if shown then new else 0) 4
    ++ List.replicate 8 0
  ⟨(if kept then cellsOf (accKey core c.base c.pitch i j) (toBytes new 4) else [])
      ++ cellsOf (pa spLM core t.opA) record,
    some c, (sums.or f2).bits4, some out, 8 + ceilDiv (4 * c.m * c.n) 256 + (if shown then 8 else 0)⟩

/-- R204, R325: MREL. -/
def State.mrelRun (s : State) (core : Nat) (t : TCmd) (ck : Option Check) : TensOut :=
  let g := s.accs core t.base t.pitch t.txm t.txn
  let bf := t.form.getLsbD 0
  let zr := t.form.getLsbD 1
  let one (acc : Nat) : Nat × Fl :=
    let (x, f0) : Nat × Fl := if t.act then (acc, {}) else fOfInt pFP32 0 (sext 32 acc)
    let (y, f1) := relMul x t.scale.1.toNat
    let (v, f2) := relMul y t.scale.2.toNat
    let (o, f3) : Nat × Fl := if bf then fNarrow 0 v else (v, {})
    (o, ((f0.or f1).or f2).or f3)
  let out := g.map (fun r => r.map one)
  let e := if bf then 2 else 4
  let fl := out.foldl (fun f r => r.foldl (fun f (v : Nat × Fl) => f.or v.2) f) ({} : Fl)
  let cells := (out.zipIdx).flatMap (fun r => (r.1.zipIdx).flatMap (fun v =>
    cellsOf (pa spCB core (t.opA + r.2 * t.opB + e * v.2)) (toBytes v.1.1 e)))
  ⟨(if zr then accCells core t.base t.pitch (g.map (fun r => r.map (fun _ => 0))) else []) ++ cells,
    if zr then ck.map Check.zeroed else ck, fl.bits4, none, 8 + 2 * ceilDiv (4 * t.txm * t.txn) 256⟩

/-- R217 to R225, R321 to R325, R327: a command executed. -/
def State.tensRun (s : State) (core : Nat) (t : TCmd) (ck : Option Check) : TensOut :=
  match t.major with
  | 0x07 => ⟨accCells core t.base t.pitch (gridOf t.txm t.txn (fun _ _ => 0)), ck.map Check.zeroed, 0, none,
      4 + ceilDiv (4 * t.txm * t.txn) 256⟩
  | 0x09 => ⟨[], ck, 0, none, 1⟩
  | 0x0A => s.mcksRun core t
  | 0x0B => match ck with
    | some c => s.mchkRun core t c
    | none => ⟨[], none, 0, none, 8⟩
  | 0x0C => s.mrelRun core t ck
  | _ => s.matrixRun core t ck

/-- The checksum state that a command of a slot and task finds (R218). -/
def Core.checkOf (c : Core) (t : TCmd) : Option Check := c.checks.find? (fun k => k.slot == t.slot && k.life == t.life)

/-- R224: the engine takes the oldest accepted command of all slots. -/
def execTensorExecute (core : Nat) (s : State) : Host.Outcome State Fault Refusal :=
  let c := s.core core
  match c.tens with
  | [] => .next s
  | t :: rest =>
    if t.executed then .next s
    else
      let o := s.tensRun core t (c.checkOf t)
      let t' := { t with executed := true, flags := w64 o.flags, outcome := o.outcome, writes := o.cells, after := o.after }
      .next (s.setCore core { c with tens := t' :: rest, tensBusy := c.cyc.toNat + o.cycles })

/-- R329: the word that a pushed command posts. -/
def tensWord (major reason outcome : Nat) : Word := w64 (major + 2 ^ 8 * reason + 2 ^ 16 * outcome)

/-- The result FIFO of a slot's TENS endpoint has room (R115). -/
def Slot.tensRoom (m : Slot) : Bool :=
  !(upFrom 0 16).any (fun q => (m.qreg q).kind == 3) || (m.fifoOf 3).res.length < 8
def Slot.tensPost (m : Slot) (w : Word) : Slot :=
  let f := m.fifoOf 3
  if (upFrom 0 16).any (fun q => (m.qreg q).kind == 3) then m.setFifo 3 { f with res := f.res ++ [w] } else m

/-- R172: whether MCHK's record may be written; every other write of the engine goes to CB. -/
def State.tensMay (s : State) (core : Nat) (t : TCmd) : Bool :=
  if !t.checked then true else
  let ctx := (s.core core).tenant.toNat
  let ga := gaOf s.pkg.toNat (((s.ctx ctx).logical core).getD core) spLM t.opA
  match t.task with
  | some r => s.mayWrite r.ctx r.lslot (rootOf r.path) (isSupPath r.path) (wbits r.path 1 0) ga
  | none => true

/-- R172, R149: the ENGINE record of a check record that was refused. -/
def State.tensRefused (s : State) (core : Nat) (t : TCmd) : State :=
  let ctx := (s.core core).tenant.toNat
  let l12 := ((s.ctx ctx).logical core).getD core
  let (l, p) := match t.task with
    | some r => (r.lslot, if isSupPath r.path then 0 else r.path)
    | none => (0, 0)
  s.faultRecord 1 Cause.capfault.code.toNat ctx l12 t.slot l (w64 (gaOf s.pkg.toNat l12 spLM t.opA)) p 0

/-- R189, R224: the writes of the executed command at the head of the queue go to their homes in units; a check record that
the capability refuses does not (R172). -/
def State.tensWrite (s : State) (core : Nat) (t : TCmd) : State :=
  let ctx := (s.core core).tenant.toNat
  let may := s.tensMay core t
  let out := if may then t.writes else t.writes.filter (fun w => paSpace w.1 == spCB)
  let s := s.modCore core (fun c => { c with tens := match c.tens with
    | t :: rest => { t with landing := true } :: rest
    | [] => [] })
  let s := s.addUnits ctx (.engine core t.slot kTENS) true false out
  if may then s else s.tensRefused core t

/-- R224, R315, R329: once the executed command's writes are performed it retires; its flags join MSTAT, MCHK sets CKOUT,
the injected command clears ARM, and a pushed command posts its result word. -/
def execTensorRetire (core : Nat) (s : State) : Host.Outcome State Fault Refusal :=
  let c := s.core core
  match c.tens with
  | [] => .next s
  | t :: rest =>
    let i : SlotId := ⟨core, t.slot⟩
    let mine := s.sameLife i t.life
    if !t.executed || c.cyc.toNat < c.tensBusy || (t.pushed && mine && !(s.slot i).tensRoom) then .next s
    else if !t.landing && !t.writes.isEmpty then .next (s.tensWrite core t)
    else
      let s := s.landOwner (.engine core t.slot kTENS)
      let c := s.core core
      let others := c.checks.filter (fun k => !(k.slot == t.slot && k.life == t.life))
      let more := mine || rest.any (fun u => u.slot == t.slot && u.life == t.life)
      let s := s.setCore core { c with
        tens := rest, checks := others ++ (if more then t.after.toList else [])
        finj := if t.inject.isSome && c.finjSeen then c.finj &&& ~~~(1 : Word) else c.finj }
      if !mine then .next s
      else .next (s.modSlot i (fun m =>
        let st := m.mstat ||| t.flags
        let st := match t.outcome with
          | some o => (st &&& ~~~(0x700 : Word)) ||| w64 (2 ^ 8 * o)
          | none => st
        let m := { m with mstat := st }
        if t.pushed then m.tensPost (tensWord t.major 0 (t.outcome.getD 0)) else m))

-- pushed commands (R329)

def tensMajorOk (m : Nat) : Bool := (1 ≤ m && m ≤ 4) || m == 7 || (9 ≤ m && m ≤ 0x0C)

/-- R314, R329: whether the form of a pushed command is one that its instruction allows. -/
def tensFormOk (major : Nat) (form : BitVec 4) : Bool :=
  match major with
  | 3 => form == 0
  | 1 | 2 | 4 => form.toNat < 8 && form != 1
  | 0x0A => form.toNat < 2
  | 0x0C => form.toNat < 4
  | _ => form == 0

/-- R329: the word at the head of a slot's operand FIFO is accepted or turned away. A form or scale pair that the
instruction could not carry is turned away as a bad MAJOR is (notes/assumptions/25.md). -/
def execTensCommandAccept (i : SlotId) (s : State) : Host.Outcome State Fault Refusal :=
  let m := s.slot i
  let f := m.fifoOf 3
  match f.ops with
  | [] => .next s
  | w :: rest =>
    let major := wbits w 4 0
    let form := BitVec.ofNat 4 (wbits w 11 8)
    let c := wbits w 16 12
    let ksel := wbits w 19 17
    let s' := s.setSlot i (m.setFifo 3 { f with ops := rest })
    let kS : Option (BitVec 2) := if isMatrix major && 4 ≤ ksel then some (BitVec.ofNat 2 (ksel - 4)) else none
    let post (r : Nat) : State := s'.modSlot i (fun m => m.tensPost (tensWord major r 0))
    if s.tensFull i || (s.core i.core).sealed.isSome then .next s
    else
      let r := if !tensMajorOk major || (1 ≤ ksel && ksel ≤ 3) || !tensFormOk major form || (isMatrix major && c == 31) then 11
        else (s.tensCmd i major form (wbits w 39 20) (wbits w 59 40) c kS true).reason
          (kS.map (fun k => wbits (m.arch.getK k) 15 0)) m.checkOn
      if r = 0 then .next (s'.tensAccept i (s.tensCmd i major form (wbits w 39 20) (wbits w 59 40) c kS true) kS)
      else if m.tensRoom then .next (post r)
      else .next s

end Sys2Proof.Machine
end

