-- ==== Sys2Proof/Machine/VecMath.lean ====
section
/-!
DEFINITION. The arithmetic of the vector unit (R299 to R303, R205): elements of the types of R296 as exact values, the
float and integer domains, quantisation to BPn, comparisons and reductions.
-/
namespace Sys2Proof.Machine

/-- The element types of R296 by code. -/
def tySize (t : Nat) : Nat :=
  match t with
  | 0 => 4 | 1 => 2 | 2 => 1 | 3 => 2 | 4 => 4 | 5 => 1 | 6 => 2 | 7 => 4 | _ => 1
def tyFloat (t : Nat) : Bool := t < 2
def tyInt (t : Nat) : Bool := 2 ≤ t && t ≤ 7
def tySigned (t : Nat) : Bool := 2 ≤ t && t ≤ 4
/-- The precision of a float type. -/
def tyPrec (t : Nat) : Nat := if t = 0 then pFP32 else pBF16
/-- The range of an integer type. -/
def tyLo (t : Nat) : Int := if tySigned t then -(2 ^ (8 * tySize t - 1) : Nat) else 0
def tyHi (t : Nat) : Int := if tySigned t then (2 ^ (8 * tySize t - 1) : Nat) - 1 else (2 ^ (8 * tySize t) : Nat) - 1

/-- A source element: its exact value, and its FP32 bit pattern (a BF16 widened by 16 zero bits) for NaNs. -/
structure El where
  v : FV
  pat : Nat
  deriving DecidableEq, Repr

/-- The integer of a raw element. -/
def intOf (t raw : Nat) : Int := if tySigned t then sext (8 * tySize t) raw else (raw % 2 ^ (8 * tySize t) : Nat)

/-- R299: a source element read as an exact real. -/
def elOf (t raw : Nat) : El :=
  if t = 0 then ⟨fDecode pFP32 raw, raw⟩
  else if t = 1 then ⟨fDecode pBF16 raw, raw * 65536⟩
  else
    let n := intOf t raw
    ⟨.fin (n < 0) n.natAbs 0, (fOfInt pFP32 0 n).1⟩

def El.isNan (x : El) : Bool := x.v == .nan
def El.isSnan (x : El) : Bool := x.isNan && x.pat / 2 ^ 22 % 2 == 0

/-- R199, R197: a NaN as a result of precision p. -/
def nanTo (p pat : Nat) : Nat := if p = pFP32 then fQuiet pFP32 pat else fQuiet pBF16 (pat / 65536)

/-- R199: the first NaN of a priority list as the result. -/
def elNan (p : Nat) (xs : List El) : Option (Nat × Fl) :=
  match xs.find? (·.isNan) with
  | some x => some (nanTo p x.pat, { nv := xs.any (·.isSnan) })
  | none => none

/-- R299: one value written to a float type. -/
def elTo (p rm : Nat) (x : El) : Nat × Fl :=
  match elNan p [x] with
  | some r => r
  | none => match x.v with
    | .inf n => (fInf p n, {})
    | .fin n m e => roundDy p rm n m e
    | .nan => (fNan p, {})

/-- R299: x·y + z with one rounding; NaN priority z, y, x. -/
def elFma (p rm : Nat) (x y z : El) : Nat × Fl :=
  let zeroInf : Bool := match x.v, y.v with
    | .inf _, v => isZero v
    | v, .inf _ => isZero v
    | _, _ => false
  match elNan p [z, y, x] with
  | some (v, f) => (v, { f with nv := f.nv || zeroInf })
  | none =>
    if zeroInf then (fNan p, { nv := true }) else
    let sg := FV.neg x.v != FV.neg y.v
    match x.v, y.v, z.v with
    | .fin _ m e, .fin _ n f, .fin cn k g =>
      roundSum p rm (m * n == 0 && sg && k == 0 && cn) (Dy.add (Dy.ofFin sg (m * n) (e + f)) (Dy.ofFin cn k g))
    | .fin _ _ _, .fin _ _ _, c => (fInf p (FV.neg c), {})
    | _, _, .inf cn => if cn == sg then (fInf p sg, {}) else (fNan p, { nv := true })
    | _, _, _ => (fInf p sg, {})

/-- R299: ROUND(x + y). -/
def elAdd (p rm : Nat) (x y : El) : Nat × Fl :=
  match elNan p [x, y] with
  | some r => r
  | none => match x.v, y.v with
    | .fin a m e, .fin b n f => roundSum p rm (m == 0 && n == 0 && a && b) (Dy.add (Dy.ofFin a m e) (Dy.ofFin b n f))
    | .inf a, .inf b => if a == b then (fInf p a, {}) else (fNan p, { nv := true })
    | .inf a, _ => (fInf p a, {})
    | _, v => (fInf p (FV.neg v), {})

/-- A number with its sign inverted; a NaN stays. -/
def El.flip (x : El) : El :=
  match x.v with
  | .fin n m e => { x with v := .fin (!n) m e }
  | .inf n => { x with v := .inf (!n) }
  | .nan => x

def elMul (p rm : Nat) (x y : El) : Nat × Fl :=
  match elNan p [x, y] with
  | some r => r
  | none =>
    let sg := FV.neg x.v != FV.neg y.v
    match x.v, y.v with
    | .fin _ m e, .fin _ n f => roundDy p rm sg (m * n) (e + f)
    | u, v => if isZero u || isZero v then (fNan p, { nv := true }) else (fInf p sg, {})

/-- The order of R200 of two numbers, −0 below +0. -/
def elBelow (x y : El) : Bool :=
  match x.v, y.v with
  | .fin a m e, .fin b n f =>
    if m = 0 && n = 0 then a && !b else Dy.lt (Dy.ofFin a m e) (Dy.ofFin b n f)
  | .inf a, .inf b => a && !b
  | .inf a, _ => a
  | _, .inf b => !b
  | _, _ => false

def elMinMax (p rm : Nat) (mx : Bool) (x y : El) : Nat × Fl :=
  match elNan p [x, y] with
  | some r => r
  | none => elTo p rm (if elBelow x y != mx then x else y)

/-- R303, R285: x and y compared as exact reals. -/
def elCompare (cond : Nat) (x y : El) : Bool × Fl :=
  let un := x.isNan || y.isNan
  let sn := x.isSnan || y.isSnan
  let lt (a b : El) : Bool := match a.v, b.v with
    | .fin s m e, .fin t n f => Dy.lt (Dy.ofFin s m e) (Dy.ofFin t n f)
    | .inf s, .inf t => s && !t
    | .inf s, _ => s
    | _, .inf t => !t
    | _, _ => false
  let eq := !un && !lt x y && !lt y x
  match cond with
  | 0 => (eq, { nv := sn })
  | 1 => (!eq, { nv := sn })
  | 2 => (!un && lt x y, { nv := un })
  | 3 => (!un && !lt y x, { nv := un })
  | _ => (un, { nv := sn })

/-- R300: the element-wise commands in the float domain. -/
def floatEl (major p rm : Nat) (x y z : El) : Nat × Fl :=
  match major with
  | 0x01 => elAdd p rm x y
  | 0x02 => elAdd p rm x y.flip
  | 0x03 => elMul p rm x y
  | 0x04 => elFma p rm x y z
  | 0x05 => elMinMax p rm true x y
  | 0x06 => elMinMax p rm false x y
  | 0x07 => elFma p rm x y z
  | 0x09 => (elNan p [x]).getD (exp2Of p rm x.pat x.v)
  | 0x0A => (elNan p [x]).getD (tanhOf p rm x.pat x.v)
  | 0x0E => elTo p rm (if isZero z.v then y else x)
  | _ => elTo p rm x

/-- R300: the element-wise commands in the integer domain. -/
def intEl (major : Nat) (x y z : Int) : Int :=
  match major with
  | 0x01 => x + y
  | 0x02 => x - y
  | 0x03 => x * y
  | 0x04 => x * y + z
  | 0x05 => max x y
  | 0x06 => min x y
  | 0x0E => if z = 0 then y else x
  | _ => x

/-- R299: an exact integer written to an integer type: its bits, and whether SAT clamped. -/
def intTo (t : Nat) (sat : Bool) (v : Int) : Nat × Bool :=
  let c := if sat then max (tyLo t) (min (tyHi t) v) else v
  ((c % (2 ^ (8 * tySize t) : Nat)).toNat, c != v)

/-- R301, R197: a float to an integer type. -/
def floatToInt (t rm : Nat) (x : El) : Nat × Fl :=
  let (v, f) : Int × Fl := match x.v with
    | .nan => (0, { nv := true })
    | .inf n => (if n then tyLo t else tyHi t, { nv := true })
    | .fin n m e =>
      let num := if 0 ≤ e then m * 2 ^ e.toNat else m
      let den := if 0 ≤ e then 1 else 2 ^ (-e).toNat
      let k : Int := roundInt rm n num den
      let v := if n then -k else k
      if v < tyLo t then (tyLo t, { nv := true }) else if tyHi t < v then (tyHi t, { nv := true })
      else (v, { nx := num % den != 0 })
  ((v % (2 ^ (8 * tySize t) : Nat)).toNat, f)

/-- R301: one element quantised to n planes. -/
def quantise (n rm : Nat) (x : El) : Int × Fl :=
  let lo : Int := -(2 ^ (n - 1) : Nat)
  let hi : Int := (2 ^ (n - 1) : Nat) - 1
  match x.v with
  | .nan => (0, { nv := true })
  | .inf s => (if s then lo else hi, { nv := true })
  | .fin s m e =>
    -- u as a dyadic number
    let d := Dy.ofFin s m e
    let u := if n < 8 then (let w := Dy.add d ⟨-(2 ^ (7 - n) : Nat), 0⟩; (⟨w.m, w.e - (8 - n : Nat)⟩ : Dy)) else d
    let neg := decide (u.m < 0)
    let a := u.m.natAbs
    let num := if 0 ≤ u.e then a * 2 ^ u.e.toNat else a
    let den := if 0 ≤ u.e then 1 else 2 ^ (-u.e).toNat
    let k : Int := roundInt rm neg num den
    let t := if neg then -k else k
    if t < lo then (lo, { nv := true }) else if hi < t then (hi, { nv := true })
    else (t, { nx := num % den != 0 })

/-- R301: plane j of a block of 256 quantised elements, 32 bytes. -/
def planeBytes (n j : Nat) (ts : List Int) : List Byte :=
  (upFrom 0 32).map (fun b => BitVec.ofNat 8 (((upFrom 0 8).map (fun i =>
    ((listGet ts 0 (8 * b + i)) % (2 ^ n : Nat)).toNat / 2 ^ (n - 1 - j) % 2 * 2 ^ i)).foldl (· + ·) 0))

-- reductions (R205)

/-- One step of a reduction on FP32 patterns. -/
def redStep (mx : Bool) (a b : Nat) : Nat × Fl := if mx then fMinMax pFP32 true a b else fAdd pFP32 0 a b

/-- R205: the elements spread over the 64 lanes. -/
def redLanes (mx : Bool) : List Nat → Nat → List (Option Nat) → Fl → List (Option Nat) × Fl
  | [], _, ls, f => (ls, f)
  | x :: xs, i, ls, f =>
    match listGet ls none (i % 64) with
    | none => redLanes mx xs (i + 1) (listSet ls (i % 64) (some x)) f
    | some a =>
      let (v, g) := redStep mx a x
      redLanes mx xs (i + 1) (listSet ls (i % 64) (some v)) (f.or g)

/-- R205: the lanes folded in halves. -/
def redFold (mx : Bool) : Nat → List (Option Nat) → Fl → List (Option Nat) × Fl
  | 0, ls, f => (ls, f)
  | n + 1, ls, f =>
    let s := 2 ^ n
    let out := (upFrom 0 s).map (fun j => match listGet ls none j, listGet ls none (j + s) with
      | some a, some b => (let (v, g) := redStep mx a b; (some v, g))
      | none, b => (b, ({} : Fl))
      | a, none => (a, {}))
    redFold mx n (out.map Prod.fst) (out.foldl (fun f o => f.or o.2) f)

/-- R205: the reduction of one row of FP32 patterns. -/
def reduceRow (mx : Bool) (xs : List Nat) : Nat × Fl :=
  let (ls, f) := redLanes mx xs 0 (List.replicate 64 none) {}
  let (ls, f) := redFold mx 6 ls f
  ((listGet ls none 0).getD 0, f)

end Sys2Proof.Machine
end

