-- ==== Sys2Proof/Machine/Vector.lean ====
section
/-!
DEFINITION. Page 2 (R293 to R312): shape records and their checks at issue, the acceptance of the 18 vector commands,
their execution element by element, completions, and VFENCE.
-/
namespace Sys2Proof.Machine

-- shape records (R295, R296)

/-- An operand descriptor. -/
structure VOpd where
  loc : Nat
  typ : Nat
  fe : Nat
  qreg : Nat
  off : Nat
  s0 : Int
  s1 : Int
  s2 : Int
  deriving DecidableEq, Repr

/-- The descriptor of an operand at a record offset. -/
def vopd (r : List Byte) (o : Nat) : VOpd :=
  ⟨byteAt r o, byteAt r (o + 1), byteAt r (o + 2), byteAt r (o + 3), field r (o + 4) 4, sfield r (o + 8) 4,
    sfield r (o + 12) 4, sfield r (o + 16) 4⟩

/-- The record offsets of D, X, Y and Z. -/
def vOff (k : Nat) : Nat := 0x20 + 0x18 * k
def vE0 (r : List Byte) : Nat := field r 0 2
def vE1 (r : List Byte) : Nat := field r 2 2
def vE2 (r : List Byte) : Nat := field r 4 2
def vN (r : List Byte) : Nat := vE0 r * vE1 r * vE2 r
def vRm (r : List Byte) : Nat := byteAt r 6 % 4
def vSat (r : List Byte) : Bool := byteAt r 6 / 4 % 2 == 1
def vCmpl (r : List Byte) : Bool := byteAt r 6 / 8 % 2 == 1
def vAux (r : List Byte) : Nat := byteAt r 7
def vJlim (r : List Byte) : Nat := field r 8 4

/-- R300 to R304: how many operands a command uses, in the order D, X, Y, Z. -/
def vUsed (major : Nat) : Nat :=
  match major with
  | 0x04 | 0x0E => 4
  | 0x01 | 0x02 | 0x03 | 0x05 | 0x06 | 0x0D | 0x10 | 0x11 => 3
  | _ => 2

/-- R301: whether the destination is BPn, which only VCVT has. -/
def vBp (major : Nat) (r : List Byte) : Bool := major == 0x08 && byteAt r 0x21 == 8
/-- R299: commands that compute in the float domain alone. -/
def vFloatOnly (major : Nat) : Bool := major == 0x07 || major == 0x09 || major == 0x0A
def vReduces (major : Nat) : Bool := major == 0x0B || major == 0x0C
/-- The indexed operand of R304: 0 is D, 1 is X. -/
def vIndexed (major : Nat) : Option Nat := if major = 0x10 then some 1 else if major = 0x11 then some 0 else none

/-- R296, R299 to R304: whether the TYPE of operand k is allowed. -/
def vTypeOk (major : Nat) (r : List Byte) (k : Nat) : Bool :=
  let t := (vopd r (vOff k)).typ
  let d := (vopd r (vOff 0)).typ
  match k with
  | 0 =>
    if major = 0x08 then t ≤ 8
    else if vFloatOnly major then tyFloat t
    else if vReduces major then t == 0
    else if major = 0x0D then tyInt t
    else t ≤ 7
  | _ =>
    if vReduces major then tyFloat t
    else if major = 0x0F || major = 0x12 then t == d && t ≤ 7
    else if (major = 0x10 || major = 0x11) && k = 2 then tyInt t
    else if major = 0x08 || major = 0x0D then t ≤ 7
    else if tyFloat d then t ≤ 7 else tyInt t

/-- R298 step 2: the fields of operand k with their record offsets, in ascending order; those of an operand that is not in
use keep their ranges of R296 too. -/
def vOpdFields (major : Nat) (r : List Byte) (k : Nat) : List (Nat × Bool) :=
  let o := vOff k
  let d := vopd r o
  if vUsed major ≤ k then
    [(o, d.loc == 0), (o + 1, d.typ ≤ 7), (o + 2, d.fe < 2), (o + 3, d.qreg == 0), (o + 20, zeroBytes r (o + 20) 4)]
  else
    let still := d.loc == 8 || d.loc == 9 || (k == 0 && vBp major r)
    let fixed := vIndexed major == some k
    [(o, (d.loc == 1 || d.loc == 2 || (d.loc == 4 && !(k == 0 && vBp major r)) || (d.loc == 8 && !(k == 0 && vBp major r))
        || (d.loc == 9 && k != 0))),
     (o + 1, vTypeOk major r k),
     (o + 2, if k = 0 then d.fe == 0 else d.fe < 2),
     (o + 3, if d.loc = 8 then d.qreg < 16 else d.qreg == 0),
     (o + 8, !still || d.s0 == 0),
     (o + 12, !(still || fixed) || d.s1 == 0),
     (o + 16, !(still || fixed) || d.s2 == 0),
     (o + 20, zeroBytes r (o + 20) 4)]

/-- R298 step 2: every field in ascending order. -/
def vFields (major : Nat) (r : List Byte) : List (Nat × Bool) :=
  let indexed := (vIndexed major).isSome
  [(0, 1 ≤ vE0 r && vE0 r ≤ 4096 && !(major == 0x08 && vBp major r && vN r % 256 != 0)),
   (2, 1 ≤ vE1 r && vE1 r ≤ 4096), (4, 1 ≤ vE2 r && vE2 r ≤ 256), (6, byteAt r 6 < 16),
   (7, if major = 0x0D then vAux r ≤ 4 else if major = 0x08 && vBp major r then 2 ≤ vAux r && vAux r ≤ 8 else vAux r == 0),
   (8, if indexed then 1 ≤ vJlim r && vJlim r ≤ 2 ^ 24 else vJlim r == 0),
   (0x0C, zeroBytes r 0x0C 20)]
  ++ vOpdFields major r 0 ++ vOpdFields major r 1 ++ vOpdFields major r 2 ++ vOpdFields major r 3

/-- R297, R304: the byte offset of an operand's element. -/
def vElem (d : VOpd) (i0 i1 i2 : Nat) : Int := d.off + i0 * d.s0 + i1 * d.s1 + i2 * d.s2

/-- R298 step 4: the element offsets that are tested, in the order of R297, with the size of each test. -/
def vCorners (major : Nat) (r : List Byte) (k : Nat) : List Int :=
  let d := vopd r (vOff k)
  let ends (e : Nat) : List Nat := if e ≤ 1 then [0] else [0, e - 1]
  if vIndexed major == some k then (ends (vJlim r)).map (fun (j : Nat) => (d.off : Int) + (j : Int) * d.s0)
  else if major = 0x12 && k = 0 then
    (ends (vE2 r)).flatMap (fun c => (ends (vE1 r)).flatMap (fun b => (ends (vE0 r)).map (fun a => vElem d b a c)))
  else if k = 0 && vReduces major then
    (ends (vE2 r)).flatMap (fun c => (ends (vE1 r)).map (fun b => vElem d 0 b c))
  else if k = 0 && vBp major r then [(d.off : Int), (d.off : Int) + 256 * (vN r / 256 - 1 : Nat)]
  else (ends (vE2 r)).flatMap (fun c => (ends (vE1 r)).flatMap (fun b => (ends (vE0 r)).map (fun a => vElem d a b c)))

/-- R298 step 4: the first failing element of operand k. -/
def State.vAddrCheck (s : State) (major : Nat) (r : List Byte) (k : Nat) : Option (Cause × Word) :=
  let d := vopd r (vOff k)
  if !(d.loc == 1 || d.loc == 2 || d.loc == 4) then none
  else
    let size := if k = 0 && vBp major r then 1 else tySize d.typ
    let room : Int := if k = 0 && vBp major r then 32 * vAux r else size
    let cs := vCorners major r k
    let ga (o : Int) : Word := i64 ((gaOf s.pkg.toNat s.ownCore d.loc 0 : Nat) + o)
    match cs.find? (fun o => o % (size : Int) != 0) with
    | some o => some (.align, ga o)
    | none => match cs.find? (fun o => o < 0 || (bufSize d.loc : Int) < o + room) with
      | some o => some (.xlate, ga o)
      | none => none

/-- R298 steps 2 to 4. -/
def State.vCheck (s : State) (major : Nat) (r : List Byte) : Option (Cause × Word) :=
  match (vFields major r).find? (fun f => !f.2) with
  | some f => some (.illegal, w64 (0x100 + f.1))
  | none =>
    let ks := upFrom 0 (vUsed major)
    match ks.find? (fun k =>
      let d := vopd r (vOff k)
      let kind := (s.me.qreg d.qreg).kind.toNat
      d.loc == 8 && !(kind == 4 || kind == (if k = 0 then 1 else 2))) with
    | some k => some (.illegal, w64 (0x100 + vOff k + 3))
    | none => (ks.filterMap (s.vAddrCheck major r)).head?

/-- R294, R298: a vector command issued. -/
def vectorCommand (sBit : Bool) (major : Nat) (a b : Reg) (s : State) : Host.Outcome State Fault Refusal :=
  issue s (Info.synch sBit 2 [codeG a, codeG b] [] false (0x200 + major) [s.g a, s.g b]) none (fun s =>
    match s.ownRecord (s.g a) 16 128 with
    | .error (c, v) => .trap c v
    | .ok off =>
      let r := s.bytes (s.ownKey spLM off) 128
      match s.vCheck major r with
      | some (c, v) => .trap c v
      | none =>
        let full : Bool := 4 ≤ (s.myCore.vec.filter (fun v => v.slot == s.cur.slot)).length
        if full || (vCmpl r && 4 ≤ s.me.outstanding) then .park { Wait.poll with queueFull := full } s
        else
          let cmd : VCmd := ⟨s.cur.slot, major, r, off, s.g b, 0, 0, [[], [], [], []], [],
            s.me.detlvl == 2 && !s.me.arch.sup, false, false, 0, false, if s.me.vsum.discard then 3 else 0, 0,
            s.me.task.map (·.ref)⟩
          .done ((s.modCore s.cur.core (fun c => { c with vec := c.vec ++ [cmd] })).modMe
            (fun m => m.issueEngine kVEC (vCmpl r))))

def execVadd (sBit : Bool) (a b : Reg) (s : State) : Host.Outcome State Fault Refusal := vectorCommand sBit 0x01 a b s
def execVsub (sBit : Bool) (a b : Reg) (s : State) : Host.Outcome State Fault Refusal := vectorCommand sBit 0x02 a b s
def execVmul (sBit : Bool) (a b : Reg) (s : State) : Host.Outcome State Fault Refusal := vectorCommand sBit 0x03 a b s
def execVfma (sBit : Bool) (a b : Reg) (s : State) : Host.Outcome State Fault Refusal := vectorCommand sBit 0x04 a b s
def execVmax (sBit : Bool) (a b : Reg) (s : State) : Host.Outcome State Fault Refusal := vectorCommand sBit 0x05 a b s
def execVmin (sBit : Bool) (a b : Reg) (s : State) : Host.Outcome State Fault Refusal := vectorCommand sBit 0x06 a b s
def execVscl (sBit : Bool) (a b : Reg) (s : State) : Host.Outcome State Fault Refusal := vectorCommand sBit 0x07 a b s
def execVcvt (sBit : Bool) (a b : Reg) (s : State) : Host.Outcome State Fault Refusal := vectorCommand sBit 0x08 a b s
def execVexp2 (sBit : Bool) (a b : Reg) (s : State) : Host.Outcome State Fault Refusal := vectorCommand sBit 0x09 a b s
def execVtanh (sBit : Bool) (a b : Reg) (s : State) : Host.Outcome State Fault Refusal := vectorCommand sBit 0x0A a b s
def execVrsum (sBit : Bool) (a b : Reg) (s : State) : Host.Outcome State Fault Refusal := vectorCommand sBit 0x0B a b s
def execVrmax (sBit : Bool) (a b : Reg) (s : State) : Host.Outcome State Fault Refusal := vectorCommand sBit 0x0C a b s
def execVcmp (sBit : Bool) (a b : Reg) (s : State) : Host.Outcome State Fault Refusal := vectorCommand sBit 0x0D a b s
def execVsel (sBit : Bool) (a b : Reg) (s : State) : Host.Outcome State Fault Refusal := vectorCommand sBit 0x0E a b s
def execVcopy (sBit : Bool) (a b : Reg) (s : State) : Host.Outcome State Fault Refusal := vectorCommand sBit 0x0F a b s
def execVgath (sBit : Bool) (a b : Reg) (s : State) : Host.Outcome State Fault Refusal := vectorCommand sBit 0x10 a b s
def execVscat (sBit : Bool) (a b : Reg) (s : State) : Host.Outcome State Fault Refusal := vectorCommand sBit 0x11 a b s
def execVtran (sBit : Bool) (a b : Reg) (s : State) : Host.Outcome State Fault Refusal := vectorCommand sBit 0x12 a b s

-- reading and writing elements

/-- What an access of the unit meets: it goes on, it waits (R305, R306), or it finds the peer sealed (R309). -/
inductive VGot (α : Type) where
  | ok (v : α)
  | waits
  | dead
  deriving DecidableEq, Repr

/-- R305: a word popped by the unit for a source operand; the popped queue's state changes. -/
def State.vPop (s : State) (i : SlotId) (q : Nat) : VGot (Word × State) :=
  let m := s.slot i
  let b := m.qreg q
  match b.kind.toNat with
  | 2 => match b.entries with
    | some w :: rest => .ok (w, s.setSlot i (m.setQ q { b with entries := rest }))
    | none :: _ => .dead
    | [] => if b.dead then .dead else .waits
  | 4 => match (m.fifoOf 4).ops with
    | w :: rest => .ok (w, s.setSlot i (m.setFifo 4 { (m.fifoOf 4) with ops := rest }))
    | [] => .waits
  | _ => .dead

/-- R305: whether the unit can push a word for D, and the push. -/
def State.vPush (s : State) (i : SlotId) (q : Nat) (w : Word) : VGot State :=
  let m := s.slot i
  let b := m.qreg q
  match b.kind.toNat with
  | 1 =>
    if b.dead then .dead
    else if b.allow = 0 then .waits
    else match s.sendTarget (s.core i.core).tenant.toNat b with
      | none => .dead
      | some e => .ok ((s.setSlot i (m.setQ q { b with allow := b.allow - 1, sent := b.sent + 1 })).post
          (.channelWordArrive ⟨e, i⟩ b.gen (some w)))
  | 4 =>
    let f := m.fifoOf 4
    if 8 ≤ f.res.length then .waits else .ok (s.setSlot i (m.setFifo 4 { f with res := f.res ++ [w] }))
  | _ => .dead

/-- The command changed in its core. -/
def State.setVec (s : State) (core : Nat) (v : VCmd) : State :=
  s.modCore core (fun c => { c with vec := match c.vec with | _ :: rest => v :: rest | [] => [] })

/-- The unit as the owner of a command's writes. -/
def vOwner (core : Nat) (v : VCmd) : WriteOwner := .engine core v.slot kVEC

/-- The raw value of element (i0, i1, i2) of source operand k; `at_` is its byte offset where it lies in a buffer. The
command sees what it has written (R306). -/
def State.vRead (s : State) (core : Nat) (v : VCmd) (k : Nat) (at_ : VOpd → Int) : VGot (Nat × VCmd × State) :=
  let d := vopd v.record (vOff k)
  let size := tySize d.typ
  match d.loc with
  | 9 => .ok (v.scalar.toNat % 2 ^ (8 * size), v, s)
  | 8 =>
    let have_ := listGet v.parts [] k
    if size ≤ have_.length then
      .ok (fromBytes (have_.take size), { v with parts := listSet v.parts k (have_.drop size) }, s)
    else match s.vPop ⟨core, v.slot⟩ d.qreg with
      | .ok (w, s) =>
        let bs := toBytes w.toNat 8
        .ok (fromBytes (bs.take size), { v with parts := listSet v.parts k (bs.drop size) }, s)
      | .waits => .waits
      | .dead => .dead
  | sp =>
    let key := pa sp core (at_ d).toNat
    if d.fe = 1 && hasFull key && !s.ownFull (vOwner core v) (unitOf key) then .waits
    else .ok (s.ownNum (vOwner core v) key size, v, s)

/-- R172: whether the unit may write D, in a buffer of its own core. -/
def State.vMay (s : State) (core : Nat) (v : VCmd) (loc : Nat) : Bool :=
  if !v.checked || loc = 4 then true else
  let ctx := (s.core core).tenant.toNat
  let ga := gaOf s.pkg.toNat (((s.ctx ctx).logical core).getD core) loc 0
  match v.task with
  | some t => s.mayWrite t.ctx t.lslot (rootOf t.path) (isSupPath t.path) (wbits t.path 1 0) ga
  | none => true

/-- R149: an ENGINE record of a vector command. -/
def State.vRecord (s : State) (core : Nat) (v : VCmd) (cause : Cause) (addr : Word) : State :=
  let ctx := (s.core core).tenant.toNat
  let (l, p) := match v.task with
    | some t => (t.lslot, if isSupPath t.path then 0 else t.path)
    | none => (0, 0)
  s.faultRecord 1 cause.code.toNat ctx (((s.ctx ctx).logical core).getD core) v.slot l addr p 0

/-- R189, R299, R306: bytes written to D at a buffer offset, in 16-byte units, or packed for its queue register (R305);
`last` flushes. -/
def State.vWrite (s : State) (core : Nat) (v : VCmd) (off : Int) (bs : List Byte) (last : Bool) : VGot (VCmd × State) :=
  let d := vopd v.record (vOff 0)
  if d.loc = 8 then
    let all := listGet v.parts [] 0 ++ bs
    if all.length < 8 && !last then .ok ({ v with parts := listSet v.parts 0 all }, s)
    else match s.vPush ⟨core, v.slot⟩ d.qreg (w64 (fromBytes all)) with
      | .ok s => .ok ({ v with parts := listSet v.parts 0 [] }, s)
      | .waits => .waits
      | .dead => .dead
  else
    let key := pa d.loc core off.toNat
    if s.vMay core v d.loc then .ok (v, s.addUnits (s.core core).tenant.toNat (vOwner core v) true false (cellsOf key bs))
    else .ok (v, s.vRecord core v .capfault
      (i64 ((gaOf s.pkg.toNat (((s.ctx (s.core core).tenant.toNat).logical core).getD core) d.loc 0 : Nat) + off)))

-- executing

/-- The indices of element i in the order of R297. -/
def vIdx (r : List Byte) (i : Nat) : Nat × Nat × Nat := (i % vE0 r, i / vE0 r % vE1 r, i / vE0 r / vE1 r)

/-- R300, R301, R303: the bits of D's element from the raw sources, with the command's flags. -/
def vCompute (v : VCmd) (x y z : Nat) : Nat × BitVec 6 :=
  let r := v.record
  let d := (vopd r (vOff 0)).typ
  let tx := (vopd r (vOff 1)).typ
  let ty := (vopd r (vOff 2)).typ
  let tz := (vopd r (vOff 3)).typ
  let fl (f : Fl) : BitVec 6 := BitVec.ofNat 6 f.bits
  match v.major with
  | 0x0F | 0x12 => (x, 0)
  | 0x0D =>
    let (b, f) := elCompare (vAux r) (elOf tx x) (elOf ty y)
    (b.toNat, fl f)
  | m =>
    let scaled := m == 0x07
    let ex := elOf tx x
    let ey := if scaled then elOf 0 (wbits v.scalar 31 0) else elOf ty y
    let ez := if scaled then elOf 0 (wbits v.scalar 63 32) else elOf tz z
    if tyFloat d then
      let (b, f) := floatEl (if m = 0x10 || m = 0x11 || m = 0x08 then 0 else m) (tyPrec d) (vRm r) ex ey ez
      (b, fl f)
    else if m = 0x08 && tyFloat tx then
      let (b, f) := floatToInt d (vRm r) ex
      (b, fl f)
    else
      let (b, sat) := intTo d (vSat r) (intEl (if m = 0x10 || m = 0x11 || m = 0x08 then 0 else m) (intOf tx x)
        (intOf ty y) (intOf tz z))
      (b, if sat then 0x20 else 0)

/-- How far a command went: on, waiting, or stopped with a status and an address. -/
inductive VRun where
  | on (v : VCmd) (s : State)
  | waits (v : VCmd) (s : State)
  | stop (v : VCmd) (s : State) (status : Nat) (addr : Word)

/-- A source read that the command does not use. -/
def State.vReadIf (s : State) (core : Nat) (v : VCmd) (k : Nat) (at_ : VOpd → Int) : VGot (Nat × VCmd × State) :=
  if k < vUsed v.major then s.vRead core v k at_ else .ok (0, v, s)

/-- R306: one element of an element-wise or indexed command. The reads of an element that has to wait are undone, but
for words that were popped, which the unit keeps. -/
def State.vElement (s : State) (core : Nat) (v : VCmd) : VRun :=
  let r := v.record
  let (i0, i1, i2) := vIdx r v.done
  let plain (d : VOpd) : Int := vElem d i0 i1 i2
  let ctx := (s.core core).tenant.toNat
  let l12 := ((s.ctx ctx).logical core).getD core
  let indexed := v.major == 0x10 || v.major == 0x11
  -- Y first where it is the index, else X, Y, Z
  match s.vReadIf core v 2 plain with
  | .waits => .waits v s
  | .dead => .stop v s 2 0
  | .ok (y, v1, s1) =>
    let j := intOf (vopd r (vOff 2)).typ y
    if indexed && (j < 0 || (vJlim r : Int) ≤ j) then
      let d := vopd r (vOff 2)
      .stop v1 s1 1 (if d.loc ≤ 4 then i64 ((gaOf s.pkg.toNat l12 d.loc 0 : Nat) + plain d) else 0)
    else
      let atX (d : VOpd) : Int := if v.major = 0x10 then d.off + j * d.s0 else plain d
      match s1.vRead core v1 1 atX with
      | .waits => .waits (keep v1 2 y) s1
      | .dead => .stop v1 s1 2 0
      | .ok (x, v2, s2) => match s2.vReadIf core v2 3 plain with
        | .waits => .waits (keep (keep v2 2 y) 1 x) s2
        | .dead => .stop v2 s2 2 0
        | .ok (z, v3, s3) =>
          let (b, f) := vCompute v3 x y z
          let d := vopd r (vOff 0)
          let off : Int := match v.major with
            | 0x11 => d.off + j * d.s0
            | 0x12 => vElem d i1 i0 i2
            | _ => plain d
          match s3.vWrite core v3 off (toBytes b (tySize d.typ)) (v.done + 1 == vN r) with
          | .waits => .waits (keep (keep (keep v3 2 y) 1 x) 3 z) s3
          | .dead => .stop v3 s3 2 0
          | .ok (v4, s4) => .on { v4 with done := v.done + 1, flags := v4.flags ||| f } s4
where
  /-- A queue operand's element put back in front of its partial word. -/
  keep (v : VCmd) (k raw : Nat) : VCmd :=
    let d := vopd v.record (vOff k)
    if d.loc = 8 && k < vUsed v.major then
      { v with parts := listSet v.parts k (toBytes raw (tySize d.typ) ++ listGet v.parts [] k) } else v

/-- R302, R301: one input of a row or block gathered; a whole one is combined and written. -/
def State.vGather (s : State) (core : Nat) (v : VCmd) : VRun :=
  let r := v.record
  let bp := vBp v.major r
  let per := if bp then 256 else vE0 r
  let d := vopd r (vOff 0)
  let tx := (vopd r (vOff 1)).typ
  if v.acc.length < per then
    let (i0, i1, i2) := vIdx r (v.done * per + v.acc.length)
    match s.vRead core v 1 (fun d => vElem d i0 i1 i2) with
    | .waits => .waits v s
    | .dead => .stop v s 2 0
    | .ok (x, v1, s1) => .on { v1 with acc := v.acc ++ [x] } s1
  else if bp then
    let n := vAux r
    let qs := v.acc.map (fun x => quantise n (vRm r) (elOf tx x))
    let f := qs.foldl (fun f (q : Int × Fl) => f.or q.2) ({} : Fl)
    let bs := (upFrom 0 n).flatMap (fun j => planeBytes n j (qs.map Prod.fst))
    match s.vWrite core v (d.off + 256 * v.done) bs false with
    | .ok (v1, s1) => .on { v1 with done := v.done + 1, acc := [], flags := v1.flags ||| BitVec.ofNat 6 f.bits } s1
    | .waits => .waits v s
    | .dead => .stop v s 2 0
  else
    let (b, f) := reduceRow (v.major == 0x0C) (v.acc.map (fun x => if tx = 1 then x * 65536 else x))
    let off := vElem d 0 (v.done % vE1 r) (v.done / vE1 r)
    match s.vWrite core v off (toBytes b 4) (v.done + 1 == vE1 r * vE2 r) with
    | .ok (v1, s1) => .on { v1 with done := v.done + 1, acc := [], flags := v1.flags ||| BitVec.ofNat 6 f.bits } s1
    | .waits => .waits v s
    | .dead => .stop v s 2 0

/-- The units of work of a command: elements, rows or blocks. -/
def vTotal (v : VCmd) : Nat :=
  if vReduces v.major then vE1 v.record * vE2 v.record
  else if vBp v.major v.record then vN v.record / 256 else vN v.record

/-- R308: EDONE, the elements written. -/
def vEdone (v : VCmd) : Nat := if vBp v.major v.record then 256 * v.done else v.done

/-- R189: the command run for at most so many reads or elements; a 16-byte unit is performed once the next one begins. -/
def State.vRun (s : State) (core : Nat) (v : VCmd) : Nat → VRun
  | 0 => .on v s
  | n + 1 =>
    if vTotal v ≤ v.done then .on { v with finished := true } s
    else
      let s := s.landFull (vOwner core v)
      match (if vReduces v.major || vBp v.major v.record then s.vGather core v else s.vElement core v) with
      | .on v s => s.vRun core v n
      | r => r

/-- R307: the cycles that a command occupies the unit. -/
def vCycles (v : VCmd) : Nat :=
  let r := v.record
  let n := vN r
  let ks := upFrom 0 (vUsed v.major)
  let widest := (ks.map (fun k => tySize (vopd r (vOff k)).typ)).foldl max 1
  let lanes := if widest = 4 then 64 else if widest = 2 then 128 else 256
  let byL := match v.major with
    | 0x09 | 0x0A => ceilDiv (2 * n) lanes
    | 0x10 | 0x11 => ceilDiv n 8
    | _ => ceilDiv n lanes
  let moved (sp width : Nat) : Nat := (ks.map (fun k =>
    let d := vopd r (vOff k)
    if d.loc ≠ sp then 0
    else if k = 0 && vBp v.major r then ceilDiv (32 * vAux r * (n / 256)) width
    else if k = 0 && vReduces v.major then ceilDiv (4 * (vE1 r * vE2 r)) width
    else ceilDiv (n * tySize d.typ) width)).foldl (· + ·) 0
  -- the ports of LM, AB and CB (R111); each operand's bytes are whole port transfers
  let port := max (moved 1 64) (max (moved 2 256) (moved 4 256))
  8 + max byL port + (if vReduces v.major then 6 else 0)

/-- R305, R309: what D's queue register still owes at a stop: the elements packed in a partial word are pushed, padded with
zeros, and where they cannot be they do not count as written. -/
def State.vFlush (s : State) (core : Nat) (v : VCmd) : VGot (VCmd × State) :=
  let d := vopd v.record (vOff 0)
  let part := listGet v.parts [] 0
  if d.loc ≠ 8 || part.isEmpty then .ok (v, s)
  else match s.vPush ⟨core, v.slot⟩ d.qreg (w64 (fromBytes part)) with
    | .ok s => .ok ({ v with parts := listSet v.parts 0 [] }, s)
    | .waits => .waits
    | .dead => .ok ({ v with parts := listSet v.parts 0 [], done := v.done - part.length / tySize d.typ }, s)

/-- R309: the commands of the stopped one's task that were accepted after it, as ones to be discarded. -/
def Core.discardAfter (c : Core) (v : VCmd) : Core :=
  { c with vec := c.vec.map (fun (w : VCmd) =>
      if w.slot == v.slot && w.task == v.task && !w.started then { w with status := 3 } else w) }

/-- R309: a command stops with a status: its ENGINE record, and the discarding of what follows, whether its task still runs or
has ended. -/
def State.vStop (s : State) (core : Nat) (v : VCmd) : State :=
  let i : SlotId := ⟨core, v.slot⟩
  let s := (s.setVec core { v with finished := true, waiting := false }).modCore core (fun c => c.discardAfter v)
  let s := s.vRecord core v (if v.status = 1 then .xlate else .qdead) v.faultAddr
  if s.sameTask i v.task then s.modSlot i (fun m => { m with vsum := { m.vsum with
      discard := true, fault := m.vsum.fault || v.status == 1, qdead := m.vsum.qdead || v.status == 2 } })
  else s

/-- R307: once a wait is over the unit is occupied for what the command still takes: the wait adds its own time. -/
def State.vWaited (s : State) (core : Nat) (old : VCmd) : State :=
  if old.waiting then s.modCore core (fun c => { c with vecBusy := c.cyc.toNat + old.left }) else s

/-- R307: a command begins to wait, or goes on waiting. -/
def State.vWait (s : State) (core : Nat) (old v : VCmd) : State :=
  if old.waiting && v.done = old.done && v.acc = old.acc && v.parts = old.parts && v.status = old.status then s.setVec core old
  else
    let s := s.vWaited core old
    let c := s.core core
    s.setVec core { v with waiting := true, left := c.vecBusy - c.cyc.toNat }

/-- R307, R312: the unit's queue with the command that it works on in front: the oldest one, or once suspended commands await
the save the oldest of those that still run to completion. -/
def State.vecTurn (s : State) (core : Nat) : Option (List VCmd) :=
  let vec := (s.core core).vec
  match vec.filter (fun v => !s.suspended core v) with
  | [] => none
  | v :: _ => some (v :: vec.erase v)

/-- R305 to R309: the unit works on its oldest command, for at most `limit` elements; 0 sets no limit. -/
def execVectorExecute (core limit : Nat) (s : State) : Host.Outcome State Fault Refusal :=
  let s := match s.vecTurn core with
    | some vec => s.modCore core (fun c => { c with vec := vec })
    | none => s
  let c := s.core core
  match c.vec with
  | [] => .next s
  | old :: _ =>
    if old.finished || s.suspended core old then .next s
    else
      let i : SlotId := ⟨core, old.slot⟩
      let first := !old.started
      let v := { old with started := true, waiting := false }
      let stop (s : State) (v : VCmd) : State :=
        match s.vFlush core v with
        | .ok (v, s) => (s.vWaited core old).vStop core v
        | _ => s.vWait core old v
      if v.status = 3 then
        let s := s.setVec core { v with finished := true }
        .next (if s.sameTask i v.task then s.modSlot i (fun m => { m with vsum := { m.vsum with canc := true } }) else s)
      else if v.status ≠ 0 then .next (stop s v)
      else
        let s := if first then s.modCore core (fun c => { c with vecBusy := c.cyc.toNat + vCycles v }) else s
        match s.vRun core v (if limit = 0 then 2 * vN v.record + 1 else limit) with
        | .on v s => .next ((s.setVec core (if vTotal v ≤ v.done then { v with finished := true } else v)).vWaited core old)
        | .waits v s => .next (s.vWait core old v)
        | .stop v s status addr => .next (stop s { v with status := status, faultAddr := addr })

/-- R308: VECDONE. -/
def vecdoneMsg (v : VCmd) : Msg :=
  let cause : Nat := if v.status = 1 then 0x04 else if v.status = 2 then 0x0A else 0
  ⟨w64 (0x12 + 2 ^ 16 * v.status + 2 ^ 24 * v.flags.toNat + 2 ^ 32 * v.major + 2 ^ 40 * cause + 2 ^ 48 * v.recOff),
    w64 (vEdone v), if v.status = 1 then v.faultAddr else 0, 0⟩

/-- R307, R308, R310: a finished command leaves the unit once its cycles have passed: its flags join the summary, and it
posts its completion. -/
def execVecdone (core : Nat) (s : State) : Host.Outcome State Fault Refusal :=
  let c := s.core core
  match c.vec with
  | [] => .next s
  | v :: rest =>
    if !v.finished || (v.status ≠ 3 && c.cyc.toNat < c.vecBusy) then .next s
    else
      let i : SlotId := ⟨core, v.slot⟩
      let s := (s.landOwner (vOwner core v)).modCore core (fun c => { c with vec := rest })
      let s := if s.sameTask i v.task then
          s.modSlot i (fun m => { m with vsum := { m.vsum with flags := m.vsum.flags ||| v.flags } })
        else s
      .next (if vCmpl v.record then s.completion i v.task (vecdoneMsg v) else s)

/-- R310: the summary word. -/
def VSum.word (v : VSum) : Word :=
  w64 (v.flags.toNat + 2 ^ 6 * v.fault.toNat + 2 ^ 7 * v.qdead.toNat + 2 ^ 8 * v.canc.toNat)

def execVfence (sBit : Bool) (a : Reg) (s : State) : Host.Outcome State Fault Refusal :=
  issue s (Info.synch sBit 2 [] [codeG a] true 0x213 []) none (fun s =>
    if s.myCore.vec.any (fun v => v.slot == s.cur.slot) then .park (Wait.restartable 0) s
    else
      let v := s.me.vsum
      let flags : Word := (v.flags.extractLsb' 0 5).setWidth 64
      let s := s.modMe (fun m => { m with vsum := VSum.clear, unacquired := m.unacquired.filter (· != kVEC) })
      .done ((s.orFstat flags).addRet { Ret.plain (codeG a) v.word with flags := s.pairFlags flags }))

end Sys2Proof.Machine
end

