-- ==== Sys2Proof/Machine/Dispatch.lean ====
section
/-!
DEFINITION. One arm per constructor of Instr, each a direct call of the instruction's own meaning.
-/
namespace Sys2Proof.Machine

def exec (i : Instr) (s : State) : Host.Outcome State Fault Refusal :=
  match i with
  | .mov x0 x1 x2 x3 x4 => Sys2Proof.Machine.execMov x0 x1 x2 x3 x4 s
  | .add x0 x1 x2 x3 x4 => Sys2Proof.Machine.execAdd x0 x1 x2 x3 x4 s
  | .sub x0 x1 x2 x3 x4 => Sys2Proof.Machine.execSub x0 x1 x2 x3 x4 s
  | .mul x0 x1 x2 x3 x4 => Sys2Proof.Machine.execMul x0 x1 x2 x3 x4 s
  | .mulh x0 x1 x2 x3 x4 => Sys2Proof.Machine.execMulh x0 x1 x2 x3 x4 s
  | .div x0 x1 x2 x3 x4 x5 => Sys2Proof.Machine.execDiv x0 x1 x2 x3 x4 x5 s
  | .rem x0 x1 x2 x3 x4 x5 => Sys2Proof.Machine.execRem x0 x1 x2 x3 x4 x5 s
  | .and x0 x1 x2 x3 => Sys2Proof.Machine.execAnd x0 x1 x2 x3 s
  | .or x0 x1 x2 x3 => Sys2Proof.Machine.execOr x0 x1 x2 x3 s
  | .xor x0 x1 x2 x3 => Sys2Proof.Machine.execXor x0 x1 x2 x3 s
  | .shl x0 x1 x2 x3 x4 => Sys2Proof.Machine.execShl x0 x1 x2 x3 x4 s
  | .shr x0 x1 x2 x3 x4 x5 => Sys2Proof.Machine.execShr x0 x1 x2 x3 x4 x5 s
  | .set x0 x1 x2 x3 x4 => Sys2Proof.Machine.execSet x0 x1 x2 x3 x4 s
  | .minmax x0 x1 x2 x3 x4 x5 => Sys2Proof.Machine.execMinmax x0 x1 x2 x3 x4 x5 s
  | .bfx x0 x1 x2 x3 x4 x5 => Sys2Proof.Machine.execBfx x0 x1 x2 x3 x4 x5 s
  | .cnt x0 x1 x2 x3 x4 => Sys2Proof.Machine.execCnt x0 x1 x2 x3 x4 s
  | .ldi x0 x1 x2 => Sys2Proof.Machine.execLdi x0 x1 x2 s
  | .ld x0 x1 x2 x3 x4 x5 x6 x7 x8 => Sys2Proof.Machine.execLd x0 x1 x2 x3 x4 x5 x6 x7 x8 s
  | .st x0 x1 x2 x3 x4 x5 x6 x7 => Sys2Proof.Machine.execSt x0 x1 x2 x3 x4 x5 x6 x7 s
  | .addr x0 x1 x2 x3 x4 => Sys2Proof.Machine.execAddr x0 x1 x2 x3 x4 s
  | .br x0 x1 => Sys2Proof.Machine.execBr x0 x1 s
  | .bz x0 x1 x2 x3 => Sys2Proof.Machine.execBz x0 x1 x2 x3 s
  | .jal x0 x1 x2 => Sys2Proof.Machine.execJal x0 x1 x2 s
  | .jr x0 x1 x2 => Sys2Proof.Machine.execJr x0 x1 x2 s
  | .loop x0 x1 x2 => Sys2Proof.Machine.execLoop x0 x1 x2 s
  | .srd x0 x1 x2 => Sys2Proof.Machine.execSrd x0 x1 x2 s
  | .swr x0 x1 x2 => Sys2Proof.Machine.execSwr x0 x1 x2 s
  | .qop x0 x1 x2 x3 => Sys2Proof.Machine.execQop x0 x1 x2 x3 s
  | .fence x0 x1 x2 => Sys2Proof.Machine.execFence x0 x1 x2 s
  | .nop x0 => Sys2Proof.Machine.execNop x0 s
  | .tend x0 => Sys2Proof.Machine.execTend x0 s
  | .chunk x0 => Sys2Proof.Machine.execChunk x0 s
  | .brk x0 => Sys2Proof.Machine.execBrk x0 s
  | .fmov x0 x1 x2 x3 => Sys2Proof.Machine.execFmov x0 x1 x2 x3 s
  | .fadd x0 x1 x2 x3 x4 x5 => Sys2Proof.Machine.execFadd x0 x1 x2 x3 x4 x5 s
  | .fsub x0 x1 x2 x3 x4 x5 => Sys2Proof.Machine.execFsub x0 x1 x2 x3 x4 x5 s
  | .fmul x0 x1 x2 x3 x4 x5 => Sys2Proof.Machine.execFmul x0 x1 x2 x3 x4 x5 s
  | .fma x0 x1 x2 x3 x4 x5 x6 => Sys2Proof.Machine.execFma x0 x1 x2 x3 x4 x5 x6 s
  | .fdiv x0 x1 x2 x3 x4 => Sys2Proof.Machine.execFdiv x0 x1 x2 x3 x4 s
  | .fsqrt x0 x1 x2 x3 => Sys2Proof.Machine.execFsqrt x0 x1 x2 x3 s
  | .fmin x0 x1 x2 x3 x4 => Sys2Proof.Machine.execFmin x0 x1 x2 x3 x4 s
  | .fmax x0 x1 x2 x3 x4 => Sys2Proof.Machine.execFmax x0 x1 x2 x3 x4 s
  | .fcmp x0 x1 x2 x3 x4 => Sys2Proof.Machine.execFcmp x0 x1 x2 x3 x4 s
  | .fcvt x0 x1 x2 x3 x4 => Sys2Proof.Machine.execFcvt x0 x1 x2 x3 x4 s
  | .fclass x0 x1 x2 x3 => Sys2Proof.Machine.execFclass x0 x1 x2 x3 s
  | .fsgn x0 x1 x2 x3 x4 x5 => Sys2Proof.Machine.execFsgn x0 x1 x2 x3 x4 x5 s
  | .frcp x0 x1 x2 x3 => Sys2Proof.Machine.execFrcp x0 x1 x2 x3 s
  | .frsq x0 x1 x2 x3 => Sys2Proof.Machine.execFrsq x0 x1 x2 x3 s
  | .fexp2 x0 x1 x2 x3 => Sys2Proof.Machine.execFexp2 x0 x1 x2 x3 s
  | .flog2 x0 x1 x2 x3 => Sys2Proof.Machine.execFlog2 x0 x1 x2 x3 s
  | .ftanh x0 x1 x2 x3 => Sys2Proof.Machine.execFtanh x0 x1 x2 x3 s
  | .fldi x0 x1 x2 => Sys2Proof.Machine.execFldi x0 x1 x2 s
  | .fld x0 x1 x2 x3 x4 x5 x6 x7 => Sys2Proof.Machine.execFld x0 x1 x2 x3 x4 x5 x6 x7 s
  | .fst x0 x1 x2 x3 x4 x5 x6 x7 => Sys2Proof.Machine.execFst x0 x1 x2 x3 x4 x5 x6 x7 s
  | .vadd x0 x1 x2 => Sys2Proof.Machine.execVadd x0 x1 x2 s
  | .vsub x0 x1 x2 => Sys2Proof.Machine.execVsub x0 x1 x2 s
  | .vmul x0 x1 x2 => Sys2Proof.Machine.execVmul x0 x1 x2 s
  | .vfma x0 x1 x2 => Sys2Proof.Machine.execVfma x0 x1 x2 s
  | .vmax x0 x1 x2 => Sys2Proof.Machine.execVmax x0 x1 x2 s
  | .vmin x0 x1 x2 => Sys2Proof.Machine.execVmin x0 x1 x2 s
  | .vscl x0 x1 x2 => Sys2Proof.Machine.execVscl x0 x1 x2 s
  | .vcvt x0 x1 x2 => Sys2Proof.Machine.execVcvt x0 x1 x2 s
  | .vexp2 x0 x1 x2 => Sys2Proof.Machine.execVexp2 x0 x1 x2 s
  | .vtanh x0 x1 x2 => Sys2Proof.Machine.execVtanh x0 x1 x2 s
  | .vrsum x0 x1 x2 => Sys2Proof.Machine.execVrsum x0 x1 x2 s
  | .vrmax x0 x1 x2 => Sys2Proof.Machine.execVrmax x0 x1 x2 s
  | .vcmp x0 x1 x2 => Sys2Proof.Machine.execVcmp x0 x1 x2 s
  | .vsel x0 x1 x2 => Sys2Proof.Machine.execVsel x0 x1 x2 s
  | .vcopy x0 x1 x2 => Sys2Proof.Machine.execVcopy x0 x1 x2 s
  | .vgath x0 x1 x2 => Sys2Proof.Machine.execVgath x0 x1 x2 s
  | .vscat x0 x1 x2 => Sys2Proof.Machine.execVscat x0 x1 x2 s
  | .vtran x0 x1 x2 => Sys2Proof.Machine.execVtran x0 x1 x2 s
  | .vfence x0 x1 => Sys2Proof.Machine.execVfence x0 x1 s
  | .mmI8P x0 x1 x2 x3 x4 x5 => Sys2Proof.Machine.execMmI8P x0 x1 x2 x3 x4 x5 s
  | .mmI4P x0 x1 x2 x3 x4 x5 => Sys2Proof.Machine.execMmI4P x0 x1 x2 x3 x4 x5 s
  | .mmBFB x0 x1 x2 x3 x4 x5 => Sys2Proof.Machine.execMmBFB x0 x1 x2 x3 x4 x5 s
  | .mmBFP x0 x1 x2 x3 x4 x5 => Sys2Proof.Machine.execMmBFP x0 x1 x2 x3 x4 x5 s
  | .msetx x0 x1 x2 => Sys2Proof.Machine.execMsetx x0 x1 x2 s
  | .msetc x0 x1 => Sys2Proof.Machine.execMsetc x0 x1 s
  | .mzero x0 => Sys2Proof.Machine.execMzero x0 s
  | .mskip x0 x1 x2 => Sys2Proof.Machine.execMskip x0 x1 x2 s
  | .moutl x0 x1 x2 => Sys2Proof.Machine.execMoutl x0 x1 x2 s
  | .mcks x0 x1 => Sys2Proof.Machine.execMcks x0 x1 s
  | .mchk x0 x1 => Sys2Proof.Machine.execMchk x0 x1 s
  | .mrel x0 x1 x2 x3 x4 => Sys2Proof.Machine.execMrel x0 x1 x2 x3 x4 s
  | .mwait x0 => Sys2Proof.Machine.execMwait x0 s
  | .qbind x0 x1 x2 => Sys2Proof.Machine.execQbind x0 x1 x2 s
  | .qunb x0 x1 => Sys2Proof.Machine.execQunb x0 x1 s
  | .qgrant x0 x1 x2 x3 => Sys2Proof.Machine.execQgrant x0 x1 x2 x3 s
  | .qalt x0 x1 x2 => Sys2Proof.Machine.execQalt x0 x1 x2 s
  | .qstat x0 x1 x2 => Sys2Proof.Machine.execQstat x0 x1 x2 s
  | .cpy x0 x1 x2 => Sys2Proof.Machine.execCpy x0 x1 x2 s
  | .inb x0 x1 x2 x3 x4 => Sys2Proof.Machine.execInb x0 x1 x2 x3 x4 s
  | .putsg x0 x1 x2 => Sys2Proof.Machine.execPutsg x0 x1 x2 s
  | .getr x0 x1 x2 => Sys2Proof.Machine.execGetr x0 x1 x2 s
  | .jig x0 x1 => Sys2Proof.Machine.execJig x0 x1 s
  | .recast x0 x1 x2 x3 => Sys2Proof.Machine.execRecast x0 x1 x2 x3 s
  | .role x0 x1 => Sys2Proof.Machine.execRole x0 x1 s
  | .dgst x0 x1 x2 => Sys2Proof.Machine.execDgst x0 x1 x2 s
  | .dgx x0 x1 x2 x3 => Sys2Proof.Machine.execDgx x0 x1 x2 x3 s
  | .lrw x0 x1 x2 x3 => Sys2Proof.Machine.execLrw x0 x1 x2 x3 s
  | .sch x0 x1 x2 x3 => Sys2Proof.Machine.execSch x0 x1 x2 x3 s
  | .rls x0 x1 x2 => Sys2Proof.Machine.execRls x0 x1 x2 s
  | .amo x0 x1 x2 x3 x4 => Sys2Proof.Machine.execAmo x0 x1 x2 x3 x4 s
  | .cas x0 x1 x2 x3 => Sys2Proof.Machine.execCas x0 x1 x2 x3 s
  | .famo x0 x1 x2 x3 x4 => Sys2Proof.Machine.execFamo x0 x1 x2 x3 x4 s
  | .red x0 x1 x2 x3 => Sys2Proof.Machine.execRed x0 x1 x2 x3 s
  | .fred x0 x1 x2 x3 => Sys2Proof.Machine.execFred x0 x1 x2 x3 s
  | .barr x0 x1 x2 => Sys2Proof.Machine.execBarr x0 x1 x2 s
  | .bara x0 x1 x2 => Sys2Proof.Machine.execBara x0 x1 x2 s
  | .barw x0 x1 x2 x3 => Sys2Proof.Machine.execBarw x0 x1 x2 x3 s
  | .symg x0 x1 x2 x3 x4 => Sys2Proof.Machine.execSymg x0 x1 x2 x3 x4 s
  | .prom x0 x1 x2 x3 => Sys2Proof.Machine.execProm x0 x1 x2 x3 s
  | .fulf x0 x1 x2 => Sys2Proof.Machine.execFulf x0 x1 x2 s
  | .pwait x0 x1 x2 => Sys2Proof.Machine.execPwait x0 x1 x2 s
  | .heir x0 x1 x2 x3 => Sys2Proof.Machine.execHeir x0 x1 x2 x3 s
  | .estq x0 x1 x2 x3 x4 => Sys2Proof.Machine.execEstq x0 x1 x2 x3 x4 s
  | .capgv x0 x1 x2 x3 => Sys2Proof.Machine.execCapgv x0 x1 x2 x3 s
  | .captk x0 x1 x2 => Sys2Proof.Machine.execCaptk x0 x1 x2 s
  | .capq x0 x1 x2 => Sys2Proof.Machine.execCapq x0 x1 x2 s
  | .fork x0 x1 x2 x3 => Sys2Proof.Machine.execFork x0 x1 x2 x3 s
  | .join x0 x1 x2 x3 => Sys2Proof.Machine.execJoin x0 x1 x2 x3 s
  | .launch x0 x1 x2 => Sys2Proof.Machine.execLaunch x0 x1 x2 s
  | .idr x0 x1 x2 => Sys2Proof.Machine.execIdr x0 x1 x2 s
  | .plive x0 x1 => Sys2Proof.Machine.execPlive x0 x1 s
  | .trap x0 x1 => Sys2Proof.Machine.execTrap x0 x1 s
  | .xret x0 => Sys2Proof.Machine.execXret x0 s
  | .asel x0 x1 x2 x3 => Sys2Proof.Machine.execAsel x0 x1 x2 x3 s
  | .abr x0 x1 x2 x3 x4 => Sys2Proof.Machine.execAbr x0 x1 x2 x3 x4 s
  | .arec x0 x1 x2 => Sys2Proof.Machine.execArec x0 x1 x2 s
  | .apf x0 x1 x2 x3 => Sys2Proof.Machine.execApf x0 x1 x2 x3 s
  | .cntr x0 x1 x2 x3 => Sys2Proof.Machine.execCntr x0 x1 x2 x3 s
  | .tctl x0 x1 x2 x3 => Sys2Proof.Machine.execTctl x0 x1 x2 x3 s
  | .finj x0 x1 x2 => Sys2Proof.Machine.execFinj x0 x1 x2 s
  | .frequencyStep x0 x1 => Sys2Proof.Machine.execFrequencyStep x0 x1 s
  | .relockEnd x0 => Sys2Proof.Machine.execRelockEnd x0 s
  | .powerLimitExceeded x0 x1 => Sys2Proof.Machine.execPowerLimitExceeded x0 x1 s
  | .powerCapSet x0 => Sys2Proof.Machine.execPowerCapSet x0 s
  | .powerCapStep x0 x1 => Sys2Proof.Machine.execPowerCapStep x0 x1 s
  | .sensorSample x0 => Sys2Proof.Machine.execSensorSample x0 s
  | .thermalStep x0 x1 => Sys2Proof.Machine.execThermalStep x0 x1 s
  | .masterWdElection => Sys2Proof.Machine.execMasterWdElection s
  | .laneFailure x0 => Sys2Proof.Machine.execLaneFailure x0 s
  | .linkRetrainDone x0 => Sys2Proof.Machine.execLinkRetrainDone x0 s
  | .linkDown x0 => Sys2Proof.Machine.execLinkDown x0 s
  | .flitReceive x0 x1 => Sys2Proof.Machine.execFlitReceive x0 x1 s
  | .linkNak x0 x1 => Sys2Proof.Machine.execLinkNak x0 x1 s
  | .linkAck x0 x1 => Sys2Proof.Machine.execLinkAck x0 x1 s
  | .packetForward x0 => Sys2Proof.Machine.execPacketForward x0 s
  | .residencyLimit x0 => Sys2Proof.Machine.execResidencyLimit x0 s
  | .put x0 => Sys2Proof.Machine.execPut x0 s
  | .packetPutsg x0 => Sys2Proof.Machine.execPacketPutsg x0 s
  | .get x0 => Sys2Proof.Machine.execGet x0 s
  | .packetAmo x0 => Sys2Proof.Machine.execPacketAmo x0 s
  | .packetCas x0 => Sys2Proof.Machine.execPacketCas x0 s
  | .packetRed x0 => Sys2Proof.Machine.execPacketRed x0 s
  | .packetFamo x0 => Sys2Proof.Machine.execPacketFamo x0 s
  | .packetFred x0 => Sys2Proof.Machine.execPacketFred x0 s
  | .rsp x0 => Sys2Proof.Machine.execRsp x0 s
  | .ack x0 => Sys2Proof.Machine.execAck x0 s
  | .nak x0 => Sys2Proof.Machine.execNak x0 s
  | .flr x0 => Sys2Proof.Machine.execFlr x0 s
  | .lnch x0 => Sys2Proof.Machine.execLnch x0 s
  | .rrpt x0 => Sys2Proof.Machine.execRrpt x0 s
  | .rdc x0 x1 => Sys2Proof.Machine.execRdc x0 x1 s
  | .rdr x0 => Sys2Proof.Machine.execRdr x0 s
  | .reductionTimeout x0 => Sys2Proof.Machine.execReductionTimeout x0 s
  | .ackTimer x0 x1 => Sys2Proof.Machine.execAckTimer x0 x1 s
  | .flrTimer x0 x1 => Sys2Proof.Machine.execFlrTimer x0 x1 s
  | .replayTimeout x0 x1 => Sys2Proof.Machine.execReplayTimeout x0 x1 s
  | .replayRequest x0 x1 => Sys2Proof.Machine.execReplayRequest x0 x1 s
  | .generationAdvance x0 x1 => Sys2Proof.Machine.execGenerationAdvance x0 x1 s
  | .flowReset x0 x1 => Sys2Proof.Machine.execFlowReset x0 x1 s
  | .hostMemAccess x0 x1 x2 => Sys2Proof.Machine.execHostMemAccess x0 x1 x2 s
  | .tail x0 x1 x2 => Sys2Proof.Machine.execTail x0 x1 x2 s
  | .err x0 x1 x2 => Sys2Proof.Machine.execErr x0 x1 x2 s
  | .queueConfigure x0 x1 x2 x3 => Sys2Proof.Machine.execQueueConfigure x0 x1 x2 x3 s
  | .packetFetch x0 x1 => Sys2Proof.Machine.execPacketFetch x0 x1 s
  | .launchPacket x0 x1 => Sys2Proof.Machine.execLaunchPacket x0 x1 s
  | .waitw x0 x1 => Sys2Proof.Machine.execWaitw x0 x1 s
  | .waitwReread x0 x1 => Sys2Proof.Machine.execWaitwReread x0 x1 s
  | .sigw x0 x1 => Sys2Proof.Machine.execSigw x0 x1 s
  | .setdet x0 x1 => Sys2Proof.Machine.execSetdet x0 x1 s
  | .setwt x0 x1 => Sys2Proof.Machine.execSetwt x0 x1 s
  | .aload x0 x1 => Sys2Proof.Machine.execAload x0 x1 s
  | .aseal x0 x1 => Sys2Proof.Machine.execAseal x0 x1 s
  | .completionWordWrite x0 x1 => Sys2Proof.Machine.execCompletionWordWrite x0 x1 s
  | .ageingMeasure x0 x1 => Sys2Proof.Machine.execAgeingMeasure x0 x1 s
  | .correctedError x0 x1 => Sys2Proof.Machine.execCorrectedError x0 x1 s
  | .bucketLeak x0 => Sys2Proof.Machine.execBucketLeak x0 s
  | .update x0 => Sys2Proof.Machine.execUpdate x0 s
  | .tenantKeyWrite x0 x1 => Sys2Proof.Machine.execTenantKeyWrite x0 x1 s
  | .moduleStart x0 => Sys2Proof.Machine.execModuleStart x0 s
  | .journalClear => Sys2Proof.Machine.execJournalClear s
  | .contextStart x0 => Sys2Proof.Machine.execContextStart x0 s
  | .consWrite x0 x1 => Sys2Proof.Machine.execConsWrite x0 x1 s
  | .counterReadClear x0 x1 => Sys2Proof.Machine.execCounterReadClear x0 x1 s
  | .mapEntryWrite x0 x1 x2 x3 => Sys2Proof.Machine.execMapEntryWrite x0 x1 x2 x3 s
  | .mailboxWrite x0 => Sys2Proof.Machine.execMailboxWrite x0 s
  | .supervisorStart x0 x1 x2 => Sys2Proof.Machine.execSupervisorStart x0 x1 x2 s
  | .arbiterRound x0 => Sys2Proof.Machine.execArbiterRound x0 s
  | .recastArrival x0 x1 x2 => Sys2Proof.Machine.execRecastArrival x0 x1 x2 s
  | .icacheFill x0 => Sys2Proof.Machine.execIcacheFill x0 s
  | .returningWrite x0 x1 => Sys2Proof.Machine.execReturningWrite x0 x1 s
  | .sfuTake x0 => Sys2Proof.Machine.execSfuTake x0 s
  | .sfuResult x0 => Sys2Proof.Machine.execSfuResult x0 s
  | .trapEntry x0 => Sys2Proof.Machine.execTrapEntry x0 s
  | .uncorr x0 x1 => Sys2Proof.Machine.execUncorr x0 x1 s
  | .killedReport x0 => Sys2Proof.Machine.execKilledReport x0 s
  | .inboxDeliver x0 x1 x2 => Sys2Proof.Machine.execInboxDeliver x0 x1 x2 s
  | .channelWordArrive x0 x1 x2 => Sys2Proof.Machine.execChannelWordArrive x0 x1 x2 s
  | .grantArrive x0 x1 x2 => Sys2Proof.Machine.execGrantArrive x0 x1 x2 s
  | .revokeArrive x0 => Sys2Proof.Machine.execRevokeArrive x0 s
  | .allowanceReturn x0 x1 x2 => Sys2Proof.Machine.execAllowanceReturn x0 x1 x2 s
  | .granuleAccess x0 => Sys2Proof.Machine.execGranuleAccess x0 s
  | .homeAccess x0 => Sys2Proof.Machine.execHomeAccess x0 s
  | .probeResponse x0 => Sys2Proof.Machine.execProbeResponse x0 s
  | .commitGrant x0 x1 => Sys2Proof.Machine.execCommitGrant x0 x1 s
  | .waitlimit x0 => Sys2Proof.Machine.execWaitlimit x0 s
  | .exit x0 x1 => Sys2Proof.Machine.execExit x0 x1 s
  | .exitReport x0 => Sys2Proof.Machine.execExitReport x0 s
  | .debugResume x0 => Sys2Proof.Machine.execDebugResume x0 s
  | .floodRequest x0 => Sys2Proof.Machine.execFloodRequest x0 s
  | .floodEnd x0 => Sys2Proof.Machine.execFloodEnd x0 s
  | .preemptRequest x0 => Sys2Proof.Machine.execPreemptRequest x0 s
  | .preemptDeadline x0 => Sys2Proof.Machine.execPreemptDeadline x0 s
  | .hoistSave x0 => Sys2Proof.Machine.execHoistSave x0 s
  | .hoistRestore x0 x1 x2 => Sys2Proof.Machine.execHoistRestore x0 x1 x2 s
  | .tensCommandAccept x0 => Sys2Proof.Machine.execTensCommandAccept x0 s
  | .tensorExecute x0 => Sys2Proof.Machine.execTensorExecute x0 s
  | .tensorRetire x0 => Sys2Proof.Machine.execTensorRetire x0 s
  | .vectorExecute x0 x1 => Sys2Proof.Machine.execVectorExecute x0 x1 s
  | .vecdone x0 => Sys2Proof.Machine.execVecdone x0 s
  | .copyTransfer x0 x1 => Sys2Proof.Machine.execCopyTransfer x0 x1 s
  | .copydone x0 => Sys2Proof.Machine.execCopydone x0 s
  | .jigPass x0 x1 => Sys2Proof.Machine.execJigPass x0 x1 s
  | .getdone x0 => Sys2Proof.Machine.execGetdone x0 s
  | .reduceRoundTimeout x0 x1 => Sys2Proof.Machine.execReduceRoundTimeout x0 x1 s
  | .assayMerge x0 => Sys2Proof.Machine.execAssayMerge x0 s
  | .uncorrectableDieFault x0 => Sys2Proof.Machine.execUncorrectableDieFault x0 s
  | .bridgeLaneFailure x0 x1 => Sys2Proof.Machine.execBridgeLaneFailure x0 x1 s

end Sys2Proof.Machine
end

