-- ==== Sys2Proof/Machine/Schedule.lean ====
section
/-!
DEFINITION. Whose turn it is (notes/assumptions/1.md): the head of the agenda, which is the free choice of the run, within
the times that the spec states (R9, R404); else the first event step in flight; else a timed or conditional event step that
would change something; else the cycle of the first core that still has one in this nominal cycle; else the next nominal
cycle.
-/
namespace Sys2Proof.Machine

/-- What a step carries out, and the state it carries it out on. -/
inductive Plan where
  | event (i : Instr) (s : State)
  | cycle (core : Nat) (s : State)
  | nothing (s : State)

-- time

/-- R17: what a nominal cycle adds to a die's count of its 100 MHz oscillator, in millionths: a thirteenth of a tick is a
million, within 100 ppm, once the oscillator has been released (notes/assumptions/1.md). -/
def State.refcPart (s : State) (die : Nat) : Nat :=
  if s.hf.hftBase + Config.refcRelease die s.hf.starts ≤ s.now then 999900 + Config.refcDrift die s.now % 201 else 0

/-- R17, R108: REFC after a nominal cycle: 13 of them make a tick. -/
def Die.tick (d : Die) (part : Nat) : Die :=
  let p := d.refcPart + part
  if 13000000 ≤ p then { d with refc := d.refc + 1, refcPart := p - 13000000 } else { d with refcPart := p }

/-- One nominal cycle of the outside clock, and of the oscillators of the four dies. -/
def State.tick (s : State) : State :=
  { (upFrom 0 4).foldl (fun t d => t.modDie d (fun v => v.tick (s.refcPart d))) s with now := s.now + 1 }

-- what cannot happen now

/-- The core of a message's receiver, where it is known. -/
def State.destCore (s : State) (d : Dest) : Option Nat :=
  match d with
  | .slot i => some i.core
  | .task t => (s.allSlots.find? (fun i => (s.slot i).task.any (fun u => u.ref == t))).map (·.core)
  | .supervisor ctx l die => (s.launch ctx l).bind (fun v => ((tfind v.sups die).bind (·.place)).map (·.core))
  | .group _ => none

/-- The cores whose clocked logic an event step acts in. -/
def State.coresIn (s : State) (i : Instr) : List Nat :=
  match i with
  | .arbiterRound c | .sfuTake c | .sfuResult c | .killedReport c | .tensorExecute c | .tensorRetire c
  | .vectorExecute c _ | .vecdone c | .copyTransfer c _ | .copydone c | .getdone c | .assayMerge c | .hoistSave c
  | .hoistRestore c _ _ => [c]
  | .icacheFill i | .returningWrite i _ | .trapEntry i | .uncorr i _ | .probeResponse i | .commitGrant i _
  | .waitlimit i | .debugResume i | .preemptDeadline i | .tensCommandAccept i => [i.core]
  | .recastArrival _ t _ => [t]
  | .inboxDeliver _ d _ => (s.destCore d).toList
  | .channelWordArrive c _ _ => [c.recv.core]
  | .allowanceReturn c _ _ => [c.recv.core]
  | .grantArrive c _ _ | .revokeArrive c => [c.send.core]
  | _ => []

/-- The dies whose own units an event step acts in. -/
def State.diesIn (s : State) (i : Instr) : List Nat :=
  match i with
  | .exit d _ | .jigPass d _ | .reduceRoundTimeout d _ => [d]
  | i => (s.coresIn i).map (· / 1024)

/-- The packet that an event step is about. -/
def packetIn (i : Instr) : Option Packet :=
  match i with
  | .put p | .packetPutsg p | .get p | .packetAmo p | .packetCas p | .packetRed p | .packetFamo p | .packetFred p
  | .rsp p | .lnch p | .rrpt p | .rdc _ p | .rdr p => some p
  | _ => none

/-- The place from which a unit of a write comes. The Jig is a unit of its die. -/
def WriteOwner.place (o : WriteOwner) : Nat :=
  match o with
  | .engine core _ kind => if kind == kJIG then dieAt (core / 1024) else core
  | .flow _ _ => ioDie

/-- The ways of what some owners have under way, which an event step of theirs may perform. -/
def State.ownPaths (s : State) (mine : WriteOwner → Bool) : List (Nat × Nat) :=
  (s.unitWrites.filter (fun u => mine u.owner)).flatMap (fun u =>
      (u.cells.head?.map (fun c => (u.owner.place, keyPlace c.1))).toList)
    ++ (s.signals.filter (fun e => mine e.owner)).map (fun e => (e.owner.place, s.gaPlace e.agent.ctx e.sig))
def isEngineOf (core kind : Nat) (o : WriteOwner) : Bool :=
  match o with
  | .engine c _ k => c == core && k == kind
  | .flow _ _ => false

/-- R60: the address operand of a queue's packet, or of the descriptor that it names, as a place; the I/O die without a
packet. -/
def State.queuePlaces (s : State) (ctx q : Nat) : List Nat :=
  match (s.queue ctx q).bind (·.packet) with
  | none => []
  | some p => s.gaPlace ctx (pkA p) :: (if 6 ≤ pkType p then match s.descriptor ctx (pkA p) with
    | .ok d => [s.gaPlace ctx (adIMAGE d)] ++ (if adSEALED d = 0 then [] else [s.gaPlace ctx (adSEALED d)])
    | .error _ => [] else [])
/-- The place of a packet's target here. -/
def State.packetPlace (s : State) (p : Packet) : Nat :=
  match p.typ.toNat with
  | 0x20 => dieAt s.master
  | 0x21 => dieAt s.master
  | t => if 3 ≤ t && t ≤ 8 then s.gaPlace ((s.ctxOf p).getD 0) p.addr.toNat else ioDie

/-- The places between which an event step travels (R18, R19). -/
def State.paths (s : State) (i : Instr) : List (Nat × Nat) :=
  match i with
  | .recastArrival f t _ => [(f.core, t)]
  | .inboxDeliver f d _ => (f.bind (fun f => (s.destCore d).map (fun c => (f.core, c)))).toList
  | .channelWordArrive c _ _ | .allowanceReturn c _ _ => [(c.send.core, c.recv.core)]
  | .grantArrive c _ _ | .revokeArrive c => [(c.recv.core, c.send.core)]
  | .exit d _ => [(dieAt s.master, if d < 4 then dieAt d else ioDie)]
  | .supervisorStart _ _ d => [(dieAt s.master, dieAt d)]
  | .completionWordWrite ctx l => (dieAt s.master, ioDie) ::
    ((s.launch ctx l).map (fun v => (dieAt s.master, s.gaPlace ctx (field v.record 0x78 8)))).toList
  | .packetFetch _ _ => [(dieAt s.master, ioDie)]
  | .launchPacket c q | .waitw c q | .waitwReread c q | .sigw c q | .aload c q | .aseal c q =>
    (dieAt s.master, ioDie) :: (s.queuePlaces c q).map (fun p => (dieAt s.master, p))
  | .icacheFill i => (s.icMiss i 5).map (fun l => (keyPlace (64 * l), i.core))
  | .copyTransfer c _ | .copydone c => s.ownPaths (isEngineOf c kCOPY)
  | .getdone c => s.ownPaths (isEngineOf c kGETR) ++
    (((s.core c).copy.find? (fun k => k.getr && k.gets.isEmpty)).map (fun k =>
      [(s.gaPlace (s.core c).tenant.toNat (dSRC k.record), c)])).getD []
  | .tensorRetire c => s.ownPaths (isEngineOf c kTENS)
  | .vectorExecute c _ | .vecdone c => s.ownPaths (isEngineOf c kVEC)
  | .ackTimer src cls => s.ownPaths (· == .flow src cls)
  | .hostMemAccess _ a _ => [(ioDie, hdmCore a)]
  | .homeAccess id =>
    (s.homeWrites.takeWhile (fun w => w.id ≤ id)).flatMap (fun w => (w.cells.head?.map (fun c => (w.src, keyPlace c.1))).toList)
      ++ (s.unitWrites.filter (fun u => u.id == id)).flatMap (fun u =>
        (u.cells.head?.map (fun c => (u.owner.place, keyPlace c.1))).toList)
      ++ (s.signals.filter (fun e => e.id == id)).map (fun e => (e.owner.place, s.gaPlace e.agent.ctx e.sig))
  | .commitGrant i _ =>
    ((s.slot i).chunks.head?.map (fun c => c.writes.map (fun w => (i.core, keyPlace w.1)))).getD []
  | .probeResponse i =>
    ((s.slot i).chunks.head?.map (fun c => c.probes.map (fun k => (i.core, (k - 2 ^ 80) / 2 ^ 68)))).getD []
  | .returningWrite i n => (((s.slot i).returns[n]?).bind (·.src)).toList.map (fun p => (p, i.core))
  | .granuleAccess g =>
    let home := keyPlace (16 * g)
    (((s.core home).granQ.find? (fun w => w.key == g)).map (fun w => (if w.pkt.isSome then ioDie else w.who.core, home))).toList
  | .jigPass d _ => ((s.jigTurn d).map (fun c =>
      [jSCORES c.record, jIDX c.record, jWGT c.record, jHIST c.record].map (fun ga => (dieAt d, s.gaPlace c.ctx ga))
        ++ s.ownPaths (· == c.owner))).getD []
  | i => (packetIn i).toList.flatMap (fun p =>
    (ioDie, s.packetPlace p) :: s.ownPaths (· == .flow p.src.toNat p.cls.toNat))

/-- R80: what the mailbox still serves after a halt. -/
def servesHalted (i : Instr) : Bool :=
  match i with
  | .mailboxWrite _ | .moduleStart _ | .journalClear | .update _ | .tenantKeyWrite _ _ | .consWrite _ _
  | .counterReadClear _ _ | .powerCapSet _ | .queueConfigure _ _ _ _ | .floodRequest _ | .mapEntryWrite _ _ _ _
  | .contextStart _ | .preemptRequest _ | .debugResume _ | .replayRequest _ _ | .flowReset _ _ => true
  | _ => false

/-- R18: whether a core's clock is stopped for a relock. A core inside a rotation finishes it first. -/
def State.clockStopped (s : State) (core : Nat) : Bool :=
  (s.island (islandOf core)).relock.isSome && (s.core core).atBoundary

/-- R118: whether a core's network 2 is held up by a message of it that waits for a shared inbox entry. -/
def State.backPressed (s : State) (core : Nat) : Bool :=
  s.cores.any (fun e => e.2.niWait.any (fun w => w.1.any (fun i => i.core == core)))

/-- R18, R19, R20, R23, R80, R181: whether an event step has to wait: its core's clock is stopped, what it brings is held up
on its way, its die is held in reset, the module is halted, or R23 limits the tensor engines. -/
def State.heldBack (s : State) (i : Instr) : Bool :=
  (s.halted && !servesHalted i)
    || (s.coresIn i).any s.clockStopped
    || (s.diesIn i).any (fun d => (s.die d).heldReset)
    || (s.paths i).any (fun p => s.blocked p.1 p.2)
    || (match i with
        | .tensorExecute c => s.hf.throttle && (s.core c).cyc.toNat % 16 != 0
        | .channelWordArrive ⟨e, f⟩ _ (some _) => (s.core e.core).recastAt == some (s.core e.core).cyc.toNat || s.backPressed f.core
        | .inboxDeliver (some f) _ _ => s.backPressed f.core
        | _ => false)

/-- The channel whose receiver sends a message of mesh network 3, a grant or a revoke. -/
def netThree (i : Instr) : Option EndId :=
  match i with
  | .grantArrive c _ _ | .revokeArrive c => some c.recv
  | _ => none

/-- Whether what is in flight has to wait for an earlier one: a word of the same channel (R116), a grant or a revoke of it
(R333), a message of the same sender to the same destination (R118, R130), or a packet of the same flow that is held up
(R19, R36). -/
def State.follows (s : State) (i j : Instr) : Bool :=
  match i, j with
  | .channelWordArrive c _ _, .channelWordArrive d _ _ => d.recv == c.recv
  | .inboxDeliver a d _, .inboxDeliver b f _ => a == b && d == f
  | i, j => match packetIn i, packetIn j with
    | some p, some q => p.src == q.src && p.cls == q.cls && s.heldBack j
    | _, _ => (netThree i).isSome && netThree i == netThree j

def State.mayDeliver (s : State) (k : Nat) : Bool :=
  match s.inflight[k]? with
  | none => false
  | some i => !s.heldBack i && (s.inflight.take k).all (fun j => !s.follows i j)

/-- R9, R17: whether a core's clock, at its frequency of 0.65 + 0.05·n GHz, has an edge in this nominal cycle. -/
def State.clockEdge (s : State) (core : Nat) : Bool :=
  let f := 13 + (s.island (islandOf core)).step
  s.now * f / 26 < (s.now + 1) * f / 26

/-- R9, R16, R18, R20, R23, R80: whether a core's next cycle is to come in this nominal cycle. -/
def State.cycleDue (s : State) (core : Nat) : Bool :=
  s.clocked core && !s.clockStopped core && s.clockEdge core && (s.core core).beat ≤ s.now

/-- R94: whether a core may have its next cycle. At a boundary the arbiter comes first. -/
def State.coreRuns (s : State) (core : Nat) : Bool :=
  s.cycleDue core && !((s.core core).roundDue && (s.core core).atBoundary)

-- one cycle

/-- One cycle of a core: the slot whose cycle it is issues what it finds at its PC. -/
def cycle (core : Nat) (s : State) : Host.Outcome State Fault Refusal :=
  let i : SlotId := ⟨core, (s.core core).cyc.toNat % 8⟩
  match s.doing i with
  | .issue ins =>
    match exec ins { s with cur := i } with
    | .next t => .next (t.endCycle i (s.slot i))
    | o => o
  | _ => .next (s.emptyCycle i)

-- what is due

/-- An event step that may be due if the condition holds. -/
def evIf (b : Bool) (i : Instr) : List Instr := if b then [i] else []

/-- The event steps of a slot that may be due. -/
def State.slotEvents (s : State) (i : SlotId) : List Instr :=
  let m := s.slot i
  let cyc := (s.core i.core).cyc.toNat
  List.flatten [
    ((m.returns.findIdx? (fun (r : Ret) => r.ready cyc)).map (fun n => Instr.returningWrite i n)).toList,
    evIf (m.chunks.head?.any (fun c => c.closed && !c.probed && !c.probes.isEmpty)) (.probeResponse i),
    evIf (s.mayCommit i) (.commitGrant i []),
    evIf (!(m.fifoOf 3).ops.isEmpty) (.tensCommandAccept i)]

/-- R94, R102, R119, R155, R225, R289, R290, R307, R327: the event steps of a core whose time its clock gives, and which no agenda
can put off. -/
def State.clockedEvents (s : State) (core : Nat) : List Instr :=
  let c := s.core core
  List.flatten [
    evIf (c.roundDue && c.atBoundary) (.arbiterRound core),
    (upFrom 0 8).flatMap (fun n =>
      let i : SlotId := ⟨core, n⟩
      let m := s.slot i
      List.flatten [
        ((m.returns.findIdx? (fun (r : Ret) => r.due.isSome && r.ready c.cyc.toNat)).map (fun k => Instr.returningWrite i k)).toList,
        evIf (m.overLimit && m.resume.isNone) (.waitlimit i), evIf m.trapReady (.trapEntry i),
        evIf (s.deadlineDue i) (.preemptDeadline i)]),
    evIf (c.sfuRun.any (fun r => r.2 ≤ c.cyc.toNat)) (.sfuResult core), evIf (!c.sfuQ.isEmpty && c.sfuReady) (.sfuTake core),
    evIf (!c.tens.isEmpty) (.tensorRetire core), evIf (!c.vec.isEmpty) (.vecdone core),
    evIf (!c.vec.isEmpty && c.vecBusy ≤ c.cyc.toNat) (.vectorExecute core 0)]

/-- The event steps of a core that may be due. -/
def State.coreEvents (s : State) (core : Nat) : List Instr :=
  let c := s.core core
  List.flatten [
    s.clockedEvents core,
    (upFrom 0 8).flatMap (fun n => s.slotEvents ⟨core, n⟩),
    evIf (!c.tens.isEmpty) (.tensorExecute core), evIf (!c.vec.isEmpty) (.vectorExecute core 0),
    evIf (!c.copy.isEmpty) (.getdone core), evIf (!c.copy.isEmpty) (.copydone core),
    evIf (!c.copy.isEmpty) (.copyTransfer core 0),
    evIf (!c.kills.isEmpty && s.killReady core) (.killedReport core), evIf (s.saveReady core) (.hoistSave core)]

/-- The event steps of a context that may be due. -/
def State.ctxEvents (s : State) (ctx : Nat) : List Instr :=
  let c := s.ctx ctx
  evIf (s.floodOver ctx) (.floodEnd ctx)
  ++ c.launches.flatMap (fun l => l.2.exiting.flatMap (fun e => e.2.2.map (fun d => Instr.exit d e.1))
      ++ evIf (s.launchOver ctx l.1 l.2) (.completionWordWrite ctx l.1))
  ++ (if c.started && !c.flooded then c.queues.filterMap (fun q => s.queueDue ctx q.1 q.2) else [])

/-- R25, R32, R34, R35, R37, R41, R51: the event steps of the links, flows and reduction groups whose time has come. -/
def State.fabricTimed (s : State) : List Instr :=
  (upFrom 0 (s.transit.length + s.arrivals.length)).map Instr.residencyLimit
  ++ (s.flowsIn.filter (fun f => f.2.unacked != 0 && f.2.oldest + usec ≤ s.now)).map (fun f => Instr.ackTimer (f.1 / 4) (f.1 % 4))
  ++ s.flowsOut.flatMap (fun f => [.generationAdvance (f.1 / 4) (f.1 % 4), .replayTimeout (f.1 / 4) (f.1 % 4),
      .flrTimer (f.1 / 4) (f.1 % 4)])
  ++ s.groups.map (fun g => Instr.reductionTimeout g.1)
  ++ (s.ports.filter (fun p => p.2.training && p.2.trainFrom + 4 * usec ≤ s.now)).map (fun p => Instr.linkRetrainDone p.1)

/-- R18, R23, R71, R74, R75: the event steps of clocks and sensors whose time has come. The readings are free values. -/
def State.sensorTimed (s : State) : List Instr :=
  s.islands.flatMap (fun i => evIf i.2.relock.isSome (.relockEnd [i.1]) ++ evIf i.2.hot (.thermalStep i.1 i.2.temp))
  ++ evIf (s.hf.sampled < s.samplings) (.sensorSample (Config.sensors s.hf.starts s.samplings))
  ++ (if s.ageIntervals = 0 then [] else ((upFrom 0 octetCount).filter s.ageDue).map (fun o =>
      Instr.ageingMeasure o (Config.ageCount o s.hf.starts s.ageIntervals)))
  ++ s.hf.buckets.map (fun b => Instr.bucketLeak b.1)

/-- R404: the event steps whose time the spec states in nominal cycles, and which no agenda can put off: beside those of the
fabric and the sensors, the re-read of WAITW (R61), the merge of R381, the limits of R359 and R152, and the election of R96. -/
def State.timedEvents (s : State) : List Instr :=
  s.sensorTimed ++ s.fabricTimed
  ++ s.ctxs.flatMap (fun c => c.2.queues.filterMap (fun q =>
      if q.2.lastRead.isSome && c.2.started && !c.2.flooded then s.queueDue c.1 q.1 q.2 else none)
    ++ evIf (c.2.floodAt + 100 * usec ≤ s.now) (.floodEnd c.1))
  ++ s.dies.flatMap (fun d => d.2.sync.filterMap (fun m => match m.2 with
    | .reduce _ _ _ held _ => if held.isEmpty then none else some (Instr.reduceRoundTimeout d.1 m.1)
    | _ => none))
  ++ (s.cores.filter (fun c => s.mergeDue c.1 || !c.2.merging.isEmpty)).map (fun c => Instr.assayMerge c.1)
  ++ evIf (s.electAt.any (fun t => t + 10 * usec ≤ s.now)) .masterWdElection

/-- The event steps of the package that may be due, in the order in which they are looked at. -/
def State.events (s : State) : List Instr :=
  s.homeWrites.map (fun w => .homeAccess w.id)
  ++ s.cores.flatMap (fun c => s.coreEvents c.1)
  ++ s.unitWrites.map (fun u => .homeAccess u.id) ++ s.signals.map (fun e => .homeAccess e.id)
  ++ s.dies.flatMap (fun d => evIf (!d.2.jig.isEmpty) (.jigPass d.1 0))
  ++ s.ctxs.flatMap (fun c => s.ctxEvents c.1)
  ++ s.timedEvents
  ++ (s.flowsIn.filter (fun f => f.2.unacked != 0)).map (fun f => .ackTimer (f.1 / 4) (f.1 % 4))
  ++ evIf s.electAt.isSome .masterWdElection

/-- Whether an event step would change the state. -/
def State.moves (s : State) (i : Instr) : Bool :=
  match exec i s with
  | .next t => decide (t ≠ s)
  | _ => false

/-- The first event step of a list that is due. -/
def State.firstDue (s : State) (l : List Instr) : Option Instr := l.find? (fun i => !s.heldBack i && s.moves i)
def State.due (s : State) : Option Instr := s.firstDue s.events

/-- R179: a one-instruction chunk of a re-run commits before anything else happens. -/
def State.serialDue (s : State) : Option SlotId :=
  s.allSlots.find? (fun i => (s.slot i).chunks.head?.any (fun c => c.serial) && s.mayCommit i)

-- the choice

/-- A cycle of a core, which then waits for the next nominal cycle. -/
def State.planCycle (s : State) (core : Nat) : Plan := .cycle core (s.modCore core (fun c => { c with beat := s.now + 1 }))

/-- A core's part of this nominal cycle: what its clock makes due, then its cycle. -/
def State.coreTurn (s : State) (core : Nat) : Plan :=
  match s.firstDue (s.clockedEvents core) with
  | some i => .event i s
  | none => s.planCycle core

/-- The first listed core whose cycle is still to come in this nominal cycle. -/
def State.lateCore (s : State) : Option Nat := (s.cores.find? (fun c => s.coreRuns c.1
    || (s.cycleDue c.1 && (s.firstDue (s.clockedEvents c.1)).isSome))).map Prod.fst

/-- R9, R404: what has to come before a turn of the agenda: before a core's cycle what its clock makes due, before a nominal
cycle passes what that moment makes due and the cycles of every core. -/
def State.before (s : State) (t : Turn) : Option Plan :=
  match t with
  | .cycle c => if s.cycleDue c then (s.firstDue (s.clockedEvents c)).map (fun i => Plan.event i s) else none
  | .tick => match s.firstDue s.timedEvents with
    | some i => some (.event i s)
    | none => s.lateCore.map s.coreTurn
  | _ => none

/-- The head of the agenda carried out; a turn that cannot be taken now is passed over. -/
def State.takeTurn (s : State) (t : Turn) : Plan :=
  match t with
  | .event i => if s.heldBack i then .nothing s else .event i s
  | .cycle c => if s.coreRuns c then s.planCycle c else .nothing s
  | .tick => .nothing s.tick
  | .deliver k =>
    match s.inflight[k]? with
    | some i => if s.mayDeliver k then .event i { s with inflight := s.inflight.eraseIdx k } else .nothing s
    | none => .nothing s

/-- Whose turn it is. -/
def State.plan (s : State) : Plan :=
  match s.serialDue with
  | some i => .event (.commitGrant i []) s
  | none =>
    match s.agenda with
    | t :: rest => (s.before t).getD (({ s with agenda := rest } : State).takeTurn t)
    | [] =>
      match (upFrom 0 s.inflight.length).find? s.mayDeliver with
      | some k => s.takeTurn (.deliver k)
      | none =>
        match s.due with
        | some i => .event i s
        | none => match s.lateCore with
          | some c => s.coreTurn c
          | none => .nothing s.tick

end Sys2Proof.Machine
end

