-- ==== Sys2Proof/Machine/Step.lean ====
section
/-!
DEFINITION. One step of the machine: an event step, or one cycle of one core (R103).
-/
namespace Sys2Proof.Machine

def step (s : State) : Host.Outcome State Fault Refusal :=
  match s.plan with
  | .event i s => exec i s
  | .cycle c s => cycle c s
  | .nothing s => .next s

/-- The task that withFetchWord gives slot 0 of core 0: a launched task of one slot that checks no capability. -/
def probeTask : Task :=
  { ref := ⟨0, 0, 0⟩, lead := 0, n := 1, trailing := false, sup := false, supDie := 0, lmb := 0, abb := 0, wbb := 0, cbb := 0
    handle := 0, kcb := 0, zlive := 0, maxfork := 0, restart := false, nlvl := 2, entry := 0, arg := 0, gen := 0, life := 0 }

/-- notes/assumptions/13.md: the state in which the next step issues an instruction: context 0 runs with one core, whose
BM page 0 holds the words, slot 0 of that core owns a task at its first word, the core's cycle is the next turn, and nothing
that its clock makes due or a relock comes before it. -/
def State.withFetchWord (s : State) (nbits w : Nat) : State :=
  let bytes := halfBytes (tableWords nbits w)
  let slot : Slot := { s.slot ⟨0, 0⟩ with
    status := .ready, task := some probeTask, wait := none, trap := none, returns := [], chunks := []
    arch := { (s.slot ⟨0, 0⟩).arch with pc := w64 (gaOf s.pkg.toNat 0 spBM 0) } }
  let base := pa spBM 0 0
  let mem := memSetAll s.mem (cellsOf base bytes)
  let core : Core := (({ s.core 0 with
    cyc := 0, beat := 0, slots := Vector.replicate 8 Slot.reset, sfuQ := [], sfuRun := [], tens := [], vec := [], tenant := 0, sealed := none, roundDue := false, icache := [icLine base], saved := []
    pageMap := tset (s.core 0).pageMap 0 0x80000000 } : Core)).setSlot 0 slot
  let ctx : Ctx := { s.ctx 0 with
    started := true, flooded := false, preempt := none, win := tset (s.ctx 0).win 0 0x0101, cte := tset (s.ctx 0).cte 0 0x8000 }
  let s := { s with agenda := [.cycle 0], halted := false, mem := mem }
  let s := (s.setCore 0 core).setCtx 0 ctx
  let s := { s with islands := tmap (fun _ (v : Island) => { v with relock := none }) s.islands }
  let s := s.setIsland 0 { s.island 0 with step := topStep, relock := none }
  s.modDie 0 (fun d => { d with fenced := false, heldReset := false })

end Sys2Proof.Machine
end

