-- ==== Sys2Proof/Safety.lean ====
section
/-!
DEFINITION. What the statements speak of: runs that go on, when a slot may issue, and what an instruction that completes
leaves as it was.
-/
namespace Sys2Proof

/-- A step that answers a next state. -/
def Machine.State.goesOn (s : Machine.State) : Prop := ∃ t, Machine.step s = .next t

namespace Claims
open Sys2Proof.Machine

-- when a slot may issue

/-- R105, R388, R121: none of the registers is pending, none of those read has bad parity, and the slot, one of the
eight of its core, is no thread of a redundant pair. -/
def Clear (s : State) (reads writes : List Nat) : Prop :=
  s.cur.slot < 8 ∧ (∀ c ∈ reads ++ writes, c ≠ 0 → c ∉ s.me.pendingCodes) ∧ (∀ c ∈ reads, c ≠ 0 → c ∉ s.me.parity)
    ∧ ∀ t, s.me.task = some t → t.n ≠ 2

/-- R179: an instruction of a chunk issues unless it opens a chunk of a series whose turn has not come. -/
def MayIssue (s : State) (reads writes : List Nat) : Prop := Clear s reads writes ∧ s.seriesWaits s.cur = false

/-- R175, R177: a synchronising instruction issues once every earlier chunk has committed. -/
def MayIssueAlone (s : State) (reads writes : List Nat) : Prop := Clear s reads writes ∧ s.me.chunks = []

-- what an instruction leaves as it was

/-- What the issue of an instruction does to its slot beside its own effect: the fields named are those that R103, R105,
R175, R179, R386 and R388 change; COMMITTED is counted in counter 0. -/
def SlotFrame (m m' : Slot) : Prop :=
  m' = { m with
    arch := m'.arch, status := m'.status, returns := m'.returns, chunks := m'.chunks, chunkNo := m'.chunkNo
    serial := m'.serial, streaks := m'.streaks, issued := m'.issued, wait := m'.wait, resume := m'.resume, queued := m'.queued, sent := m'.sent
    parity := m'.parity, counters := m'.counters } ∧ ∀ n, n ≠ 0 → m'.counters[n]? = m.counters[n]?

/-- R103, R105: after an instruction the slot is ready, or parked by its S bit while a register is pending. -/
def StatusAfter (m m' : Slot) (sBit : Bool) : Prop :=
  m.status = .ready ∨ m.status = .parked → m'.status = if sBit && m'.anyPending then .parked else .ready

/-- An instruction that changes only its own slot: there the registers become `r`, and the values `new` are on their way;
every other slot, every byte of memory and every other part of the machine is as before. -/
def Completed (s t : State) (sBit : Bool) (r : Arch) (new : List Ret) : Prop :=
  t = s.setMe t.me ∧ SlotFrame s.me t.me ∧ StatusAfter s.me t.me sBit ∧ t.me.arch = r
    ∧ t.me.returns = s.me.returns ++ new ∧ ∀ k, t.byte k = s.byte k

/-- An instruction that changes other parts of the machine too: its slot's registers become `r`, the values `new` are on
their way, no other slot's registers or returning values change, and no byte of memory does. -/
def Effect (s t : State) (r : Arch) (new : List Ret) : Prop :=
  (t.slot s.cur).arch = r ∧ (t.slot s.cur).returns = s.me.returns ++ new
    ∧ (∀ j, j ≠ s.cur → (t.slot j).arch = (s.slot j).arch ∧ (t.slot j).returns = (s.slot j).returns)
    ∧ ∀ k, t.byte k = s.byte k

/-- The registers at the instruction after one of n words (NPC). -/
def npc (s : State) (n : Nat) : Word := s.pc + w64 (2 * n)
def atPc (r : Arch) (pc : Word) : Arch := { r with pc := pc }

-- traps

/-- What R139 to R141 make of a slot's registers when a trap is taken: the saved registers and the status written, the PC
at XVEC. -/
def trapArch (r : Arch) (c : Cause) (v pc : Word) : Arch :=
  { r with xcause := c.code.setWidth 64, xval := v, xpc := pc, trapped := true, sup := true, pc := r.xvec }

/-- Nothing stands between a trap of the slot and its handler: no value but an SFU result is returning, no chunk with an
instruction in it is uncommitted, and the slot is no thread of a redundant pair. -/
def TrapsAtOnce (s : State) (i : SlotId) : Prop :=
  i.slot < 8 ∧ s.partner i = none ∧ (∀ r ∈ (s.slot i).returns, r.sfu = true) ∧ ∀ c ∈ (s.slot i).chunks, c.count = 0

-- what every step keeps

/-- Memory is in its canonical form, and the table of cores lists each core once, in rising order. -/
def Inv (s : State) : Prop := memWf s.mem = true ∧ (s.cores.map Prod.fst).Pairwise (· < ·)

end Claims

end Sys2Proof
end

