-- ==== Sys2Proof/Certificates/Slice0/Obligations.lean ====
section
/-!
DEFINITION. The statements for the provers. The first part names what the statements speak of: when a slot may issue,
what an instruction that completes leaves as it was, and the results that the spec's rules give.
-/
namespace Sys2Proof.Claims
open Sys2Proof.Machine

-- results of page 0 (R262 to R267, R202)

/-- R262: a value at width 64, or the low 32 bits sign-extended under W32. -/
def res (w32 : Bool) (v : Int) : Word := if w32 then i64 (sext 32 (v % 2 ^ 32).toNat) else i64 v
def width (w32 : Bool) : Nat := if w32 then 32 else 64
/-- An operand at its width, unsigned and signed. -/
def opd (w32 : Bool) (x : Word) : Int := ((x.toNat % 2 ^ width w32 : Nat) : Int)
def opdS (w32 : Bool) (x : Word) : Int := sext (width w32) x.toNat

/-- R202: quotient and remainder. -/
def quo (u w32 : Bool) (x y : Word) : Int :=
  if u then (if opd w32 y = 0 then 2 ^ width w32 - 1 else opd w32 x / opd w32 y)
  else if opdS w32 y = 0 then -1
  else if opdS w32 x = -2 ^ (width w32 - 1) ∧ opdS w32 y = -1 then -2 ^ (width w32 - 1)
  else (opdS w32 x).tdiv (opdS w32 y)
def rem (u w32 : Bool) (x y : Word) : Int :=
  if u then (if opd w32 y = 0 then opd w32 x else opd w32 x - quo u w32 x y * opd w32 y)
  else if opdS w32 y = 0 then opdS w32 x
  else if opdS w32 x = -2 ^ (width w32 - 1) ∧ opdS w32 y = -1 then 0
  else opdS w32 x - quo u w32 x y * opdS w32 y

/-- R262: the condition of SET. -/
def holds (cond : BitVec 3) (x y : Word) : Bool :=
  match cond.toNat with
  | 0 => decide (x = y)
  | 1 => decide (x ≠ y)
  | 2 => decide (x.toInt < y.toInt)
  | 3 => decide (x.toInt ≥ y.toInt)
  | 4 => decide (x.toNat < y.toNat)
  | _ => decide (x.toNat ≥ y.toNat)

/-- R265: the E low bits of g[b] shifted right by POS, or g[a] with the field replaced. -/
def field265 (sx ins : Bool) (old x y : Word) : Word :=
  let pos := wbits y 5 0
  let len := if wbits y 11 6 = 0 then 64 else wbits y 11 6
  let e := min len (64 - pos)
  if ins then
    w64 (old.toNat % 2 ^ pos + 2 ^ pos * (x.toNat % 2 ^ e) + old.toNat / 2 ^ (pos + e) * 2 ^ (pos + e))
  else if sx then i64 (sext e (x.toNat / 2 ^ pos)) else w64 (x.toNat / 2 ^ pos % 2 ^ e)

/-- R266: the number of set bits among n, and of zeros above the highest or below the lowest. -/
def ones (x n : Nat) : Nat := ((upFrom 0 n).filter (fun i => x.testBit i)).length
def zerosBelow (x n : Nat) : Nat := ((upFrom 0 n).takeWhile (fun i => !x.testBit i)).length
def zerosAbove (x n : Nat) : Nat := ((upFrom 0 n).reverse.takeWhile (fun i => !x.testBit i)).length

/-- An immediate result of page 0 (R104): S bit, length in words, registers read, destination and value. -/
structure IntResult where
  s : Bool
  len : Nat
  reads : List Nat
  dest : Reg
  value : Word

/-- R262 to R267: what each instruction writes. -/
def intResult (s : State) (i : Instr) : Option IntResult :=
  match i with
  | .mov h a b sz z =>
    let n := 8 * Machine.sizeOf sz
    some ⟨h.s, len0 h 0, [codeG b], a, if z then w64 ((s.g b).toNat % 2 ^ n) else i64 (sext n (s.g b).toNat)⟩
  | .add h a b y w => op h a b y (fun p q => res w (p.toNat + q.toNat))
  | .sub h a b y w => op h a b y (fun p q => res w (p.toNat - q.toNat))
  | .mul h a b y w => op h a b y (fun p q => res w (p.toNat * q.toNat))
  | .mulh h a b y u => op h a b y (fun p q =>
      i64 (if u then ((p.toNat * q.toNat / 2 ^ 64 : Nat) : Int) else p.toInt * q.toInt / 2 ^ 64))
  | .and h a b y => op h a b y (fun p q => p &&& q)
  | .or h a b y => op h a b y (fun p q => p ||| q)
  | .xor h a b y => op h a b y (fun p q => p ^^^ q)
  | .shl h a b y w => op h a b y (fun p q => res w (p.toNat * 2 ^ (q.toNat % width w)))
  | .shr h a b y w ar => op h a b y (fun p q => res w ((if ar then opdS w p else opd w p) / 2 ^ (q.toNat % width w)))
  | .set h a b y c => op h a b y (fun p q => if holds c p q then 1 else 0)
  | .minmax h a b y mx u => op h a b y (fun p q =>
      i64 (match mx, u with
        | false, false => min p.toInt q.toInt
        | true, false => max p.toInt q.toInt
        | false, true => min (p.toNat : Int) q.toNat
        | true, true => max (p.toNat : Int) q.toNat))
  | .bfx h a b y sx ins =>
    some ⟨h.s, len0 h (Src.n y), (if ins then [codeG a] else []) ++ codeG b :: Src.codes y, a,
      field265 sx ins (s.g a) (s.g b) (Src.val y s)⟩
  | .cnt h a b o w =>
    some ⟨h.s, len0 h 0, [codeG b], a, w64 (match o.toNat with
      | 0 => ones (s.g b).toNat (width w)
      | 1 => zerosAbove (s.g b).toNat (width w)
      | _ => zerosBelow (s.g b).toNat (width w))⟩
  | .ldi c a n => some ⟨c, 1 + n.hi.length, [], a, i64 (immVal n)⟩
  | _ => none
where
  op (h : Hdr) (a b : Reg) (y : Src) (f : Word → Word → Word) : Option IntResult :=
    some ⟨h.s, len0 h (Src.n y), codeG b :: Src.codes y, a, f (s.g b) (Src.val y s)⟩

/-- R273: whether a branch is taken. -/
def taken (cond : BitVec 2) (x : Word) : Prop :=
  (cond = 0 ∧ x = 0) ∨ (cond = 1 ∧ x ≠ 0) ∨ (cond = 2 ∧ x.toInt < 0) ∨ (cond = 3 ∧ 0 ≤ x.toInt)

/-- R273: T. -/
def branchTo (s : State) (i : ImmB) : Word := s.pc + i64 (2 * immVal i)


-- results of page 1 (R281 to R288)

/-- An immediate result of page 1 (R104): S bit, length in words, registers read and written, and the registers after. -/
structure FloatResult where
  s : Bool
  len : Nat
  reads : List Nat
  writes : List Nat
  after : Arch

/-- R201: the flags of a result join FSTAT. -/
def withFlags (r : Arch) (f : Fl) : Arch := { r with fstat := r.fstat ||| f.word }

/-- R282 to R288: what each instruction writes. -/
def floatResult (s : State) (i : Instr) : Option FloatResult :=
  let r := s.me.arch
  match i with
  | .fmov h a b dir => some ⟨h.s, lenP h.rgx 0, [if dir = 1 then codeG b else codeF b],
      [if dir = 2 then codeG a else codeF a],
      if dir = 0 then r.setF a (s.f b) else if dir = 1 then r.setF a (BitVec.ofNat 32 (s.g b).toNat)
      else r.setG a (w64 (s.f b).toNat)⟩
  | .fadd h a b c bf rm => two h a b c (lanes bf (fun p x y _ => fAdd p rm.toNat x y) (s.f b) (s.f c) 0)
  | .fsub h a b c bf rm => two h a b c (lanes bf (fun p x y _ => fSub p rm.toNat x y) (s.f b) (s.f c) 0)
  | .fmul h a b c bf rm => two h a b c (lanes bf (fun p x y _ => fMul p rm.toNat x y) (s.f b) (s.f c) 0)
  | .fmin h a b c bf => two h a b c (lanes bf (fun p x y _ => fMinMax p false x y) (s.f b) (s.f c) 0)
  | .fmax h a b c bf => two h a b c (lanes bf (fun p x y _ => fMinMax p true x y) (s.f b) (s.f c) 0)
  | .fma sb a b c neg bf rm =>
    let v := lanes bf (fun p x y z => fFma p rm.toNat neg x y z) (s.f b) (s.f c) (s.f a)
    some ⟨sb, 3, [codeF a, codeF b, codeF c], [codeF a], withFlags (r.setF a v.1) v.2⟩
  | .fsgn h a b c op bf => some ⟨h.s, lenP h.rgx 0, if op = 3 then [codeF b] else [codeF b, codeF c], [codeF a],
      r.setF a (fSgn op bf (s.f b) (s.f c))⟩
  | .fcmp h a b c cond =>
    let v := fCompare pFP32 cond.toNat (s.f b).toNat (s.f c).toNat
    some ⟨h.s, lenP h.rgx 0, [codeF b, codeF c], [codeG a], withFlags (r.setG a (if v.1 then 1 else 0)) v.2⟩
  | .fclass h a b bf => some ⟨h.s, lenP h.rgx 0, [codeF b], [codeG a],
      r.setG a (w64 (if bf then fClassify pBF16 ((s.f b).toNat % 65536) else fClassify pFP32 (s.f b).toNat))⟩
  | .fcvt h a b code rm =>
    if code.toNat ≤ 3 then
      let v := toIntBy code.toNat rm.toNat (s.f b).toNat
      some ⟨h.s, lenP h.rgx 0, [codeF b], [codeG a], withFlags (r.setG a v.1) v.2⟩
    else
      let v := toFloatBy code.toNat rm.toNat (s.g b) (s.f b)
      some ⟨h.s, lenP h.rgx 0, [if code.toNat ≤ 7 then codeG b else codeF b], [codeF a],
        withFlags (r.setF a (BitVec.ofNat 32 v.1)) v.2⟩
  | .fldi sb a n => some ⟨sb, 2 + n.hi.length, [], [codeF a], r.setF a (BitVec.ofInt 32 (immVal n))⟩
  | _ => none
where
  two (h : Hdr) (a b c : Reg) (v : Single × Fl) : Option FloatResult :=
    some ⟨h.s, lenP h.rgx 0, [codeF b, codeF c], [codeF a], withFlags (s.me.arch.setF a v.1) v.2⟩

/-- The value of a finite bit pattern of precision p (R193), as an exact rational. -/
def valueOf (p x : Nat) : Option ℚ :=
  match fDecode p x with
  | .fin neg m e => some ((if neg then -1 else 1) * (m : ℚ) * (2 : ℚ) ^ e)
  | _ => none

/-- R104: a value on its way to a register: one entry with the register's code and the value; no register but g0, whose
writes are discarded, awaits anything where the destination is g0. -/
def OnItsWay (code : Nat) (new : List Ret) (p : Ret → Prop) : Prop :=
  (code = 0 ∧ ∀ r ∈ new, r.reg = 0) ∨ (code ≠ 0 ∧ ∃ r, new = [r] ∧ r.reg.toNat = code ∧ r.flags = 0 ∧ p r)

/-- Memory after a write of the n low bytes of a value at a key: those bytes, and every other as before. -/
def WritesOnly (s t : State) (key n v : Nat) : Prop :=
  ∀ x, t.byte x = if key ≤ x ∧ x < key + n then BitVec.ofNat 8 (v / 256 ^ (x - key)) else s.byte x

/-- The slot's registers after an instruction of n words that returns a value to g[a], and that value. -/
def Answers (s t : State) (i : Instr) (n : Nat) (a : Reg) (v : Word) : Prop :=
  ∃ new, exec i s = .next t ∧ Effect s t (atPc s.me.arch (npc s n)) new ∧ OnItsWay (codeG a) new (fun r => r.value = some v)

/-- The same of an instruction that may squash the open chunks of other slots (R168, R178). -/
def AnswersHere (s t : State) (i : Instr) (n : Nat) (a : Reg) (v : Word) : Prop :=
  ∃ new, exec i s = .next t ∧ (t.slot s.cur).arch = atPc s.me.arch (npc s n) ∧
    (t.slot s.cur).returns = s.me.returns ++ new ∧ OnItsWay (codeG a) new (fun r => r.value = some v) ∧
    ∀ k, t.byte k = s.byte k

/-- The SFU operation of R290 and its operands: header, destination, source registers, operation number, rounding. -/
def sfuForm (i : Instr) : Option (Hdr × Reg × Reg × Option Reg × Nat × BitVec 2) :=
  match i with
  | .fdiv h a b c rm => some (h, a, b, some c, 0, rm)
  | .fsqrt h a b rm => some (h, a, b, none, 1, rm)
  | .frcp h a b rm => some (h, a, b, none, 2, rm)
  | .frsq h a b rm => some (h, a, b, none, 3, rm)
  | .fexp2 h a b rm => some (h, a, b, none, 4, rm)
  | .flog2 h a b rm => some (h, a, b, none, 5, rm)
  | .ftanh h a b rm => some (h, a, b, none, 6, rm)
  | _ => none

-- memory instructions

/-- A load as R268, R270 and R289 give it: S bit, length, base, displacement, bytes, zero extension, destination code,
relative addressing, and the two qualifiers. -/
structure LoadShape where
  s : Bool
  len : Nat
  base : Reg
  imm : Int
  bytes : Nat
  zext : Bool
  dest : Nat
  rc : Bool
  wait : Bool
  clr : Bool
def loadShape (i : Instr) : Option LoadShape :=
  match i with
  | .ld h a b wait clr sz z rc ws => some ⟨h.s, len0 h ws.length, b, imxVal ws, Machine.sizeOf sz, z, codeG a, rc, wait, clr⟩
  | .fld h a b wait clr bf rc ws => some ⟨h.s, lenP h.rgx ws.length, b, imxVal ws, if bf then 2 else 4, true, codeF a, rc, wait, clr⟩
  | _ => none

/-- A store as R268, R271 and R289 give it; `src` is the code of the data register and `data` its value. -/
structure StoreShape where
  s : Bool
  len : Nat
  base : Reg
  imm : Int
  bytes : Nat
  src : Nat
  data : Nat
  rc : Bool
  wait : Bool
  full : Bool
def storeShape (st : State) (i : Instr) : Option StoreShape :=
  match i with
  | .st h a b wait full sz rc ws =>
    some ⟨h.s, len0 h ws.length, b, imxVal ws, Machine.sizeOf sz, codeG a, (st.g a).toNat, rc, wait, full⟩
  | .fst h a b wait full bf rc ws =>
    some ⟨h.s, lenP h.rgx ws.length, b, imxVal ws, if bf then 2 else 4, codeF a, (st.f a).toNat, rc, wait, full⟩
  | _ => none

-- tasks

/-- R91: the core that a task's next child goes to: at level 0 the least loaded enabled core of the issuer's level-1 instance,
else the one that the hash of the child's path names. -/
def forkCore (s : State) (k : Task) (l : Launch) : Option Nat :=
  let path := childPath k.ref.path s.me.children.length
  let cores := s.levelOne k.ref.ctx s.ownCore l
  if l.level = 0 then s.leastLoaded k.ref.ctx (cores.filterMap (s.ctx k.ref.ctx).phys)
  else (cores[forkHash (rootOf path) (pathIdx path) % max cores.length 1]?).bind (s.ctx k.ref.ctx).phys

/-- R371: the status word of the next FORK: STATUS, CHILD and CORE. -/
def forkWord (s : State) : Word :=
  match s.me.task with
  | none => 3
  | some k => match s.launch k.ref.ctx k.ref.lslot with
    | none => 3
    | some l =>
      if k.sup then 3
      else if k.maxfork < depthOf k.ref.path + 1 then 1
      else if 16 ≤ s.me.children.length then 2
      else match forkCore s k l with
        | none => 3
        | some core => w64 (2 ^ 8 * s.me.children.length + 2 ^ 32 * ((s.ctx k.ref.ctx).logical core).getD core)

/-- R147: the enabled cores without a seal, on the instance of the core where a task was killed, that it may start again on. -/
def restartCores (s : State) (l : Launch) (core : Nat) : List Nat :=
  ((s.levelOne s.myCtx (((s.ctx s.myCtx).logical core).getD core) l).filterMap (s.ctx s.myCtx).phys).filter
    (fun p => (s.sealOf p s.myCtx).isNone)

/-- R387: the status of a TCTL for a path of a launch. -/
def tctlStatus (s : State) (path : Word) (lslot : Nat) : Nat :=
  match s.launch s.myCtx lslot with
  | none => 4
  | some l => match l.killOf path with
    | none => 1
    | some k =>
      if !l.restart then 2 else if (restartCores s l k.2.1).isEmpty then 3 else 0

/-- The arbiter queues of a core for a context: those in its saved state where the context is swapped out (R156). -/
def queuesFor (s : State) (core ctx : Nat) : List ArbQueue :=
  if s.away core ctx then (tget (s.core core).saved Saved.empty ctx).waiting else (s.core core).queues

/-- R94: a job of a launch waits at a core. -/
def WaitsThere (t : State) (core ctx lslot : Nat) (j : Job) : Prop :=
  ∃ q ∈ queuesFor t core ctx, q.ctx = ctx ∧ q.lslot = lslot ∧ j ∈ q.jobs

-- special registers

/-- R108, R169, R311, R315: each register's index with the value that it reads as. VBUSY and MSTAT are the words of R311 and
R315; NETCAP is the constant of R169. -/
def sysValues (s : State) : List (Int × Word) :=
  let m := s.me
  let r := m.arch
  let c := s.myCore
  [(0x000, r.xcause), (0x001, r.xval), (0x002, r.xpc), (0x003, m.xstat), (0x004, r.xvec), (0x005, r.xscratch),
    (0x010, r.fstat), (0x011, r.waitlim), (0x012, r.chunkmax), (0x013, m.squashes), (0x014, c.vbusy),
    (0x015, s.mstat s.cur), (0x016, r.cktol), (0x017, r.bereaved), (0x018, m.detlvl.setWidth 64), (0x019, 0x1008401010),
    (0x01A, c.tenant.setWidth 64), (0x01B, c.preemptdl), (0x01C, c.recastwait), (0x020, c.finj), (0x030, c.cyc),
    (0x031, c.ncyc), (0x032, (s.die (s.cur.core / 1024)).refc)]

/-- R108, R109, R140: what an SWR in a mode makes of the slot's registers; indexes 0 to 3 are read-only in user mode, and a
read-only register stays as it is. -/
def swrArch (r : Arch) (idx : Int) (v : Word) : Arch :=
  if idx = 0x000 then (if r.sup then { r with xcause := w64 (v.toNat % 256) } else r)
  else if idx = 0x001 then (if r.sup then { r with xval := v } else r)
  else if idx = 0x002 then (if r.sup then { r with xpc := v } else r)
  else if idx = 0x003 then (if r.sup then { r with ap := v.getLsbD 0 } else r)
  else if idx = 0x004 then { r with xvec := v }
  else if idx = 0x005 then { r with xscratch := v }
  else if idx = 0x010 then { r with fstat := w64 (v.toNat % 64) }
  else if idx = 0x011 then { r with waitlim := v }
  else if idx = 0x012 then { r with chunkmax := w64 (min (max v.toNat 16) 1024) }
  else if idx = 0x016 then { r with cktol := v }
  else if idx = 0x017 then { r with bereaved := v &&& 0x3FFFF0F07 }
  else r

/-- R108, R315: an SWR of MSTAT writes its five flags. -/
def swrMstat (m : Word) (idx : Int) (v : Word) : Word :=
  if idx = 0x015 then w64 (m.toNat / 32 * 32 + v.toNat % 32) else m

/-- R108, R222: an SWR of a core's register: PREEMPTDL, RECASTWAIT (read-only in user mode) and FINJ; a write of FINJ arms it
anew. -/
def swrCore (s : State) (idx : Int) (v : Word) : State :=
  if s.me.arch.sup = false then s
  else if idx = 0x01B then s.modCore s.cur.core (fun c => { c with preemptdl := v })
  else if idx = 0x01C then s.modCore s.cur.core (fun c => { c with recastwait := v })
  else if idx = 0x020 then s.modCore s.cur.core (fun c => { c with finj := w64 (v.toNat % 2 ^ 22), finjSeen := false })
  else s

/-- R264, R270: k bytes as a register value. -/
def extended (k : Nat) (z : Bool) (v : Nat) : Word := if z then w64 (v % 2 ^ (8 * k)) else i64 (sext (8 * k) v)

end Sys2Proof.Claims

open Sys2Proof Sys2Proof.Machine Sys2Proof.Claims

/-- R262, R264 to R267: MOV, ADD, SUB, MUL, MULH, AND, OR, XOR, SHL, SHR, SET, MINMAX, BFX, CNT and LDI complete with
their result, and change nothing else but what every instruction changes. A write of g0 is discarded (R3). -/
def Obligations.IntegerResultsWritten : Prop :=
  ∀ (s : State) (i : Instr) (r : IntResult), intResult s i = some r → MayIssue s r.reads [codeG r.dest] →
    ∃ t, exec i s = .next t ∧ Completed s t r.s (atPc (s.me.arch.setG r.dest r.value) (npc s r.len)) []

/-- R263, R202: DIV and REM complete with the quotient and the remainder on their way, due 34 core cycles after issue, or
18 under W32; nothing is on its way to g0. -/
def Obligations.DivisionReturns : Prop :=
  ∀ (s : State) (h : Hdr) (a b : Reg) (y : Src) (u w32 : Bool), MayIssue s (codeG b :: Src.codes y) [codeG a] →
    (∃ t new, exec (.div h a b y u w32) s = .next t ∧
      Completed s t h.s (atPc s.me.arch (npc s (len0 h (Src.n y)))) new ∧
      OnItsWay (codeG a) new (fun r => r.value = some (res w32 (quo u w32 (s.g b) (Src.val y s)))
        ∧ r.due = some (s.myCore.cyc.toNat + if w32 then 18 else 34))) ∧
    (∃ t new, exec (.rem h a b y u w32) s = .next t ∧
      Completed s t h.s (atPc s.me.arch (npc s (len0 h (Src.n y)))) new ∧
      OnItsWay (codeG a) new (fun r => r.value = some (res w32 (rem u w32 (s.g b) (Src.val y s)))
        ∧ r.due = some (s.myCore.cyc.toNat + if w32 then 18 else 34)))

/-- R273: BR, BZ, JAL, JR and LOOP (with A other than 0) complete with the next PC of the table; JAL and JR write NPC, LOOP
the decremented counter. JR reads its target before it writes. -/
def Obligations.BranchesGoWhereR273Says : Prop :=
  ∀ (s : State) (sb : Bool) (h : Hdr) (a b : Reg) (cond : BitVec 2) (i : ImmB),
    let n := 1 + i.hi.length
    let r := s.me.arch
    (MayIssue s [] [] → ∃ t, exec (.br sb i) s = .next t ∧ Completed s t sb (atPc r (branchTo s i)) []) ∧
    (MayIssue s [codeG a] [] → ∃ t, exec (.bz h a cond i) s = .next t ∧
      (taken cond (s.g a) → Completed s t h.s (atPc r (branchTo s i)) []) ∧
      (¬ taken cond (s.g a) → Completed s t h.s (atPc r (npc s (len0 h i.hi.length))) [])) ∧
    (MayIssue s [] [codeG a] → ∃ t, exec (.jal sb a i) s = .next t ∧
      Completed s t sb (atPc (r.setG a (npc s n)) (branchTo s i)) []) ∧
    (MayIssue s [codeG b] [codeG a] → ∃ t, exec (.jr sb a b) s = .next t ∧
      Completed s t sb (atPc (r.setG a (npc s 1)) (s.g b)) []) ∧
    (a ≠ 0 → MayIssue s [codeG a] [codeG a] → ∃ t, exec (.loop sb a i) s = .next t ∧
      Completed s t sb (atPc (r.setG a (s.g a - 1)) (if s.g a - 1 = 0 then npc s n else branchTo s i)) [])

/-- R281 to R288: FMOV, FADD, FSUB, FMUL, FMA, FMIN, FMAX, FCMP, FCVT, FCLASS, FSGN and FLDI complete with their result
and OR their flags into FSTAT (R201). The arithmetic of the results is the model's, of exact values (R193 to R200). -/
def Obligations.FloatResultsWritten : Prop :=
  ∀ (s : State) (i : Instr) (r : FloatResult), floatResult s i = some r → MayIssue s r.reads r.writes →
    ∃ t, exec i s = .next t ∧ Completed s t r.s (atPc r.after (npc s r.len)) []

/-- R195, R282: under RNE a finite FADD, FSUB or FMUL of FP32 operands is a nearest FP32 number to the exact result. -/
def Obligations.RoundToNearestIsNearest : Prop :=
  ∀ (x y z : Nat) (u v w : ℚ), x < 2 ^ 32 → y < 2 ^ 32 → z < 2 ^ 32 →
    valueOf 24 x = some u → valueOf 24 y = some v → valueOf 24 z = some w →
    (∀ q, valueOf 24 (fAdd 24 0 x y).1 = some q → |q - (u + v)| ≤ |w - (u + v)|) ∧
    (∀ q, valueOf 24 (fSub 24 0 x y).1 = some q → |q - (u - v)| ≤ |w - (u - v)|) ∧
    (∀ q, valueOf 24 (fMul 24 0 x y).1 = some q → |q - u * v| ≤ |w - u * v|)

/-- R119, R290: FDIV, FSQRT, FRCP, FRSQ, FEXP2, FLOG2 and FTANH complete with their request at the tail of the SFU queue
and their destination pending, when the queue holds fewer than 16; with a full queue the slot parks at the instruction. -/
def Obligations.SfuRequestsQueued : Prop :=
  ∀ (s : State) (i : Instr) (h : Hdr) (a b : Reg) (c : Option Reg) (op : Nat) (rm : BitVec 2),
    sfuForm i = some (h, a, b, c, op, rm) → MayIssue s (codeF b :: (c.map codeF).toList) [codeF a] →
    (s.myCore.sfuQ.length < 16 → ∃ t r, exec i s = .next t ∧
      (t.core s.cur.core).sfuQ = s.myCore.sfuQ ++ [r] ∧ r.slot = s.cur.slot ∧ r.op = op ∧ r.dest = a ∧ r.x = s.f b ∧
      (∀ c', c = some c' → r.y = s.f c') ∧ r.rm = rm ∧ r.dropped = false ∧
      codeF a ∈ (t.slot s.cur).pendingCodes ∧ (t.slot s.cur).arch = atPc s.me.arch (npc s (lenP h.rgx 0)) ∧
      (∀ j, j ≠ s.cur → t.slot j = s.slot j) ∧ ∀ k, t.byte k = s.byte k) ∧
    (16 ≤ s.myCore.sfuQ.length → ∃ t w, exec i s = .next t ∧ t = s.setMe t.me ∧ t.me.arch = s.me.arch ∧
      t.me.status = .parked ∧ t.me.wait = some w ∧ w.sfuFull = true)

/-- R270, R289: a plain LD or FLD completes with its value on its way when the checks of R269 lead to a byte of the package
or of a CF page: the slot's own uncommitted stores show in the value (R174), the line enters the read signature (R177), what
was released before the writes it reads is noted for an acquire (R185, R191; the model's note, notes/assumptions/46.md), and a
load of the core's own LM is due 10 cycles on. Where a check fails, its trap is taken. -/
def Obligations.PlainLoadsReturn : Prop :=
  ∀ (s : State) (i : Instr) (f : LoadShape), loadShape i = some f → f.wait = false → f.clr = false →
    MayIssue s [codeG f.base] [f.dest] →
    let ea := s.scalarEa (s.g f.base) f.imm f.bytes f.rc false false
    (∀ k ga, ea = .ok (.here k, ga) → ∃ t new, exec i s = .next t ∧
      Completed (s.observe s.cur (unitOf k)) t f.s (atPc s.me.arch (npc s f.len)) new ∧
      OnItsWay f.dest new (fun r => r.value = some (extended f.bytes f.zext (s.loadNum k f.bytes))
        ∧ (paSpace k = 1 → paCore k = s.cur.core → r.due = some (s.myCore.cyc.toNat + 10))) ∧
      ∃ c ∈ t.me.chunks, lineOf k ∈ c.reads) ∧
    (∀ d off ga, ea = .ok (.cf d off, ga) → ∃ t new, exec i s = .next t ∧
      Completed s t f.s (atPc s.me.arch (npc s f.len)) new ∧
      OnItsWay f.dest new (fun r => r.value
        = some (extended f.bytes f.zext (fromBytes ((upFrom off f.bytes).map (s.cfByte s.myCtx d)))))) ∧
    (∀ c v, ea = .error (c, v) → exec i s = .next (s.takeTrap s.cur c v s.pc))

/-- R184, R38, R270: a plain load of another package completes as a GET on the UNO flow that holds a returning slot, its
destination pending, when the flow has not failed and has room, a returning slot is free, and no write of the slot's own to
its bytes is still on its way there (R174). -/
def Obligations.FarLoadsBecomeGets : Prop :=
  ∀ (s : State) (i : Instr) (f : LoadShape) (ga x : Nat), loadShape i = some f → f.wait = false → f.clr = false →
    MayIssue s [codeG f.base] [f.dest] →
    s.scalarEa (s.g f.base) f.imm f.bytes f.rc false false = .ok (.far ga, x) → s.ownWriteTo (gaPkg ga) ga f.bytes = false →
    (s.ctx s.myCtx).flooded = false → s.flowFailed (gaPkg ga) clUNO = false → s.flowOpen (gaPkg ga) clUNO = true →
    (s.takeReturning (gaPkg ga)).isSome →
    ∃ t r n, exec i s = .next t ∧ (t.slot s.cur).returns = s.me.returns ++ [r] ∧ r.reg.toNat = f.dest ∧ r.value = none ∧
      r.remote = some (gaPkg ga, n) ∧ n ∈ tget t.retSlots [] (gaPkg ga) ∧
      (∃ h ∈ (t.flowOut (gaPkg ga % 256) clUNO).held,
        h.p.typ = 0x03 ∧ h.p.addr = w64 ga ∧ h.p.aux.toNat = f.bytes ∧ h.p.cslot.toNat = n) ∧
      (t.slot s.cur).arch = atPc s.me.arch (npc s f.len) ∧ (∀ j, j ≠ s.cur → t.slot j = s.slot j) ∧
      ∀ k, t.byte k = s.byte k

/-- R271, R175, R176, R289: a plain ST or FST completes with its bytes in the open chunk's writes, at the address that R269
forms; memory is as before until the chunk commits. A store to another package is kept under the global address. Where a
check fails, its trap is taken. A store that the buffer of 64 entries has no room for ends the chunk before itself. -/
def Obligations.PlainStoresEnterTheChunk : Prop :=
  ∀ (s : State) (i : Instr) (f : StoreShape), storeShape s i = some f → f.wait = false → f.full = false →
    MayIssue s [codeG f.base, f.src] [] →
    let ea := s.scalarEa (s.g f.base) f.imm f.bytes f.rc true false
    let room := s.hasRoom (s.storeUnits (s.g f.base) f.imm f.bytes f.rc) 0
    (room = false → exec i s = .next (s.modMe (fun m => m.closeChunk.parkAt s.pc Wait.poll))) ∧
    (∀ k ga, room = true → ea = .ok (.here k, ga) → ∃ t, exec i s = .next t ∧
      Completed s t f.s (atPc s.me.arch (npc s f.len)) [] ∧
      ∃ c ∈ t.me.chunks, ∀ n, n < f.bytes → tfind c.writes (k + n) = some (BitVec.ofNat 8 (f.data / 256 ^ n))) ∧
    (∀ ga x, room = true → ea = .ok (.far ga, x) → s.flowFailed (gaPkg ga) clORD = false → ∃ t, exec i s = .next t ∧
      Completed s t f.s (atPc s.me.arch (npc s f.len)) [] ∧
      ∃ c ∈ t.me.chunks, ∀ n, n < f.bytes → tfind c.writes (paFar ga + n) = some (BitVec.ofNat 8 (f.data / 256 ^ n))) ∧
    (∀ c v, room = true → ea = .error (c, v) → exec i s = .next (s.takeTrap s.cur c v s.pc))

/-- R114, R270, R271: a qualified access of the core's own LM that finds no other access waiting is served at once when
its granule's bit allows it. A load returns the bytes as memory holds them and sets the granule empty under `.c`; a store
writes exactly its bytes and sets the granule full under `.f`. -/
def Obligations.QualifiedAccessesServedAtHome : Prop :=
  ∀ (s : State) (i : Instr) (k ga : Nat), paCore k = s.cur.core → s.myCore.sealed = none → s.myCore.granQ = [] →
    s.me.resume = none →
    (∀ f : LoadShape, loadShape i = some f → (f.wait = true ∨ f.clr = true) → MayIssueAlone s [codeG f.base] [f.dest] →
      s.scalarEa (s.g f.base) f.imm f.bytes f.rc false true = .ok (.here k, ga) →
      (f.wait = true → s.isFull (unitOf k) = true) →
      ∃ t new, exec i s = .next t ∧ (t.slot s.cur).arch = atPc s.me.arch (npc s f.len) ∧
        (t.slot s.cur).returns = s.me.returns ++ new ∧
        OnItsWay f.dest new (fun r => r.value = some (extended f.bytes f.zext (s.num k f.bytes))) ∧
        (f.clr = true → t.isFull (unitOf k) = false) ∧ (f.clr = false → t.full = s.full) ∧
        (∀ g, g ≠ unitOf k → t.isFull g = s.isFull g) ∧ (∀ j, j ≠ s.cur → t.slot j = s.slot j) ∧
        ∀ a, t.byte a = s.byte a) ∧
    (∀ f : StoreShape, storeShape s i = some f → (f.wait = true ∨ f.full = true) →
      MayIssueAlone s [codeG f.base, f.src] [] → memWf s.mem = true →
      s.scalarEa (s.g f.base) f.imm f.bytes f.rc true true = .ok (.here k, ga) →
      (f.wait = true → s.isFull (unitOf k) = false) →
      ∃ t, exec i s = .next t ∧ (t.slot s.cur).arch = atPc s.me.arch (npc s f.len) ∧
        (f.full = true → t.isFull (unitOf k) = true) ∧ (f.full = false → t.full = s.full) ∧
        (∀ g, g ≠ unitOf k → t.isFull g = s.isFull g) ∧
        WritesOnly s t k f.bytes f.data)

/-- R272: ADDR completes with the address that R269 forms, made absolute under RC, and raises XLATE where the offset
leaves its field and COORD where a coordinate does. -/
def Obligations.AddrFormsTheAddress : Prop :=
  ∀ (s : State) (h : Hdr) (a b : Reg) (rc : Bool) (ws : Imx), MayIssue s [codeG b] [codeG a] →
    let off : Int := ((s.g b).toNat % 2 ^ 41 : Nat) + imxVal ws
    let ea : Nat := (s.g b).toNat / 2 ^ 41 * 2 ^ 41 + (off % 2 ^ 41).toNat
    (∀ ga, (if rc then s.absolute ea else some ea) = some ga → 0 ≤ off → off < 2 ^ 41 →
      ∃ t, exec (.addr h a b rc ws) s = .next t ∧
        Completed s t h.s (atPc (s.me.arch.setG a (w64 ga)) (npc s (len0 h ws.length))) []) ∧
    ((if rc then s.absolute ea else some ea) = none →
      exec (.addr h a b rc ws) s = .next (s.takeTrap s.cur .coord (w64 ea) s.pc)) ∧
    (∀ ga, (if rc then s.absolute ea else some ea) = some ga → off < 0 ∨ 2 ^ 41 ≤ off →
      exec (.addr h a b rc ws) s = .next (s.takeTrap s.cur .xlate (w64 ga) s.pc))

/-- R108, R109, R274: SRD of an index of R108's table completes with that register's value (`sysValues`). SWR completes with
the write that R108 allows, register by register (`swrArch`, `swrMstat`, `swrCore`): XVEC takes g[a], FSTAT its six mask bits,
CHUNKMAX g[a] held between 16 and 1024, and in user mode XCAUSE, XVAL, XPC, XSTAT and RECASTWAIT stay as they are; nothing else
of the machine changes. A register that is written whole reads back as written. Outside the table both raise ILLEGAL, and in
user mode PRIV for PREEMPTDL and FINJ. IDR (R375) completes with the identity register B, and is ILLEGAL above 20. -/
def Obligations.SystemRegisterAccess : Prop :=
  ∀ (s : State) (sb : Bool) (a b : Reg) (i : ImmB),
    let idx := immVal i
    let sup := s.me.arch.sup
    let n := 1 + i.hi.length
    (∀ p ∈ sysValues s, p.1 = idx → (idx = 0x1B ∨ idx = 0x20 → sup = true) →
      (MayIssue s [] [codeG a] → ∃ t, exec (.srd sb a i) s = .next t ∧
        Completed s t sb (atPc (s.me.arch.setG a p.2) (npc s n)) []) ∧
      (MayIssue s [codeG a] [] →
        (idx ∈ [0x14, 0x15, 0x19, 0x1A, 0x1B, 0x1C, 0x20, 0x30, 0x31, 0x32] → s.me.chunks = []) →
        ∃ t, exec (.swr sb a i) s = .next t ∧ t = (swrCore s idx (s.g a)).setMe t.me ∧
          SlotFrame { s.me with mstat := swrMstat s.me.mstat idx (s.g a) } t.me ∧
          t.me.arch = atPc (swrArch s.me.arch idx (s.g a)) (npc s n) ∧ t.me.returns = s.me.returns ∧
          (∀ k, t.byte k = s.byte k) ∧
          (idx ∈ [0x04, 0x05, 0x11, 0x16] ∨ sup = true ∧ idx ∈ [0x01, 0x02, 0x1B, 0x1C] →
            (idx, s.g a) ∈ sysValues t))) ∧
    ((∀ p ∈ sysValues s, p.1 ≠ idx) → exec (.srd sb a i) s = .next (s.takeTrap s.cur .illegal (i64 idx) s.pc) ∧
      exec (.swr sb a i) s = .next (s.takeTrap s.cur .illegal (i64 idx) s.pc)) ∧
    (sup = false → idx = 0x1B ∨ idx = 0x20 → exec (.srd sb a i) s = .next (s.takeTrap s.cur .priv (i64 idx) s.pc) ∧
      exec (.swr sb a i) s = .next (s.takeTrap s.cur .priv (i64 idx) s.pc)) ∧
    (b.toNat ≤ 20 → MayIssue s [] [codeG a] → ∃ t, exec (.idr sb a b) s = .next t ∧
      Completed s t sb (atPc (s.me.arch.setG a ((s.me.ids[b.toNat]?).getD 0)) (npc s 2)) []) ∧
    (20 < b.toNat → exec (.idr sb a b) s = .next (s.takeTrap s.cur .illegal (w64 b.toNat) s.pc))


/-- R331, R332: QBIND of an unbound register completes with the binding that its word gives: a channel endpoint of an existing
peer, or an engine endpoint of a kind the slot does not have. A SEND's allowance is the sum of the grants of its flow that
waited at the core's NI, which wait there no more; a RECV begins with none. R333, R334,
R231: QUNB of a register whose engine holds no operand word that it has not taken (R115) completes with the register unbound, its unused allowance or a revoke on its way to the peer; QGRANT with MIN(y,
16 − entries − allowance) added to the allowance, on its way to the sender, and in g[a]. A bound register at QBIND, an
unbound one at QUNB, or one that is no RECV at QGRANT, is ILLEGAL, and so is a second SEND to one endpoint. -/
def Obligations.QueueRegistersBindAndUnbind : Prop :=
  (∀ (s : State) (sb : Bool) (q : BitVec 4) (b : Reg),
     let w := s.g b
     let x := bindingOf w
     (MayIssueAlone s [codeG b] [codeQ q] → (s.me.qreg q.toNat).kind = 0 → bindingOk w = true →
       (x.kind = 1 → ∀ peer i, (s.ctx s.myCtx).phys x.peer.toNat = some peer → i ∈ s.allSlots →
         s.sendsTo i ⟨peer, x.pslot.toNat, x.pq.toNat⟩ ≠ [] →
         exec (.qbind sb q b) s = .next (s.takeTrap s.cur .illegal (w64 q.toNat) s.pc)) ∧
       (x.kind.toNat ≤ 2 → ∀ peer, (s.ctx s.myCtx).phys x.peer.toNat = some peer →
         (x.kind = 1 → ∀ i ∈ s.allSlots, s.sendsTo i ⟨peer, x.pslot.toNat, x.pq.toNat⟩ = []) →
         ∃ t, exec (.qbind sb q b) s = .next t ∧ Effect s t (atPc s.me.arch (npc s 2)) [] ∧
           ((t.slot s.cur).qreg q.toNat).kind = x.kind ∧ ((t.slot s.cur).qreg q.toNat).peer = x.peer ∧
           ((t.slot s.cur).qreg q.toNat).pslot = x.pslot ∧ ((t.slot s.cur).qreg q.toNat).pq = x.pq ∧
           ((t.slot s.cur).qreg q.toNat).entries = [] ∧
           ((t.slot s.cur).qreg q.toNat).dead = (s.core peer).sealed.isSome ∧
           (let waits (g : EndId × SlotId × Nat × Nat) : Bool :=
              x.kind == 1 && g.1 == ⟨peer, x.pslot.toNat, x.pq.toNat⟩ && g.2.1 == s.cur
            ((t.slot s.cur).qreg q.toNat).allow
              = ((s.myCore.early.filter waits).map (fun g => g.2.2.1)).sum ∧
            (t.core s.cur.core).early = s.myCore.early.filter (fun g => !waits g)) ∧
           ∀ n, n ≠ q.toNat → (t.slot s.cur).qreg n = s.me.qreg n) ∧
       (3 ≤ x.kind.toNat → (∀ n, n < 16 → (s.me.qreg n).kind ≠ x.kind) →
         ∃ t, exec (.qbind sb q b) s = .next t ∧ Effect s t (atPc s.me.arch (npc s 2)) [] ∧
           (t.slot s.cur).qreg q.toNat = x ∧ ∀ n, n ≠ q.toNat → (t.slot s.cur).qreg n = s.me.qreg n)) ∧
     ((∀ k, s.me.task = some k → k.trailing = false) → (s.me.qreg q.toNat).kind ≠ 0 → exec (.qbind sb q b) s = .next (s.takeTrap s.cur .illegal (w64 q.toNat) s.pc))) ∧
  (∀ (s : State) (sb : Bool) (h : Hdr) (a : Reg) (q : BitVec 4) (y : Src),
     let b := s.me.qreg q.toNat
     (MayIssueAlone s [] [codeQ q] → b.kind ≠ 0 → (3 ≤ b.kind.toNat → s.opsHeld s.cur b.kind.toNat = 0) →
       ∃ t, exec (.qunb sb q) s = .next t ∧ Effect s t (atPc s.me.arch (npc s 2)) [] ∧
         (t.slot s.cur).qreg q.toNat = Binding.unbound ∧
         (∀ n, n ≠ q.toNat → (t.slot s.cur).qreg n = s.me.qreg n) ∧
         (∀ peer, b.kind = 2 → (s.ctx s.myCtx).phys b.peer.toNat = some peer →
           t.inflight = s.inflight ++ [.revokeArrive ⟨⟨s.cur.core, s.cur.slot, q.toNat⟩, ⟨peer, b.pslot.toNat⟩⟩]) ∧
         (∀ peer, b.kind = 1 → b.allow ≠ 0 → (s.ctx s.myCtx).phys b.peer.toNat = some peer →
           t.inflight = s.inflight ++ [.allowanceReturn ⟨⟨peer, b.pslot.toNat, b.pq.toNat⟩, s.cur⟩ b.allow b.gen]) ∧
         (b.kind = 1 → b.allow = 0 → t.inflight = s.inflight)) ∧
     ((∀ k, s.me.task = some k → k.trailing = false) → b.kind = 0 → exec (.qunb sb q) s = .next (s.takeTrap s.cur .illegal (w64 q.toNat) s.pc)) ∧
     (MayIssueAlone s (codeQ q :: Src.codes y) [codeG a] → b.kind = 2 →
       let k := min (Src.val y s).toNat (16 - b.entries.length - b.allow)
       ∃ t, exec (.qgrant h a q y) s = .next t ∧
         Effect s t (atPc (s.me.arch.setG a (w64 k)) (npc s (lenP h.rgx (Src.n y)))) [] ∧
         (t.slot s.cur).qreg q.toNat = { b with allow := b.allow + k } ∧
         (∀ peer, k ≠ 0 → (s.ctx s.myCtx).phys b.peer.toNat = some peer →
           t.inflight = s.inflight ++ [.grantArrive ⟨⟨s.cur.core, s.cur.slot, q.toNat⟩, ⟨peer, b.pslot.toNat⟩⟩ k b.gen]) ∧
         (k = 0 → t.inflight = s.inflight)) ∧
     ((∀ k, s.me.task = some k → k.trailing = false) → b.kind ≠ 2 → exec (.qgrant h a q y) s = .next (s.takeTrap s.cur .illegal (w64 q.toNat) s.pc)))

/-- R335, R232, R336, R344, R345, R101: QALT completes with the lowest-numbered ready register of its mask and is ILLEGAL
for an empty mask; QSTAT with the state word of R117; ROLE with ID.ROLE; RECAST with the target's answer once it is there,
and with 3 for a role outside 1 to 8. -/
def Obligations.ChannelStateReads : Prop :=
  ∀ (s : State) (sb : Bool) (a b c : Reg) (q : BitVec 4),
    (∀ n, MayIssueAlone s [codeG b] [codeG a] → n < 16 → (s.g b).getLsbD n = true → s.me.qReady n = true →
      (∀ m, m < n → (s.g b).getLsbD m = true → s.me.qReady m = false) →
      ∃ t new, exec (.qalt sb a b) s = .next t ∧ Effect s t (atPc s.me.arch (npc s 2)) new ∧
        OnItsWay (codeG a) new (fun r => r.value = some (w64 n))) ∧
    (MayIssueAlone s [codeG b] [codeG a] → (s.g b).toNat % 2 ^ 16 = 0 → ∃ w,
      exec (.qalt sb a b) s = .next (s.takeTrap s.cur .illegal w s.pc)) ∧
    (MayIssue s [codeQ q] [codeG a] → ∃ t, exec (.qstat sb a q) s = .next t ∧
      Completed s t sb (atPc (s.me.arch.setG a (s.qstat s.cur q.toNat)) (npc s 2)) []) ∧
    (MayIssue s [] [codeG a] → ∃ t, exec (.role sb a) s = .next t ∧
      Completed s t sb (atPc (s.me.arch.setG a ((s.me.ids[18]?).getD 0)) (npc s 2)) []) ∧
    (MayIssueAlone s [codeG b, codeG c] [codeG a] → ((s.ctx s.myCtx).phys ((s.g b).toNat % 2 ^ 12)).isSome →
      let role := (s.g c).toNat % 16
      (∀ r, s.me.resume = some r → 1 ≤ role → role ≤ 8 → ∃ t new, exec (.recast sb a b c) s = .next t ∧
        Effect s t (atPc s.me.arch (npc s 3)) new ∧ OnItsWay (codeG a) new (fun x => x.value = some r.value)) ∧
      (role = 0 ∨ 8 < role → ∃ t new, exec (.recast sb a b c) s = .next t ∧
        Effect s t (atPc s.me.arch (npc s 3)) new ∧ OnItsWay (codeG a) new (fun x => x.value = some 3)))

/-- R116, R275: a push to a live SEND with allowance completes with the word in the open chunk's pushes and one allowance
used (one that has waited for it, once the slot's chunks have committed); a push to a tensor or vector endpoint with fewer than 8 words held, with the word at the tail of its FIFO; a pop of a
RECV, or of an engine endpoint that has a result, with the head word on its way. An unbound register is ILLEGAL. -/
def Obligations.QueuePushAndPop : Prop :=
  ∀ (s : State) (h : Hdr) (a : Reg) (q : BitVec 4),
    let b := s.me.qreg q.toNat
    let n := npc s (len0 h 0)
    (MayIssue s [codeG a, codeQ q] [] → b.kind = 1 → b.dead = false → 0 < b.allow → s.hasRoom [] 1 = true →
      (∀ w, s.me.wait = some w → w.counted = true → s.me.chunks = []) → ∀ peer, (s.ctx s.myCtx).phys b.peer.toNat = some peer → ∃ t, exec (.qop h a q false) s = .next t ∧
        Effect s t (atPc s.me.arch n) [] ∧ (t.slot s.cur).qreg q.toNat = { b with allow := b.allow - 1, sent := b.sent + 1 } ∧
        ∃ c ∈ (t.slot s.cur).chunks, ⟨q.toNat, ⟨peer, b.pslot.toNat, b.pq.toNat⟩, s.g a, b.gen⟩ ∈ c.pushes) ∧
    (MayIssueAlone s [codeG a, codeQ q] [] → b.kind = 3 ∨ b.kind = 4 → (s.me.fifoOf b.kind.toNat).ops.length < 8 →
      ∃ t, exec (.qop h a q false) s = .next t ∧ Effect s t (atPc s.me.arch n) [] ∧
        ((t.slot s.cur).fifoOf b.kind.toNat).ops = (s.me.fifoOf b.kind.toNat).ops ++ [s.g a]) ∧
    (∀ w rest, MayIssueAlone s [codeQ q] [codeG a] → b.kind = 2 → b.entries = some w :: rest →
      ∃ t new, exec (.qop h a q true) s = .next t ∧ Effect s t (atPc s.me.arch n) new ∧
        OnItsWay (codeG a) new (fun r => r.value = some w) ∧ (t.slot s.cur).qreg q.toNat = { b with entries := rest }) ∧
    (∀ w rest, MayIssueAlone s [codeQ q] [codeG a] → 3 ≤ b.kind.toNat → b.kind.toNat ≤ 6 →
      (s.me.fifoOf b.kind.toNat).res = w :: rest →
      ∃ t new, exec (.qop h a q true) s = .next t ∧ Effect s t (atPc s.me.arch n) new ∧
        OnItsWay (codeG a) new (fun r => r.value = some w) ∧ ((t.slot s.cur).fifoOf b.kind.toNat).res = rest) ∧
    ((∀ k, s.me.task = some k → k.trailing = false) → b.kind = 0 → ∀ pop, exec (.qop h a q pop) s = .next (s.takeTrap s.cur .illegal (w64 q.toNat) s.pc)) ∧
    (∀ rest, MayIssueAlone s [codeQ q] [codeG a] → b.kind = 2 → b.entries = none :: rest →
      exec (.qop h a q true) s = .next (s.takeTrap s.cur .qdead (w64 q.toNat) s.pc))


/-- R378, R279, R143, R379, R141: TRAP takes BREAK with IMM's low half and its own length in XVAL; BRK takes BREAK with
XVAL 0, or halts the slot in debug at itself when debug halt is armed; XRET in a handler resumes at XPC with SUP as before
the trap, and outside a handler is ILLEGAL. -/
def Obligations.TrapBrkAndXret : Prop :=
  ∀ (s : State) (sb : Bool) (i : ImmB),
    let r := s.me.arch
    (MayIssue s [] [] → TrapsAtOnce s s.cur → r.xvec ≠ 0 → r.trapped = false → i.hi.length ≤ 3 →
      ∃ t v, exec (.trap sb i) s = .next t ∧ (t.slot s.cur).arch = trapArch r .brk v s.pc ∧
        (v.toNat : Int) = immVal i % 2 ^ 32 + 2 ^ 32 * (2 + i.hi.length)) ∧
    (MayIssueAlone s [] [] → TrapsAtOnce s s.cur → r.xvec ≠ 0 → r.trapped = false →
      (s.ctx s.myCtx).debugArm = false →
      ∃ t, exec (.brk sb) s = .next t ∧ (t.slot s.cur).arch = trapArch r .brk 0 s.pc) ∧
    (MayIssueAlone s [] [] → (s.ctx s.myCtx).debugArm = true →
      ∃ t, exec (.brk sb) s = .next t ∧ t = s.setMe t.me ∧ t.me.status = .halted ∧
        t.me.arch = { r with xpc := s.pc }) ∧
    (MayIssueAlone s [] [] → r.trapped = true → r.sup = true →
      ∃ t, exec (.xret sb) s = .next t ∧
        (t.slot s.cur).arch = { r with trapped := false, sup := s.me.supBefore, pc := r.xpc } ∧
        (∀ j, j ≠ s.cur → t.slot j = s.slot j) ∧ ∀ k, t.byte k = s.byte k) ∧
    (r.trapped = false → ∃ w, exec (.xret sb) s = .next (s.takeTrap s.cur .illegal w s.pc))

/-- R139, R141, R144, R106: taking a trap writes XCAUSE, XVAL, XPC and XSTAT and goes to XVEC in supervisor mode once
nothing is returning and no chunk is uncommitted; until then the slot waits with its trap noted. A trap with XVEC = 0 or
inside a handler seals the core with the new cause. No byte of memory changes. R105: an instruction of page 0 or page 1 that
reads or writes a pending register raises HAZARD with the register's code. -/
def Obligations.TrapEntrySavesAndRedirects : Prop :=
  (∀ (s : State) (i : SlotId) (c : Cause) (v pc : Word),
     let m := s.slot i
     (TrapsAtOnce s i → m.arch.xvec ≠ 0 → m.arch.trapped = false →
       ((s.takeTrap i c v pc).slot i).arch = trapArch m.arch c v pc ∧
       ((s.takeTrap i c v pc).slot i).status = .ready ∧ ((s.takeTrap i c v pc).slot i).supBefore = m.arch.sup ∧
       (∀ j, j ≠ i → (s.takeTrap i c v pc).slot j = s.slot j)) ∧
     (TrapsAtOnce s i → m.arch.xvec = 0 ∨ m.arch.trapped = true → (s.core i.core).sealed = none →
       ((s.takeTrap i c v pc).core i.core).sealed = some c.code) ∧
     (i.slot < 8 → s.partner i = none → (∃ r ∈ m.returns, r.sfu = false) ∨ (∃ k ∈ m.chunks, k.count ≠ 0) →
       ((s.takeTrap i c v pc).slot i).status = .trapping ∧ ((s.takeTrap i c v pc).slot i).trap = some (c, v, pc) ∧
       ((s.takeTrap i c v pc).slot i).arch = m.arch) ∧
     ∀ k, (s.takeTrap i c v pc).byte k = s.byte k) ∧
  (∀ (s : State) (i : Instr) (code : Nat),
     (∀ r, intResult s i = some r → (r.reads ++ [codeG r.dest]).find? (fun c => c != 0 && s.me.pendingCodes.contains c)
       = some code → exec i s = .next (s.takeTrap s.cur .hazard (w64 code) s.pc)) ∧
     (∀ r, floatResult s i = some r → (r.reads ++ r.writes).find? (fun c => c != 0 && s.me.pendingCodes.contains c)
       = some code → exec i s = .next (s.takeTrap s.cur .hazard (w64 code) s.pc)))

/-- R277, R276, R377: NOP changes nothing but what every instruction does; CHUNK closes the chunk after itself; PLIVE
without a pending pre-emption has no other effect, and with one stops the slot past itself; FENCE completes once what its
release covers is where its scope asks for it and, for an acquire at package scope or wider, nothing is returning; a release at
package scope or wider keeps what it covers for those who read what its slot writes afterwards, and an acquire covers what the
slot has so seen released (R185, R191; that reading is the model's, notes/assumptions/46.md). R174,
R175: an instruction that stays in a chunk opens one of at most CHUNKMAX instructions if none is open, with the registers as
they stood before it; it counts in the open chunk and closes it as the last that fits. -/
def Obligations.FencesAndChunkEnds : Prop :=
  (∀ (s : State) (sb : Bool) (h : Hdr) (i : ImmB) (scope : BitVec 3) (kind : BitVec 2),
     (MayIssue s [] [] → ∃ t, exec (.nop sb) s = .next t ∧ Completed s t sb (atPc s.me.arch (npc s 1)) []) ∧
     (MayIssue s [] [] → ∃ t, exec (.chunk sb) s = .next t ∧ Completed s t sb (atPc s.me.arch (npc s 1)) [] ∧
       ∀ c ∈ t.me.chunks, c.closed = true) ∧
     (MayIssue s [] [] → s.inSfu s.cur = false → ∃ t, exec (.plive sb i) s = .next t ∧
       t = s.setMe t.me ∧ t.me.arch = atPc s.me.arch (npc s (2 + i.hi.length)) ∧
       ((s.ctx s.myCtx).preempt = none → Completed s t sb t.me.arch []) ∧
       ((s.ctx s.myCtx).preempt ≠ none → t.me.status = .stopped ∧
         (0 ≤ immVal i → t.me.plive = some (immVal i).toNat))) ∧
     (MayIssueAlone s [] [] → (kind ≠ 2 → 5 ≤ scope.toNat → s.lostWrite s.me.cover = none) →
       (kind ≠ 2 → scope = 5 → s.coverHere = false ∧ s.coverFar = false) → (kind ≠ 2 → scope = 6 → s.coverFar = false) →
       (kind ≠ 1 → 5 ≤ scope.toNat → s.me.returns = []) → (s.ctx s.myCtx).releaseCheck = false →
       ∃ t, exec (.fence h scope kind) s = .next t ∧ Effect s t (atPc s.me.arch (npc s (len0 h 0))) [] ∧
         StatusAfter s.me (t.slot s.cur) h.s ∧
         (kind ≠ 2 → 5 ≤ scope.toNat → ∀ id ∈ s.me.cover, s.openWrite id = true → id ∈ (t.slot s.cur).released) ∧
         (kind ≠ 1 → 5 ≤ scope.toNat → ∀ id ∈ s.me.cover ++ s.me.seen, id ∈ (t.slot s.cur).cover) ∧
         (scope.toNat < 5 → (t.slot s.cur).released = s.me.released ∧ (t.slot s.cur).cover = s.me.cover))) ∧
  (∀ (s : State) (sb : Bool) (c₀ : Chunk), MayIssue s [] [] →
     (s.me.chunks = [c₀] → c₀.closed = false → ∃ t c, exec (.nop sb) s = .next t ∧ (t.slot s.cur).chunks = [c] ∧
       c.saved = c₀.saved ∧ c.count = c₀.count + 1 ∧ (c.closed = true ↔ c₀.limit ≤ c₀.count + 1)) ∧
     (s.me.chunks = [] → s.me.serial = 0 → (tget s.me.streaks (0, 0) s.me.chunkNo).1 < 4 → ∃ t c, exec (.nop sb) s = .next t ∧ (t.slot s.cur).chunks = [c] ∧
       c.saved = s.me.arch ∧ c.count = 1 ∧ c.limit = s.me.arch.chunkmax.toNat))

/-- R278, R333: TEND of a slot with nothing on its way and no operand word in an engine endpoint completes: the task ends,
its queue registers are unbound, and the arbiter is due. -/
def Obligations.TendEndsTheTask : Prop :=
  ∀ (s : State) (sb : Bool) (k : Task), MayIssueAlone s [] [] → s.me.task = some k → s.slotIdle s.cur = true →
    (∀ q, q < 16 → 3 ≤ (s.me.qreg q).kind.toNat → (s.me.fifoOf (s.me.qreg q).kind.toNat).ops = []) →
    ∃ t, exec (.tend sb) s = .next t ∧ (t.slot s.cur).status = .ending ∧
      (t.slot s.cur).arch = atPc s.me.arch (npc s 1) ∧ (∀ q, q < 16 → ((t.slot s.cur).qreg q).kind = 0) ∧
      s.cur.slot ∈ (t.core s.cur.core).ended ∧ (t.core s.cur.core).roundDue = true

/-- R371, R91, R86: FORK of an entry in BM of the own package completes, and its status word is on its way to g[a]: OK with
the child's index and its logical core, or DEPTH, COUNT or BADTASK. With another status than OK the task's table of children
and every arbiter queue stay as they are. With OK the task gets the child with the next index, and the child waits, with its
entry, argument and path, at the core that R91's dealing chooses (one that is not sealed for the context; at a sealed one it is
killed, R145). A misplaced entry traps: ALIGN, COORD or SPACE. -/
def Obligations.ForkAddsAChild : Prop :=
  (∀ (s : State) (h : Hdr) (a b c : Reg), MayIssueAlone s [codeG b, codeG c] [codeG a] →
    s.checkAt (s.g b) 2 [spBM] = none →
    ∃ t new, exec (.fork h a b c) s = .next t ∧ Effect s t (atPc s.me.arch (npc s (lenP h.rgx 0))) new ∧
      OnItsWay (codeG a) new (fun r => r.value = some (forkWord s)) ∧
      (wbits (forkWord s) 7 0 ≠ 0 → (t.slot s.cur).children = s.me.children ∧
        ∀ k, (t.core k).queues = (s.core k).queues ∧ (t.core k).saved = (s.core k).saved)) ∧
  (∀ (s : State) (h : Hdr) (a b c : Reg) (k : Task) (l : Launch) (core : Nat),
    MayIssueAlone s [codeG b, codeG c] [codeG a] → s.checkAt (s.g b) 2 [spBM] = none →
    s.me.task = some k → s.launch k.ref.ctx k.ref.lslot = some l → k.sup = false →
    depthOf k.ref.path + 1 ≤ k.maxfork → s.me.children.length < 16 → forkCore s k l = some core →
    s.sealOf core k.ref.ctx = none →
    let path := childPath k.ref.path s.me.children.length
    ∃ t ids, exec (.fork h a b c) s = .next t ∧
      (t.slot s.cur).children = s.me.children ++ [⟨path, false, false, 0, []⟩] ∧
      WaitsThere t core k.ref.ctx k.ref.lslot (.child path (s.g b) (s.g c) ids k.gen) ∧
      ∀ n, n ≠ core → (t.core n).queues = (s.core n).queues) ∧
  (∀ (s : State) (h : Hdr) (a b c : Reg) (cause : Cause) (v : Word),
    MayIssueAlone s [codeG b, codeG c] [codeG a] → s.checkAt (s.g b) 2 [spBM] = some (cause, v) →
    exec (.fork h a b c) s = .next (s.takeTrap s.cur cause v s.pc))

/-- R373, R131: JOIN of children that have all ended, with no descendant left and no exit of their root's groups unacknowledged,
completes with the masks of those that ended and of those that were killed; where c is not 0 it also writes their g[2] as
doublewords to the record that g[c] names, and nothing else in memory changes. An empty mask, one with a bit of 2^16 or more, and
one that names an index at or above the number of children are ILLEGAL. -/
def Obligations.JoinCollectsChildren : Prop :=
  ∀ (s : State) (h : Hdr) (a b c : Reg) (k : Task),
    let mask := (s.g b).toNat
    let named := (upFrom 0 16).filter (fun i => mask.testBit i)
    let kid (i : Nat) : Child := (s.me.children[i]?).getD ⟨0, false, false, 0, []⟩
    let bitsOf (p : Child → Bool) : Nat := ((named.filter (fun i => p (kid i))).map (2 ^ ·)).sum
    MayIssueAlone s [codeG b, codeG c] [codeG a] → s.me.task = some k →
    (mask = 0 ∨ 2 ^ 16 ≤ mask ∨ (∃ i ∈ named, s.me.children.length ≤ i) →
      exec (.join h a b c) s = .next (s.takeTrap s.cur .illegal (s.g b) s.pc)) ∧
    (mask ≠ 0 → mask < 2 ^ 16 → s.rootExiting k.ref = false → (∀ i ∈ named, i < s.me.children.length ∧ (kid i).done = true
        ∧ s.descendantLives k.ref.ctx k.ref.lslot (kid i).path = false) →
      (c = 0 → ∃ t new, exec (.join h a b c) s = .next t ∧ Effect s t (atPc s.me.arch (npc s (lenP h.rgx 0))) new ∧
        OnItsWay (codeG a) new (fun r => r.value = some (w64 (bitsOf (fun x => !x.killed) + 2 ^ 16 * bitsOf (·.killed))))) ∧
      (∀ off, c ≠ 0 → memWf s.mem = true → s.ownTarget (s.g c) 8 (8 * ((named.getLast?).getD 0 + 1)) = .ok off →
        ∃ t new, exec (.join h a b c) s = .next t ∧ (t.slot s.cur).arch = atPc s.me.arch (npc s (lenP h.rgx 0)) ∧
          (t.slot s.cur).returns = s.me.returns ++ new ∧
          OnItsWay (codeG a) new (fun r => r.value
            = some (w64 (bitsOf (fun x => !x.killed) + 2 ^ 16 * bitsOf (·.killed)))) ∧
          (∀ i ∈ named, t.num (s.ownKey spLM (off + 8 * i)) 8 = (kid i).g2.toNat) ∧
          ∀ x, (∀ i ∈ named, x < s.ownKey spLM (off + 8 * i) ∨ s.ownKey spLM (off + 8 * i) + 8 ≤ x) →
            t.byte x = s.byte x))

/-- R374, R82, R405: once nothing of its role table is still to be read in another package (R100, R163), LAUNCH completes with the
master WD's answer: 1 and the lowest failing offset for a record that fails
a test, 3 for a newer feature, 4 when 256 launches run; a record that passes gets 0 and the lowest free launch number,
which then names a launch with this record. -/
def Obligations.LaunchAnswers : Prop :=
  ∀ (s : State) (sb : Bool) (a b : Reg) (r : List Byte), MayIssueAlone s [codeG b] [codeG a] →
    s.checkAt (s.g b) 256 [spBM, spHW] = none → s.agentRead s.myCtx (s.g b).toNat 256 = .ok r →
    s.wdNext (.slot s.cur) s.myCtx (roleNeeds (s.wdSee (.slot s.cur) s.myCtx) r) = none →
    let k := s.checkRecord (.slot s.cur) s.myCtx r
    let ctx := s.ctx s.myCtx
    let answered (w : Nat) : Prop := ∃ t, exec (.launch sb a b) s = .next t ∧
      (t.slot s.cur).arch = atPc s.me.arch (npc s 2) ∧ ∃ new, (t.slot s.cur).returns = s.me.returns ++ new ∧
        OnItsWay (codeG a) new (fun x => x.value = some (w64 w))
    (∀ off, k.bad = some off → answered (1 + 2 ^ 16 * off)) ∧
    (k.bad = none → 4 < field k.kcb 8 4 → answered 3) ∧
    (k.bad = none → field k.kcb 8 4 ≤ 4 → 256 ≤ ctx.launches.length → answered 4) ∧
    (k.bad = none → field k.kcb 8 4 ≤ 4 → ctx.launches.length < 256 → field r 0x88 4 = 0 →
      s.dealCores s.myCtx ≠ [] → fitsIdle k.kcb = true →
      let n := firstGap ctx.launches 0
      ∃ t, exec (.launch sb a b) s = .next t ∧
        (∃ l, t.launch s.myCtx n = some l ∧ l.record = r ∧ l.kcb = k.kcb) ∧
        (t.slot s.cur).arch = atPc s.me.arch (npc s 2) ∧ ∃ new, (t.slot s.cur).returns = s.me.returns ++ new ∧
          OnItsWay (codeG a) new (fun x => x.value = some (w64 (2 ^ 8 * n))))

/-- R386, R387, R388, R139, R147: CNTR of a counter B up to 7 completes with the counter in g[a], and the counter is 0 after it
under CLR; counter 0 then counts the CNTR itself (the model's order, notes/assumptions/14.md).
TCTL in supervisor mode completes with R387's status on its way to g[a], for every launch number and path; with status 0 the
killed task is marked as started again and waits, under a new generation of its level-0 group (the model's name for R147's new
group, notes/assumptions/20.md), at the least loaded of the cores that R387 allows. FINJ in supervisor
mode completes with FINJ written, or with the parity of the named register inverted. A counter above 7, a nonzero g[c][63:8]
and a register that FINJ may not name are ILLEGAL, in either mode; otherwise TCTL and FINJ raise PRIV in user mode, for ILLEGAL
comes before PRIV (R139; that it does so where the fault lies in an operand's value is notes/assumptions/14.md). -/
def Obligations.CountersAndControl : Prop :=
  (∀ (s : State) (h : Hdr) (a b : Reg) (clr : Bool), MayIssue s [] [codeG a] → b.toNat ≤ 7 →
    ∃ t, exec (.cntr h a b clr) s = .next t ∧ t = s.setMe t.me ∧
      t.me.arch = atPc (s.me.arch.setG a ((s.me.counters[b.toNat]?).getD 0)) (npc s (lenP h.rgx 0)) ∧
      (clr = false → Completed s t h.s t.me.arch []) ∧
      (clr = true → t.me.counters[b.toNat]? = some (if b.toNat = 0 then 1 else 0))) ∧
  (∀ (s : State) (h : Hdr) (a b : Reg) (clr : Bool), 7 < b.toNat →
    exec (.cntr h a b clr) s = .next (s.takeTrap s.cur .illegal (w64 b.toNat) s.pc)) ∧
  (∀ (s : State) (h : Hdr) (a b c : Reg), s.me.arch.sup = true → MayIssueAlone s [codeG b, codeG c] [codeG a] →
    (s.g c).toNat < 256 →
    ∃ t new, exec (.tctl h a b c) s = .next t ∧ Effect s t (atPc s.me.arch (npc s (lenP h.rgx 0))) new ∧
      OnItsWay (codeG a) new (fun r => r.value = some (w64 (tctlStatus s (s.g b) (s.g c).toNat))) ∧
      ∀ l k core, s.launch s.myCtx (s.g c).toNat = some l → l.killOf (s.g b) = some k → l.restart = true →
        s.leastLoaded s.myCtx (restartCores s l k.2.1) = some core →
        WaitsThere t core s.myCtx (s.g c).toNat (k.2.2.2.anew (l.genOf (rootOf k.1) + 1)) ∧
        ∃ l', t.launch s.myCtx (s.g c).toNat = some l' ∧ (k.1, k.2.1, true, k.2.2.2) ∈ l'.killed ∧
          l'.genOf (rootOf k.1) = l.genOf (rootOf k.1) + 1) ∧
  (∀ (s : State) (h : Hdr) (a b c : Reg), s.me.readable c = true → 256 ≤ (s.g c).toNat →
    exec (.tctl h a b c) s = .next (s.takeTrap s.cur .illegal (s.g c) s.pc)) ∧
  (∀ (s : State) (h : Hdr) (a : Reg), s.me.arch.sup = true → MayIssueAlone s [codeG a] [] →
    ∃ t, exec (.finj h a false) s = .next t ∧ Effect s t (atPc s.me.arch (npc s (lenP h.rgx 0))) [] ∧
      (t.core s.cur.core).finj = s.g a &&& 0x3FFFFF) ∧
  (∀ (s : State) (h : Hdr) (a : Reg) (code slot : Nat), s.me.arch.sup = true → MayIssueAlone s [codeG a] [] →
    (s.g a).toNat = code + 2 ^ 7 * slot → slot < 8 → code ≠ 0 → (code < 64 ∨ 96 ≤ code ∧ code < 100) →
    ∃ t, exec (.finj h a true) s = .next t ∧ Effect s t (atPc s.me.arch (npc s (lenP h.rgx 0))) [] ∧
      (code ∈ (t.slot ⟨s.cur.core, slot⟩).parity ↔ code ∉ (s.slot ⟨s.cur.core, slot⟩).parity)) ∧
  (∀ (s : State) (h : Hdr) (a b c : Reg) (reg : Bool),
    let bad : Prop := (s.g a).toNat % 128 = 0 ∨ 64 ≤ (s.g a).toNat % 128 ∧ (s.g a).toNat % 128 < 96 ∨
      100 ≤ (s.g a).toNat % 128 ∨ 2 ^ 10 ≤ (s.g a).toNat
    (s.me.readable a = true → bad → exec (.finj h a true) s = .next (s.takeTrap s.cur .illegal (s.g a) s.pc)) ∧
    (s.me.arch.sup = false →
      (s.me.readable c = false ∨ (s.g c).toNat < 256 →
        ∃ w, exec (.tctl h a b c) s = .next (s.takeTrap s.cur .priv w s.pc)) ∧
      (reg = false ∨ s.me.readable a = false ∨ ¬bad →
        ∃ w, exec (.finj h a reg) s = .next (s.takeTrap s.cur .priv w s.pc))))

/-- R382 to R385, R381: ASEL completes with the advice of its slot, or the default without an image; ABR branches as BZ does
and records one execution and whether it was taken; AREC records one execution and the value; APF loads a doubleword and
marks its return for the slot. Without an image nothing is recorded. A slot that does not suit raises ILLEGAL with its index
in XVAL. That ASEL of a live image on a fenced die raises FENCED is the model's choice (notes/assumptions/55.md). -/
def Obligations.AssayInstructions : Prop :=
  ∀ (s : State) (sb : Bool) (h : Hdr) (a b c : Reg) (adv : BitVec 2) (nz : Bool) (i : ImmB) (idx : Nat),
    let handle := (s.me.task.map (·.handle)).getD 0
    let slot := s.assaySlot idx
    let tests : Prop := (s.g a = 0) ↔ nz = false
    (immVal i = idx → MayIssue s [] [codeG a] →
      (∀ kind c0 c1, slot = .slot kind c0 c1 → kind = adviceKind adv.toNat →
        ∃ t new, exec (.asel h a adv i) s = .next t ∧
          Completed s t h.s (atPc s.me.arch (npc s (lenP h.rgx i.hi.length))) new ∧
          OnItsWay (codeG a) new (fun r => r.value = some (w64 (advice adv.toNat c0 c1)))) ∧
      (slot = .noImage → ∃ t new, exec (.asel h a adv i) s = .next t ∧
        Completed s t h.s (atPc s.me.arch (npc s (lenP h.rgx i.hi.length))) new ∧
        OnItsWay (codeG a) new (fun r => r.value = some (if adv = 0 then 0 else 1))) ∧
      (∀ kind d, slot = .lost kind d → kind = adviceKind adv.toNat →
        exec (.asel h a adv i) s = .next (s.takeTrap s.cur .fenced (w64 (0x100 + d)) s.pc))) ∧
    (immVal i = idx → slot.suits [adviceKind adv.toNat] = false →
      exec (.asel h a adv i) s = .next (s.takeTrap s.cur .illegal (w64 idx) s.pc)) ∧
    (MayIssue s [codeG a, codeG c] [] → idx = (s.g c).toNat →
      (slot.suits [1] = true → ∃ t, exec (.abr h a c nz i) s = .next t ∧
        (tests → Completed s t h.s (atPc s.me.arch (branchTo s i)) []) ∧
        (¬tests → Completed s t h.s (atPc s.me.arch (npc s (lenP h.rgx i.hi.length))) []) ∧
        ∀ c0 c1, slot = .slot 1 c0 c1 → ∃ k ∈ t.me.chunks,
          (tests → (⟨handle, idx, 1, 1⟩ : AssayAdd) ∈ k.assay) ∧ (¬tests → (⟨handle, idx, 1, 0⟩ : AssayAdd) ∈ k.assay)) ∧
      (slot.suits [1] = false → exec (.abr h a c nz i) s = .next (s.takeTrap s.cur .illegal (s.g c) s.pc))) ∧
    (immVal i = idx → MayIssue s [codeG a] [] → slot.suits [1, 2, 3] = true →
      ∃ t, exec (.arec sb a i) s = .next t ∧ Completed s t sb (atPc s.me.arch (npc s (2 + i.hi.length))) [] ∧
        ∀ kind c0 c1, slot = .slot kind c0 c1 → ∃ k ∈ t.me.chunks,
          (⟨handle, idx, 1, min (s.g a).toNat (if kind = 1 then 1 else 2 ^ 32 - 1)⟩ : AssayAdd) ∈ k.assay) ∧
    (immVal i = idx → slot.suits [1, 2, 3] = false →
      exec (.arec sb a i) s = .next (s.takeTrap s.cur .illegal (w64 idx) s.pc)) ∧
    (MayIssue s [codeG b, codeG c] [codeG a] → idx = (s.g c).toNat →
      let ea := s.scalarEa (s.g b) 0 8 false false false
      (∀ k ga, slot.suits [2] = true → ea = .ok (.here k, ga) → ∃ t new, exec (.apf h a b c) s = .next t ∧
        Completed (s.observe s.cur (unitOf k)) t h.s (atPc s.me.arch (npc s (lenP h.rgx 0))) new ∧
        OnItsWay (codeG a) new (fun r => r.value = some (w64 (s.loadNum k 8)) ∧
          r.assay = if slot = .noImage then none else some (idx, s.myCore.cyc.toNat))) ∧
      (∀ cause v, slot.suits [2] = true → ea = .error (cause, v) →
        exec (.apf h a b c) s = .next (s.takeTrap s.cur cause v s.pc)) ∧
      (slot.suits [2] = false → exec (.apf h a b c) s = .next (s.takeTrap s.cur .illegal (s.g c) s.pc)))

/-- R354, R128, R129, R350: LRW of a free lock completes as the holder's: the variable is a held lock, the lowest free entry
names the issuer's group with the die's next acquisition number and no mark, and the status is OK with the entry's index
and die. The holder's own request gets SELF; another group's waits at the tail of the lock's queue. That a new holding takes
the lowest free index is the model's choice (notes/assumptions/21.md). -/
def Obligations.LockRequestHoldsOrWaits : Prop :=
  ∀ (s : State) (h : Hdr) (a b : Reg) (lvl : BitVec 3) (v : VarId) (g : GroupRef),
    MayIssueAlone s [codeG b] [codeG a] → s.syncVar (s.g b) = .ok v → s.me.resume = none → s.myGroup lvl.toNat = some g →
    let idx := firstGap (s.die v.die).estates 0
    let n := lenP h.rgx 0
    (s.mode v = .plain ∨ s.mode v = .lock .free false [] → idx < 65536 →
      ∃ t, Answers s t (.lrw h a b lvl) n a (statusWord 0 false idx (s.edie s.myCtx v.die)) ∧
        t.mode v = .lock .held false [] ∧ (t.entry v.die idx).holder = g ∧ (t.entry v.die idx).kind = 1 ∧
        (t.entry v.die idx).brv = false ∧ (t.entry v.die idx).aseq = (s.die v.die).acq ∧
        (t.die v.die).acq = (s.die v.die).acq + 1) ∧
    (∀ q i e, s.mode v = .lock .held false q → s.varEntry v = some (i, e) → s.meHolds e = true → e.brv = false →
      (∀ w ∈ q, w.1 ≠ s.cur) → ∃ t, Answers s t (.lrw h a b lvl) n a (statusWord 8 false 0 0) ∧ t.mode v = s.mode v) ∧
    (∀ q i e, s.mode v = .lock .held false q → s.varEntry v = some (i, e) → s.meHolds e = false →
      (∀ w ∈ q, w.1 ≠ s.cur) → ∃ t, exec (.lrw h a b lvl) s = .next t ∧ t.mode v = .lock .held false (q ++ [(s.cur, g)]) ∧
        (t.slot s.cur).status = .parked ∧ (t.slot s.cur).arch = s.me.arch)

/-- R355: RLS by the holder frees the lock and its entry when nobody waits, and else makes the head of the queue's group the
holder and answers it; SCH by the holder hands the lock to a living group none of whose tasks is queued. RLS of a
free lock gets NOTHOLDER. -/
def Obligations.LockReleaseAndHandover : Prop :=
  ∀ (s : State) (sb : Bool) (h : Hdr) (a b c : Reg) (v : VarId), s.syncVar (s.g b) = .ok v →
    (s.ctx s.myCtx).releaseCheck = false →
    (∀ idx e q, MayIssueAlone s [codeG b] [codeG a] → s.lockHeld v = .ok (idx, e, q) →
      s.releaseWait (s.scopeOf e.holder) = none →
      (q = [] → ∃ t, Answers s t (.rls sb a b) 2 a (statusWord 0 false 0 0) ∧ t.mode v = .lock .free false [] ∧
        tfind (t.die v.die).estates idx = none) ∧
      (∀ w rest, q = w :: rest → w.1 ≠ s.cur → w.1.slot < 8 →
        ∃ t r, Answers s t (.rls sb a b) 2 a (statusWord 0 false 0 0) ∧ t.mode v = .lock .held false rest ∧
          (t.entry v.die idx).holder = w.2 ∧ (t.slot w.1).resume = some r ∧ wbits r.value 7 0 = 0)) ∧
    (∀ idx e q g, MayIssueAlone s [codeG b, codeG c] [codeG a] → s.refOf (s.g c) = some g →
      s.lockHeld v = .ok (idx, e, q) → g ≠ e.holder → s.exited g = false → (∀ w ∈ q, s.slotIn g w.1 = false) →
      s.releaseWait (s.scopeOf e.holder) = none →
      ∃ t, Answers s t (.sch h a b c) (lenP h.rgx 0) a (statusWord 0 false 0 0) ∧ t.mode v = .lock .held true q ∧
        (t.entry v.die idx).holder = g ∧ (t.entry v.die idx).depth = 0) ∧
    (MayIssueAlone s [codeG b] [codeG a] → (∃ x q, s.mode v = .lock .free x q) →
      ∃ t, Answers s t (.rls sb a b) 2 a (statusWord 5 false 0 0))

namespace Sys2Proof.Claims
open Sys2Proof.Machine

/-- R356: the new M of each operation. -/
def amoResult (op : Nat) (m x : Word) : Word :=
  match op with
  | 0 => x
  | 1 => w64 (m.toNat + x.toNat)
  | 2 => m &&& x
  | 3 => m ||| x
  | 4 => m ^^^ x
  | 5 => i64 (max m.toInt x.toInt)
  | 6 => i64 (min m.toInt x.toInt)
  | 7 => w64 (max m.toNat x.toNat)
  | _ => w64 (min m.toNat x.toNat)

/-- The target of an operation of the own package passes its checks: its bytes' key and that it is plain memory or a plain
variable (R349, R350, R356). -/
def AtomicTarget (s : State) (a : Word) (size key : Nat) (var : Option VarId) : Prop :=
  s.atomicAddr a size = none ∧ s.me.resume = none ∧ s.me.sent = false ∧ gaPkg a.toNat = s.pkg.toNat ∧
    s.atomicPlace s.myCtx a.toNat = .ok (key, var) ∧ s.capOk a.toNat = true ∧ s.fencedAt s.myCtx a.toNat = false ∧
    memWf s.mem = true ∧ ∀ v, var = some v → s.mode v = .plain


end Sys2Proof.Claims

/-- R356, R360: AMO returns the old M and writes the new one; CAS writes only where M equals g[a]; RED writes as AMO does
and returns nothing. R357: FAMO and FRED on plain memory apply the FP32 operation of FOP under RNE; FAMO returns the old M
to f[a] with the flags of the step. No other byte of memory changes. -/
def Obligations.AtomicsOnMemory : Prop :=
  (∀ (s : State) (h : Hdr) (a b c : Reg) (op : BitVec 4) (key : Nat) (var : Option VarId),
     AtomicTarget s (s.g b) 8 key var →
     let m := w64 (s.num key 8)
     let arch := atPc s.me.arch (npc s (lenP h.rgx 0))
     let returns (t : State) (dest : Nat) : Prop := (t.slot s.cur).arch = arch ∧
       ∃ new, (t.slot s.cur).returns = s.me.returns ++ new ∧ OnItsWay dest new (fun r => r.value = some m)
     (MayIssueAlone s [codeG b, codeG c] [codeG a] → ∃ t, exec (.amo h a b c op) s = .next t ∧ returns t (codeG a) ∧
       WritesOnly s t key 8 (amoResult op.toNat m (s.g c)).toNat) ∧
     (MayIssueAlone s [codeG a, codeG b, codeG c] [codeG a] → ∃ t, exec (.cas h a b c) s = .next t ∧ returns t (codeG a) ∧
       WritesOnly s t key 8 (if m = s.g a then s.g c else m).toNat) ∧
     (MayIssueAlone s [codeG b, codeG c] [] → ∃ t, exec (.red h b c op) s = .next t ∧
       (t.slot s.cur).arch = arch ∧ (t.slot s.cur).returns = s.me.returns ∧
       WritesOnly s t key 8 (amoResult op.toNat m (s.g c)).toNat)) ∧
  (∀ (s : State) (h : Hdr) (a b c : Reg) (fop : BitVec 2) (key : Nat) (var : Option VarId),
     AtomicTarget s (s.g b) 4 key var →
     let m : Nat := s.num key 4
     let x := (s.f c).toNat
     let v := if fop = 0 then fAdd 24 0 m x else fMinMax 24 (fop == 1) m x
     let arch := atPc s.me.arch (npc s (lenP h.rgx 0))
     (MayIssueAlone s [codeG b, codeF c] [codeF a] → ∃ t r, exec (.famo h a b c fop) s = .next t ∧
       (t.slot s.cur).arch = arch ∧ (t.slot s.cur).returns = s.me.returns ++ [r] ∧ r.reg.toNat = codeF a ∧
       r.value = some (w64 m) ∧ r.flags = v.2.word ∧ WritesOnly s t key 4 v.1) ∧
     (MayIssueAlone s [codeG b, codeF c] [] → ∃ t, exec (.fred h b c fop) s = .next t ∧
       (t.slot s.cur).arch = arch ∧ (t.slot s.cur).returns = s.me.returns ∧ WritesOnly s t key 4 v.1))

/-- R361, R154: the arrival that completes a phase ends BARR: g[a] holds the phase that was current, AP is 0, and the
barrier is at the next phase with no arrivals; an earlier arrival parks with AP at 1, so that it is not made again. BARA
arrives and goes on; BARW goes on once its token's phase has passed. BARR with A = 0 is ILLEGAL. That AP is 1 from the arrival
on, while the slot waits, is the model's reading of R154 (notes/assumptions/23.md). -/
def Obligations.BarriersCountArrivals : Prop :=
  ∀ (s : State) (sb : Bool) (h : Hdr) (a b c : Reg) (v : VarId) (count n : Nat) (phase : BitVec 16) (lvl : Nat)
    (ms : List TaskRef) (ws : List (SlotId × BitVec 16)),
    s.syncVar (s.g b) = .ok v → s.me.resume = none → s.mode v = .barrier count n phase lvl ms ws →
    s.releaseWait (s.levelScope s.cur lvl) = none → (s.ctx s.myCtx).releaseCheck = false →
    let token := statusWord 0 false phase.toNat 0
    (MayIssueAlone s [codeG b] [codeG a] → a ≠ 0 → s.me.arch.ap = false → count ≤ n + 1 →
      ∃ t ms', exec (.barr sb a b) s = .next t ∧
        Effect s t { atPc (s.me.arch.setG a token) (npc s 2) with ap := false } [] ∧
        t.mode v = .barrier count 0 (phase + 1) lvl ms' (ws.filter (fun w => !passed (phase + 1) w.2))) ∧
    (MayIssueAlone s [codeG b] [codeG a] → a ≠ 0 → s.me.arch.ap = false → n + 1 < count → (∀ w ∈ ws, w.1 ≠ s.cur) →
      ∃ t ms', exec (.barr sb a b) s = .next t ∧ (t.slot s.cur).status = .parked ∧
        (t.slot s.cur).arch = { s.me.arch.setG a token with ap := true } ∧
        t.mode v = .barrier count (n + 1) phase lvl ms' (ws ++ [(s.cur, phase)])) ∧
    (MayIssueAlone s [codeG b] [codeG a] → ∃ t ms', Answers s t (.bara sb a b) 2 a token ∧
      t.mode v = if n + 1 < count then .barrier count (n + 1) phase lvl ms' ws
        else .barrier count 0 (phase + 1) lvl ms' (ws.filter (fun w => !passed (phase + 1) w.2))) ∧
    (MayIssueAlone s [codeG b, codeG c] [codeG a] →
      let p : BitVec 16 := BitVec.ofNat 16 ((s.g c).toNat / 2 ^ 16)
      1 ≤ (phase - p).toNat → (phase - p).toNat ≤ 32767 →
      ∃ t, Answers s t (.barw h a b c) (lenP h.rgx 0) a (statusWord 0 false p.toNat 0) ∧ t.mode v = s.mode v) ∧
    (a = 0 → ∃ w, exec (.barr sb a b) s = .next (s.takeTrap s.cur .illegal w s.pc))

/-- R358: SYMG makes a plain variable a barrier or a reduction with its word's fields, and resets an idle variable to a
plain one whose 16 bytes are 0; a word that is not legal for its mode is ILLEGAL. -/
def Obligations.SymgSetsTheMode : Prop :=
  ∀ (s : State) (h : Hdr) (a b c : Reg) (v : VarId), MayIssueAlone s [codeG b, codeG c] [codeG a] →
    s.syncVar (s.g b) = .ok v →
    let w := s.g c
    let n := lenP h.rgx 0
    (symgOk 1 w = true → s.mode v = .plain → (s.myGroup (w.toNat / 2 ^ 32 % 8)).isSome →
      ∃ t, Answers s t (.symg h a b c 1) n a 0 ∧
        t.mode v = .barrier (w.toNat % 2 ^ 32) 0 0 (w.toNat / 2 ^ 32 % 8) [] []) ∧
    (symgOk 2 w = true → s.mode v = .plain →
      ∃ t, Answers s t (.symg h a b c 2) n a 0 ∧
        t.mode v = .reduce (w.toNat % 2 ^ 32) (w.toNat / 2 ^ 40) s.me.detlvl.toNat [] 0) ∧
    (w = 0 → s.symgBusy v = false → memWf s.mem = true → ∃ t, exec (.symg h a b c 0) s = .next t ∧
      (t.slot s.cur).arch = atPc s.me.arch (npc s n) ∧ t.mode v = .plain ∧ WritesOnly s t (t.varKey v.die v.v) 16 0) ∧
    (∀ mode, symgOk mode w = false → exec (.symg h a b c mode) s = .next (s.takeTrap s.cur .illegal w s.pc))

/-- R362 to R364: PROM of a plain or fulfilled variable completes with a pending promise and a new entry of the issuer's
group; FULF by its holder fulfils it, frees the entry and answers every waiter; PWAIT on a fulfilled promise completes with
OK, on a broken one with BROKEN, and waits on one that another group is to fulfil. That a new promise takes the lowest free
index is the model's choice (notes/assumptions/21.md). -/
def Obligations.PromisesArePromised : Prop :=
  ∀ (s : State) (sb : Bool) (h : Hdr) (a b : Reg) (lvl : BitVec 3) (v : VarId),
    MayIssueAlone s [codeG b] [codeG a] → s.syncVar (s.g b) = .ok v → s.me.resume = none →
    (s.ctx s.myCtx).releaseCheck = false →
    let idx := firstGap (s.die v.die).estates 0
    (∀ g, s.myGroup lvl.toNat = some g → s.mode v = .plain ∨ s.mode v = .promise .fulfilled → idx < 65536 →
      ∃ t, Answers s t (.prom h a b lvl) (lenP h.rgx 0) a (statusWord 0 false idx (s.edie s.myCtx v.die)) ∧
        t.mode v = .promise .pending ∧ (t.entry v.die idx).holder = g ∧ (t.entry v.die idx).kind = 3) ∧
    (∀ i e, s.mode v = .promise .pending → s.varEntry v = some (i, e) → s.meHolds e = true →
      s.releaseWait (s.scopeOf e.holder) = none →
      ∃ t, Answers s t (.fulf sb a b) 2 a (statusWord 0 false 0 0) ∧ t.mode v = .promise .fulfilled ∧
        tfind (t.die v.die).estates i = none ∧ ∀ w ∈ (s.die v.die).pwait, w.2 = v.v → w.1 ≠ s.cur → w.1.slot < 8 →
          ∃ r, (t.slot w.1).resume = some r ∧ wbits r.value 7 0 = 0) ∧
    let apart : Prop := ∀ w ∈ (s.die v.die).pwait, w.1 ≠ s.cur
    (apart → s.mode v = .promise .fulfilled → ∃ t, Answers s t (.pwait sb a b) 2 a (statusWord 0 false 0 0)) ∧
    (apart → s.mode v = .promise .broken → ∃ t, Answers s t (.pwait sb a b) 2 a (statusWord 2 false 0 0)) ∧
    (∀ i e, s.mode v = .promise .pending → s.varEntry v = some (i, e) → s.meHolds e = false →
      apart → ∃ t, exec (.pwait sb a b) s = .next t ∧
        (t.slot s.cur).status = .parked ∧ (s.cur, v.v) ∈ (t.die v.die).pwait)

/-- R365, R366, R127: HEIR by the holder of a holding sets its entry's heir, or none for all ones; ESTQ writes the entry's
48 bytes to its record and answers with the entry's index and die. -/
def Obligations.EstateHeirAndQuery : Prop :=
  ∀ (s : State) (h : Hdr) (a b c : Reg) (die hid idx : Nat) (e : Estate), MayIssueAlone s [codeG b, codeG c] [codeG a] →
    s.holdingOperand (s.g b) true false = .ok (die, hid) → s.hidEntry die hid = some (idx, e) →
    let n := lenP h.rgx 0
    (s.meHolds e = true →
      (s.g c = BitVec.allOnes 64 → s.refOf (s.g c) = none →
        ∃ t, Answers s t (.heir h a b c) n a 0 ∧ (t.entry die idx).heirk = 1 ∧ (t.entry die idx).holder = e.holder) ∧
      (∀ r, s.refOf (s.g c) = some r → s.g c ≠ BitVec.allOnes 64 → refSup r = false →
        ∃ t, Answers s t (.heir h a b c) n a 0 ∧ (t.entry die idx).heirk = 0 ∧ (t.entry die idx).heir = r ∧
          (t.entry die idx).holder = e.holder)) ∧
    (∀ off, refCtx e.holder = s.myCtx → s.ownTarget (s.g c) 16 48 = .ok off → memWf s.mem = true →
      ∃ t new, exec (.estq h a b c false) s = .next t ∧ (t.slot s.cur).arch = atPc s.me.arch (npc s n) ∧
        (t.slot s.cur).returns = s.me.returns ++ new ∧
        OnItsWay (codeG a) new (fun r => r.value = some (statusWord 0 false idx (s.edie s.myCtx die))) ∧
        (∀ i, i < 48 → t.byte (s.ownKey spLM off + i) = listGet (e.toBytes
          ++ toBytes ((e.offer.map BitVec.toNat).getD 0) 8 ++ List.replicate 8 0) 0 i) ∧
        ∀ x, x < s.ownKey spLM off ∨ s.ownKey spLM off + 48 ≤ x → t.byte x = s.byte x)

/-- R367 to R369: CAPGV by the holder of an object makes the named group its pending target; CAPTK by that group makes it the
holder with a new acquisition number; CAPQ reads the home's copy of the holder. -/
def Obligations.CapabilitiesOfferTakeQuery : Prop :=
  ∀ (s : State) (sb : Bool) (h : Hdr) (a b c : Reg) (die hid idx : Nat) (e : Estate),
    s.holdingOperand (s.g b) false true = .ok (die, hid) → s.objEntry die s.myCtx hid = some (idx, e) → s.me.resume = none →
    (∀ g, MayIssueAlone s [codeG b, codeG c] [codeG a] → s.refOf (s.g c) = some g → s.g c ≠ BitVec.allOnes 64 →
      s.meHolds e = true → g ≠ e.holder → e.offer = none → s.releaseWait (s.scopeOf e.holder) = none →
      (s.ctx s.myCtx).releaseCheck = false → (s.die die).capWait = [] →
      ∃ t, AnswersHere s t (.capgv h a b c) (lenP h.rgx 0) a 0 ∧ (t.entry die idx).offer = some g ∧ (t.entry die idx).st = 1 ∧
        (t.entry die idx).holder = e.holder) ∧
    (∀ g, MayIssueAlone s [codeG b] [codeG a] → s.meHolds e = false → e.offer = some g → s.meIn g = true →
      (∀ w ∈ (s.die die).capWait, w.1 ≠ s.cur) → ∃ t, AnswersHere s t (.captk sb a b) 2 a (statusWord 0 false idx (s.edie s.myCtx die)) ∧
        (t.entry die idx).holder = g ∧ (t.entry die idx).offer = none ∧ (t.entry die idx).aseq = (s.die die).acq) ∧
    (∀ home x, MayIssueAlone s [codeG b] [codeG a] → (s.ctx s.myCtx).phys (gaCore hid) = some home →
      s.holderOf s.myCtx home hid = some x →
      ∃ t, Answers s t (.capq sb a b) 2 a (w64 (x.ref.toNat + 2 ^ 49 * x.offered.toNat + 2 ^ 50 * x.brv.toNat)))

namespace Sys2Proof.Claims
open Sys2Proof.Machine

-- pages 2, 3 and 4

/-- R293: the S bit, the major number and the two operands of the vector commands. -/
def vectorForm (i : Instr) : Option (Bool × Nat × Reg × Reg) :=
  match i with
  | .vadd s a b => some (s, 0x01, a, b)
  | .vsub s a b => some (s, 0x02, a, b)
  | .vmul s a b => some (s, 0x03, a, b)
  | .vfma s a b => some (s, 0x04, a, b)
  | .vmax s a b => some (s, 0x05, a, b)
  | .vmin s a b => some (s, 0x06, a, b)
  | .vscl s a b => some (s, 0x07, a, b)
  | .vcvt s a b => some (s, 0x08, a, b)
  | .vexp2 s a b => some (s, 0x09, a, b)
  | .vtanh s a b => some (s, 0x0A, a, b)
  | .vrsum s a b => some (s, 0x0B, a, b)
  | .vrmax s a b => some (s, 0x0C, a, b)
  | .vcmp s a b => some (s, 0x0D, a, b)
  | .vsel s a b => some (s, 0x0E, a, b)
  | .vcopy s a b => some (s, 0x0F, a, b)
  | .vgath s a b => some (s, 0x10, a, b)
  | .vscat s a b => some (s, 0x11, a, b)
  | .vtran s a b => some (s, 0x12, a, b)
  | _ => none

/-- A tensor command as R313 to R325 give it: S bit, length, major number, form, operand values and their codes, the first
scale register and the stream register. -/
structure TensShape where
  s : Bool
  len : Nat
  major : Nat
  form : BitVec 4
  opA : Nat
  opB : Nat
  regs : List Nat
  c : Reg
  kS : Option (BitVec 2)

/-- R317, R321 to R325. -/
def tensShape (s : State) (i : Instr) : Option TensShape :=
  match i with
  | .mmI8P h a b c pl k => mm h a b c pl k 1
  | .mmI4P h a b c pl k => mm h a b c pl k 2
  | .mmBFB h a b c pl k => mm h a b c pl k 3
  | .mmBFP h a b c pl k => mm h a b c pl k 4
  | .mzero sb => some ⟨sb, 2, 0x07, 0, 0, 0, [], 0, none⟩
  | .moutl sb a b => some ⟨sb, 2, 0x09, 0, (s.g a).toNat, (s.g b).toNat, [codeG a, codeG b], 0, none⟩
  | .mcks h off => some ⟨h.s, lenP h.rgx 0, 0x0A, if off then 1 else 0, 0, 0, [], 0, none⟩
  | .mchk sb a => some ⟨sb, 2, 0x0B, 0, (s.g a).toNat, 0, [codeG a], 0, none⟩
  | .mrel h a b bf zr => some ⟨h.s, lenP h.rgx 0, 0x0C, BitVec.ofNat 4 (bf.toNat + 2 * zr.toNat), (s.g a).toNat,
      (s.g b).toNat, [codeG a, codeG b], 0, none⟩
  | _ => none
where
  mm (h : Hdr) (a b c : Reg) (pl : BitVec 3) (k : Option (BitVec 2)) (major : Nat) : Option TensShape :=
    some ⟨h.s, lenP h.rgx (if k.isSome then 1 else 0), major, pl.setWidth 4, (s.g a).toNat, (s.g b).toNat,
      [codeG a, codeG b, codeF c, codeF (c + 1)] ++ (k.map codeK).toList, c, k⟩

/-- R214: the registers with kS.ADDR past the skip-list entries of the command. -/
def pastSkip (r : Arch) (kS : Option (BitVec 2)) : Arch :=
  match kS with
  | none => r
  | some k => r.setK k (w64 ((wbits (r.getK k) 15 0 + 2 * ceilDiv r.txn.toNat 16) % 2 ^ 16))

/-- No unit and no signal of an owner is on its way (R187, R189). -/
def Quiet (s : State) (o : WriteOwner) : Prop := (∀ u ∈ s.unitWrites, u.owner ≠ o) ∧ ∀ e ∈ s.signals, e.owner ≠ o

/-- R187, R189: bytes sent to keys as units of an owner, those for one key in their order; the units of others, and every byte
of memory, are as before. -/
def Sent (s t : State) (o : WriteOwner) (ks : List Nat) (bs : List Byte) : Prop :=
  (∀ k, ((t.unitWrites.filter (fun u => u.owner == o)).flatMap (·.cells)).filter (fun c => c.1 == k)
      = (ks.zip bs).filter (fun c => c.1 == k)) ∧
    t.unitWrites.filter (fun u => u.owner != o) = s.unitWrites.filter (fun u => u.owner != o) ∧ ∀ k, t.byte k = s.byte k

/-- No access waits at a granule, so that the writes of an engine serve none. -/
def NoneWaits (s : State) : Prop := ∀ c, (s.core c).granQ = []

/-- A run of new bytes at keys, in order; every other byte as before. -/
def Puts (s t : State) (ks : List Nat) (bs : List Byte) : Prop :=
  (∀ (j k : Nat), ks[j]? = some k → some (t.byte k) = bs[j]?) ∧ ∀ k, k ∉ ks → t.byte k = s.byte k

end Sys2Proof.Claims

/-- R294, R298, R312: each vector command whose record passes the checks of R298 joins its core's vector queue with the
record and the scalar as they stand, while fewer than 4 of its slot's commands wait there; a full queue parks it; a record
that fails traps with its cause. VFENCE with none of its slot's commands left returns the summary word, whose flags join
FSTAT, and clears it (R310). -/
def Obligations.VectorCommandsQueued : Prop :=
  (∀ (s : State) (i : Instr) (sb : Bool) (major : Nat) (a b : Reg) (off : Nat), vectorForm i = some (sb, major, a, b) →
    MayIssueAlone s [codeG a, codeG b] [] → s.ownRecord (s.g a) 16 128 = .ok off →
    let r := s.bytes (s.ownKey spLM off) 128
    let mine := (s.myCore.vec.filter (fun v => v.slot == s.cur.slot)).length
    (s.vCheck major r = none → mine < 4 → (vCmpl r = true → s.me.outstanding < 4) →
      ∃ t v, exec i s = .next t ∧ Effect s t (atPc s.me.arch (npc s 2)) [] ∧
        (t.core s.cur.core).vec = s.myCore.vec ++ [v] ∧ v.slot = s.cur.slot ∧ v.major = major ∧ v.record = r ∧
        v.scalar = s.g b ∧ v.recOff = off ∧ v.done = 0 ∧ v.finished = false ∧
        (t.slot s.cur).outstanding = s.me.outstanding + (if vCmpl r then 1 else 0)) ∧
    (s.vCheck major r = none → 4 ≤ mine → ∃ t, exec i s = .next t ∧ (t.slot s.cur).status = .parked ∧
      (t.slot s.cur).arch = s.me.arch ∧ (t.core s.cur.core).vec = s.myCore.vec) ∧
    (∀ c x, s.vCheck major r = some (c, x) → exec i s = .next (s.takeTrap s.cur c x s.pc))) ∧
  (∀ (s : State) (sb : Bool) (a : Reg), MayIssueAlone s [] [codeG a] → (∀ v ∈ s.myCore.vec, v.slot ≠ s.cur.slot) →
    let flags : Word := w64 (s.me.vsum.flags.toNat % 32)
    ∃ t new, exec (.vfence sb a) s = .next t ∧
      Effect s t { atPc s.me.arch (npc s 2) with fstat := s.me.arch.fstat ||| flags } new ∧
      (t.slot s.cur).vsum = VSum.clear ∧ OnItsWay (codeG a) new (fun r => r.value = some s.me.vsum.word))

/-- R223, R224, R315 to R325, R318 to R320, R326: each tensor command that no test of R223 or R316 turns away is accepted
with the extents, configuration and scale pair as they stand, and advances kS.ADDR past its skip list; one that fails a
test traps with TENSOR and the reason. MSETX, MSETC and MSKIP write their slot's registers; MWAIT completes once the slot
has no tensor command left. -/
def Obligations.TensorCommandsAccepted : Prop :=
  (∀ (s : State) (i : Instr) (x : TensShape), tensShape s i = some x →
    MayIssueAlone s x.regs (x.kS.map codeK).toList → (∀ k, s.me.task = some k → k.trailing = false) →
    s.tensFull s.cur = false → (s.me.fifoOf 3).ops = [] →
    let u := s.tensCmd s.cur x.major x.form x.opA x.opB x.c.toNat x.kS false
    let reason := u.reason (x.kS.map (fun k => wbits (s.me.arch.getK k) 15 0)) s.me.checkOn
    (reason = 0 → ∃ t v, exec i s = .next t ∧ Effect s t (atPc (pastSkip s.me.arch x.kS) (npc s x.len)) [] ∧
      (t.core s.cur.core).tens = s.myCore.tens ++ [v] ∧ v.slot = s.cur.slot ∧ v.major = x.major ∧ v.form = x.form ∧
      v.opA = x.opA ∧ v.opB = x.opB ∧ v.txm = s.me.arch.txm.toNat ∧ v.txn = s.me.arch.txn.toNat ∧
      v.txk = s.me.arch.txk.toNat ∧ v.tc = s.me.arch.tc ∧ v.executed = false ∧
      (x.major ≤ 4 → v.scale = (s.f x.c, s.f (x.c + 1)) ∧ (t.slot s.cur).outl = none) ∧
      (x.major = 0x09 → (t.slot s.cur).outl = some (x.opA, x.opB)) ∧
      (x.major = 0x0A → (t.slot s.cur).checkOn = !x.form.getLsbD 0)) ∧
    (reason ≠ 0 → exec i s = .next (s.takeTrap s.cur .tensor (w64 (reason + 256 * x.major)) s.pc))) ∧
  (∀ (s : State) (sb : Bool) (h : Hdr) (a : Reg) (k : BitVec 2),
    (MayIssue s [codeG a] [] → ∃ t, exec (.msetx h a false) s = .next t ∧
      Completed s t h.s (atPc { s.me.arch with
        txm := BitVec.ofNat 32 (wbits (s.g a) 15 0), txn := BitVec.ofNat 32 (wbits (s.g a) 31 16)
        txk := BitVec.ofNat 32 (wbits (s.g a) 47 32) } (npc s (lenP h.rgx 0))) []) ∧
    (MayIssue s [] [] → ∃ t, exec (.msetx h a true) s = .next t ∧
      Completed s t h.s (atPc { s.me.arch with
        txm := s.me.ids[6].setWidth 32, txn := s.me.ids[7].setWidth 32
        txk := s.me.ids[8].setWidth 32 } (npc s (lenP h.rgx 0))) []) ∧
    (MayIssue s [codeG a] [] → ∃ t, exec (.msetc sb a) s = .next t ∧
      Completed s t sb (atPc { s.me.arch with tc := s.g a &&& 0x03FF1FFF1FFF1FFF } (npc s 2)) []) ∧
    (MayIssue s [codeG a] [codeK k] → ∃ t, exec (.mskip sb k a) s = .next t ∧
      Completed s t sb (atPc (s.me.arch.setK k (w64 (wbits (s.g a) 15 0))) (npc s 2)) []) ∧
    (MayIssueAlone s [] [] → (∀ c ∈ s.myCore.tens, c.slot ≠ s.cur.slot) → (s.me.fifoOf 3).ops = [] →
      ∃ t, exec (.mwait sb) s = .next t ∧ Effect s t (atPc s.me.arch (npc s 2)) [] ∧ kTENS ∉ (t.slot s.cur).unacquired) ∧
    (MayIssueAlone s [] [] → (∃ c ∈ s.myCore.tens, c.slot = s.cur.slot) →
      ∃ t, exec (.mwait sb) s = .next t ∧ (t.slot s.cur).status = .parked ∧ (t.slot s.cur).arch = s.me.arch))

/-- R338, R339, R342, R343, R118: CPY, GETR and JIG with a descriptor that passes its tests join their engine's list, one
operation more outstanding; a field of CPY or GETR that fails traps with ILLEGAL and 0x100 plus its offset, and an offset of JIG
with ALIGN or XLATE. INB takes the slot's oldest
message from the inbox, returns its first word and, in the form with a record, writes its 32 bytes to LM; with none
there, `.nb` returns 0 and the plain form parks; an error entry raises QDEAD (R148). That an error entry is one of TYPE 0 and
that its XVAL is 0 are the model's choices (notes/assumptions/48.md). -/
def Obligations.EngineOperationsAndInbox : Prop :=
  ∀ (s : State) (sb : Bool) (h : Hdr) (a b : Reg) (m nb : Bool) (off : Nat),
    (MayIssueAlone s [codeG a, codeG b] [] → s.ownRecord (s.g a) 64 64 = .ok off →
      let r := s.bytes (s.ownKey spLM off) 64
      (fieldTrap (copyFields r) = none → s.me.outstanding < 4 → ∃ t c, exec (.cpy sb a b) s = .next t ∧
        Effect s t (atPc s.me.arch (npc s 2)) [] ∧ (t.core s.cur.core).copy = s.myCore.copy ++ [c] ∧ c.getr = false ∧
        c.slot = s.cur.slot ∧ c.desc = s.g a ∧ c.record = r ∧ c.tag = s.g b ∧ c.row = 0 ∧ c.col = dHEAD r ∧ c.moved = 0 ∧
        c.finished = false ∧ (t.slot s.cur).outstanding = s.me.outstanding + 1) ∧
      (∀ c x, fieldTrap (copyFields r) = some (c, x) →
        exec (.cpy sb a b) s = .next (s.takeTrap s.cur .illegal x s.pc))) ∧
    (MayIssueAlone s [codeG a, codeG b] [] → s.ownRecord (s.g a) 32 32 = .ok off →
      let r := s.bytes (s.ownKey spLM off) 32
      (∀ c x, fieldTrap (s.getrFields r) = some (c, x) →
        exec (.getr sb a b) s = .next (s.takeTrap s.cur .illegal x s.pc)) ∧
      (fieldTrap (s.getrFields r) = none → s.me.outstanding < 4 → gaPkg (dSRC r) = s.pkg.toNat →
      ∃ t c, exec (.getr sb a b) s = .next t ∧ Effect s t (atPc s.me.arch (npc s 2)) [] ∧
        (t.core s.cur.core).copy = s.myCore.copy ++ [c] ∧ c.getr = true ∧ c.slot = s.cur.slot ∧ c.desc = s.g a ∧
        c.record = r ∧ c.tag = s.g b ∧ c.gets = [] ∧ (t.slot s.cur).outstanding = s.me.outstanding + 1)) ∧
    (MayIssueAlone s [codeG a] [] →
      let o := (s.g a).toNat
      let d := s.cur.core / 1024
      (o % 64 = 0 → o + 64 ≤ 65536 → s.me.outstanding < 4 → (s.die d).jig.length < 64 →
        ∃ t c, exec (.jig sb a) s = .next t ∧ Effect s t (atPc s.me.arch (npc s 2)) [] ∧
          (t.die d).jig = (s.die d).jig ++ [c] ∧ c.issuer = s.cur ∧ c.off = o ∧
          c.record = s.bytes (pa spLM s.cur.core o) 64 ∧ c.pushed = false ∧ c.bad = false ∧ c.tok = 0 ∧
          (t.slot s.cur).outstanding = s.me.outstanding + 1) ∧
      (o % 64 ≠ 0 → exec (.jig sb a) s = .next (s.takeTrap s.cur .align (s.g a) s.pc)) ∧
      (o % 64 = 0 → 65536 < o + 64 → exec (.jig sb a) s = .next (s.takeTrap s.cur .xlate (s.g a) s.pc))) ∧
    (MayIssueAlone s (if m then [codeG b] else []) [codeG a] →
      (m = true → s.ownTarget (s.g b) 32 32 = .ok off ∧ memWf s.mem = true) →
      let n := npc s (lenP h.rgx 0)
      (∀ e, s.myCore.inbox.find? (fun x => x.slot == s.cur.slot) = some e → wbits e.msg.w0 7 0 = 0 →
        exec (.inb h a b m nb) s = .next (s.takeTrap s.cur .qdead 0 s.pc)) ∧
      (∀ e, s.myCore.inbox.find? (fun x => x.slot == s.cur.slot) = some e → s.myCore.niWait = [] →
        let typ := wbits e.msg.w0 7 0
        typ ≠ 0 →
        ∃ t new, exec (.inb h a b m nb) s = .next t ∧
          (t.slot s.cur).arch = { atPc s.me.arch n with
            fstat := s.me.arch.fstat ||| w64 (if typ = 0x12 then wbits e.msg.w0 28 24 else 0) } ∧
          (t.slot s.cur).returns = s.me.returns ++ new ∧ (t.core s.cur.core).inbox = s.myCore.inbox.erase e ∧
          OnItsWay (codeG a) new (fun r => r.value = some e.msg.w0) ∧
          (m = false → ∀ k, t.byte k = s.byte k) ∧
          (m = true → WritesOnly s t (s.ownKey spLM off) 32 (e.msg.w0.toNat + 2 ^ 64 * e.msg.w1.toNat
            + 2 ^ 128 * e.msg.w2.toNat + 2 ^ 192 * e.msg.w3.toNat))) ∧
      ((∀ x ∈ s.myCore.inbox, x.slot ≠ s.cur.slot) → nb = true → ∃ t, Answers s t (.inb h a b m nb) (lenP h.rgx 0) a 0) ∧
      ((∀ x ∈ s.myCore.inbox, x.slot ≠ s.cur.slot) → nb = false → ∃ t, exec (.inb h a b m nb) s = .next t ∧
        (t.slot s.cur).status = .parked ∧ (t.slot s.cur).arch = s.me.arch))

/-- R346: DGST adds the mixed value to the variable's first doubleword and 1 to its second. R340, R341, R183: PUTSG inside the
package, its release satisfied, sends LEN bytes to DST in units and a signal to SIG behind them, all covered by a later
release; the signal, its data performed, writes the word itself, or under SOP 1 the old word plus it, at SY on bytes 0 to 7 of
the variable. To another package its
packets join what a later release covers. R347: DGX answers with status 1 for a group
that does not take digests, with status 2 when both steps have their own contribution, and else with the step, the
variable's 16 bytes cleared. -/
def Obligations.DigestsAndSignalledPut : Prop :=
  (∀ (s : State) (sb : Bool) (a b : Reg) (v : VarId), MayIssueAlone s [codeG a, codeG b] [] → memWf s.mem = true →
     s.syncOperand (s.g a) = .ok (some v) →
     let k := s.varKey v.die v.v
     ∃ t, exec (.dgst sb a b) s = .next t ∧ (t.slot s.cur).arch = atPc s.me.arch (npc s 2) ∧
       WritesOnly s t k 16 ((s.num k 8 + (dgstMix (s.g b)).toNat) % 2 ^ 64 + 2 ^ 64 * ((s.num (k + 8) 8 + 1) % 2 ^ 64))) ∧
  ((∀ (s : State) (sb : Bool) (a b : Reg) (off : Nat) (bs : List Byte), MayIssueAlone s [codeG a, codeG b] [] →
     s.ownRecord (s.g a) 32 32 = .ok off →
     let r := s.bytes (s.ownKey spLM off) 32
     let dst := field r 8 8
     let sig := field r 24 8
     (∀ f ∈ s.putsgFields r, f.2 = true) → s.agentRead s.myCtx (field r 0 8) (field r 16 4) = .ok bs →
     boundsFault dst (field r 16 4) = none → boundsFault sig 8 = none →
     s.coordOk s.myCtx dst = true → s.coordOk s.myCtx sig = true → s.fencedAt s.myCtx dst = false →
     s.fencedAt s.myCtx sig = false → s.lostWrite s.me.cover = none → s.coverFar = false →
     (s.ctx s.myCtx).releaseCheck = false → (s.ctx s.myCtx).flooded = false →
     (let o : WriteOwner := .engine s.cur.core s.cur.slot kPUTSG
      gaPkg dst = s.pkg.toNat → Quiet s o →
       ∃ t e, exec (.putsg sb a b) s = .next t ∧ (t.slot s.cur).arch = atPc s.me.arch (npc s 2) ∧
         (t.slot s.cur).returns = s.me.returns ∧ t.signals = s.signals ++ [e] ∧ e.owner = o ∧ e.sop = byteAt r 20 ∧
         e.sig = sig ∧ e.value = s.g b ∧ e.agent = s.myAgent ∧ e.id ∈ (t.slot s.cur).cover ∧
         ∀ ks, isWindow dst = false → s.agentKeys s.myCtx dst true 0 (field r 16 4) = .ok ks → s.myAgent.check = none →
           Sent s t o ks bs ∧ ∀ u ∈ t.unitWrites, u.owner = o → u.id ∈ (t.slot s.cur).cover) ∧
     (gaPkg dst ≠ s.pkg.toNat → s.flowFailed (gaPkg dst) 0 = false → s.flowOpen (gaPkg dst) 0 = true →
       ∃ t ids, exec (.putsg sb a b) s = .next t ∧ Effect s t (atPc s.me.arch (npc s 2)) [] ∧ ids ≠ [] ∧
         (t.slot s.cur).cover = s.me.cover ++ ids)) ∧
   (∀ (s : State) (e : LateSignal) (kg : List Nat), s.signals = [e] → (∀ w ∈ s.homeWrites, w.id ≠ e.id) →
     (∀ u ∈ s.unitWrites, u.id ≠ e.id) → s.landing e.owner = false → isWindow e.sig = false → e.sop ≤ 1 →
     gaPkg e.sig = s.pkg.toNat → e.agent.check = none → (s.ctx e.agent.ctx).flooded = false →
     s.agentKeys e.agent.ctx (if e.sop = 1 ∧ gaSpace e.sig = 6 then e.sig / 16 * 16 else e.sig) true 0 8 = .ok kg →
     kg.Nodup → memWf s.mem = true →
     ∃ t, exec (.homeAccess e.id) s = .next t ∧ t.signals = [] ∧ Puts s t kg (toBytes (if e.sop = 1 then
       w64 (fromBytes (kg.map s.byte)) + e.value else e.value).toNat 8)) ∧
   (∀ (s : State) (sb : Bool) (a b c : Reg) (v : VarId), MayIssueAlone s [codeG b, codeG c] [codeG a] →
     (s.g c).toNat < 256 → s.syncVar (s.g b) = .ok v →
     let gi := (s.g c).toNat
     let g := s.group gi
     let takes := gVALID g.cfg = true ∧ gOk g.cfg = true ∧ gDgeq g.cfg = true ∧ gOWN g.cfg = true ∧ gOWNCNT g.cfg = 1
     (¬takes → ∃ t, Answers s t (.dgx sb a b c) 3 a (w64 (2 ^ 16))) ∧
     (takes → g.cur.ownDone = true → g.nxt.ownDone = true → ∃ t, Answers s t (.dgx sb a b c) 3 a (w64 (2 ^ 17))) ∧
     (takes → g.cur.ownDone = false → g.cur.kids = [] → gKids g.cfg ≠ [] → s.childLost g.cfg = false →
       memWf s.mem = true →
       ∃ t new, exec (.dgx sb a b c) s = .next t ∧ (t.slot s.cur).arch = atPc s.me.arch (npc s 3) ∧
         (t.slot s.cur).returns = s.me.returns ++ new ∧
         OnItsWay (codeG a) new (fun x => x.value = some (w64 (gSTEP g.cfg))) ∧
         WritesOnly s t (s.varKey v.die v.v) 16 0 ∧ (t.group gi).cur.ownDone = true ∧
         (t.group gi).cur.own = cellsOf 0 (s.bytes (s.varKey v.die v.v) 8))) ∧
   (∀ (s : State) (sb : Bool) (a b c : Reg), MayIssueAlone s [codeG b, codeG c] [codeG a] → 256 ≤ (s.g c).toNat →
     ∃ w, exec (.dgx sb a b c) s = .next (s.takeTrap s.cur .illegal w s.pc)))
namespace Sys2Proof.Claims
open Sys2Proof.Machine

-- event steps

/-- The newest entry of the event log (R72). -/
def Logged (t : State) (code unit data : Nat) : Prop :=
  ∃ e, t.hf.log.getLast? = some e ∧ e.code = BitVec.ofNat 16 code ∧ e.unit = BitVec.ofNat 32 unit ∧ e.data = data % 2 ^ 128

/-- R53: a port counter, and its increase with saturation. -/
def counter (s : State) (port n : Nat) : BitVec 32 := ((s.port port).counters[n]?).getD 0
def bumped (v : BitVec 32) : BitVec 32 := if v = BitVec.allOnes 32 then v else v + 1

/-- R75: the corrected FEC symbols of a lane in the present second, before the next one. -/
def symbols (s : State) (b : Bucket) : Nat :=
  match s.hf.fec.find? (fun e => e.1 == b) with
  | some (_, t, n) => if t = (s.now - s.hf.hftBase) / 1300000000 then n else 0
  | none => 0

/-- R76: the lanes of a port without a mark. -/
def unmarked (s : State) (p : Nat) : Nat := ((upFrom 0 8).filter (fun l => !s.hf.marks.contains (.lane p l))).length

/-- R25, R76: the lanes of a port that have neither failed nor a mark. -/
def sound (s : State) (p : Nat) : Nat :=
  ((upFrom 0 8).filter (fun l => !(s.port p).badLanes.contains l && !s.hf.marks.contains (.lane p l))).length

/-- R23, R71: readings inside every limit of R20, R22 and R23. -/
def Nominal (r : Sensors) : Prop :=
  48000 ≤ r.milliVolt ∧ r.milliVolt ≤ 58000 ∧ r.watt ≤ 3200 ∧ 3000 ≤ r.flow ∧ r.inlet ≤ 45000

end Sys2Proof.Claims



/-- R18: FREQUENCY_STEP of an island that may step stops its clock for 3,900 nominal cycles, once its cores have finished
their rotations, and rounds up NCYC of those at a boundary; RELOCK_END sets the step and adds 3,900 to NCYC. R20 to R23, R71: input or power outside its limits holds the
compute dies in reset and logs POWER; a cap of R20 is set, and above it islands step down, or at step 0 the tensor engines
are limited; a sampling, one every 100 µs, keeps the readings of all 520 islands and of the module, and changes nothing else
where they are inside their limits; a hot island is
marked and steps down, and without coolant flow the dies are held and the contexts flooded. R16, R96: an uncorrectable fault fences a die and the lowest live die is
elected; a failed bridge lane makes it narrow. The model's choices here: the DATA of THERMAL (notes/assumptions/36.md), and in
which order one sampling acts on its readings and when it logs them (notes/assumptions/44.md). -/
def Obligations.ClocksPowerAndDieFaults : Prop :=
  (((∀ (s : State) (i step : Nat), i < 520 → step ≤ 13 → step ≤ (s.island i).ceiling → step ≠ (s.island i).step →
      (s.island i).relock = none → ((s.island i).hot = true → step < (s.island i).step) →
      ∃ t, exec (.frequencyStep [i] step) s = .next t ∧
        ((∀ e ∈ s.cores, islandOf e.1 = i → e.2.cyc.toNat % 8 = 0) → (t.island i).relock = some (step, some (s.now + 3900))) ∧
        ((∃ e ∈ s.cores, islandOf e.1 = i ∧ e.2.cyc.toNat % 8 ≠ 0 ∧ s.clocked e.1 = true) →
          (t.island i).relock = some (step, none)) ∧
        (t.island i).step = (s.island i).step ∧ (∀ j, j ≠ i → t.island j = s.island j) ∧
        ∀ k, (t.core k).cyc = (s.core k).cyc ∧ (t.core k).ncyc =
          if islandOf k = i ∧ (s.core k).cyc.toNat % 8 = 0 ∧ (s.core k).ncycFrac ≠ 0 then (s.core k).ncyc + 1
          else (s.core k).ncyc) ∧
    (∀ (s : State) (i step : Nat), (s.island i).relock = some (step, none) →
      (∀ e ∈ s.cores, islandOf e.1 = i → e.2.cyc.toNat % 8 = 0) →
      exec (.relockEnd [i]) s = .next (s.setIsland i { s.island i with relock := some (step, some (s.now + 3900)) })) ∧
    (∀ (s : State) (i step at_ : Nat), (s.island i).relock = some (step, some at_) → at_ ≤ s.now →
      (s.cores.map Prod.fst).Nodup → ∃ t, exec (.relockEnd [i]) s = .next t ∧ (t.island i).step = step ∧
        (t.island i).relock = none ∧ ∀ k ∈ s.cores.map Prod.fst, (t.core k).cyc = (s.core k).cyc ∧
          (t.core k).ncyc = if islandOf k = i then
            (s.core k).ncyc + (if (s.core k).ncycFrac ≠ 0 then 1 else 0) + 3900 else (s.core k).ncyc) ∧
    (∀ (s : State) (i temp : Nat), i < 520 → (s.island i).hot = true →
      (temp < 100000 → ∃ t, exec (.thermalStep i temp) s = .next t ∧ (t.island i).hot = false ∧
        (t.island i).step = (s.island i).step) ∧
      (100000 ≤ temp → temp < 118000 → 0 < (s.island i).step → (s.island i).relock = none →
        (∀ u, (s.island i).lastStep = some u → u + 13000 ≤ s.now) →
        ∃ t, exec (.thermalStep i temp) s = .next t ∧
          (t.island i).relock.map Prod.fst = some ((s.island i).step - 1) ∧
          (t.island i).lastStep = some s.now ∧ (t.island i).hot = true))) ∧
   ((∀ (s : State) (power : Bool) (x : BitVec 32),
      (if power then 3200 < x.toNat else x.toNat < 48000 ∨ 58000 < x.toNat) →
      ∃ t, exec (.powerLimitExceeded power x) s = .next t ∧ (∀ d, d < 4 → (t.die d).heldReset = true) ∧
        Logged t 0x10 power.toNat x.toNat) ∧
    (∀ (s : State) (w : Nat), 1200 ≤ w → w ≤ 3200 → w % 25 = 0 →
      exec (.powerCapSet w) s = .next { s with hf := { s.hf with powerCap := w } }) ∧
    (∀ (s : State) (average i : Nat) (rest : List Nat),
      (average ≤ s.hf.powerCap → exec (.powerCapStep average rest) s = .next { s with hf := { s.hf with throttle := false } }) ∧
      (s.hf.powerCap < average → i < 520 → 0 < (s.island i).step → (s.island i).relock = none →
        (∀ u, (s.island i).lastStep = some u → u + 13000 ≤ s.now) →
        ∃ t, exec (.powerCapStep average (i :: rest)) s = .next t ∧
          (t.island i).relock.map Prod.fst = some ((s.island i).step - 1) ∧ (t.island i).lastStep = some s.now ∧
          ∀ j, j ≠ i → t.island j = s.island j) ∧
      (s.hf.powerCap < average → (∀ j, j < 520 → (s.island j).step = 0) →
        exec (.powerCapStep average rest) s = .next { s with hf := { s.hf with throttle := true } })) ∧
    (∀ (s : State) (r : Sensors),
      let due : Prop := s.hf.sampled < (s.now - s.hf.hftBase) / 130000
      (¬due → exec (.sensorSample r) s = .next s) ∧
      let cool : Prop := ∀ n ∈ r.hot.toList, n < 100000
      (due → Nominal r → cool → ∃ t, exec (.sensorSample r) s = .next t ∧ t = { s with hf := t.hf, islands := t.islands } ∧
        t.hf.log = s.hf.log ∧ t.hf.readings = some r ∧ t.hf.sampled = (s.now - s.hf.hftBase) / 130000 ∧
        ∀ i, i < 520 → t.island i = { s.island i with hot := false, temp := (r.hot[i]?).getD 0 }) ∧
      (∀ i, due → Nominal r → i < 520 → 105000 ≤ (r.hot[i]?).getD 0 → (r.hot[i]?).getD 0 < 118000 →
        (∀ j, j ≠ i → (r.hot[j]?).getD 0 < 105000) → (s.island i).hot = false →
        ∃ t, exec (.sensorSample r) s = .next t ∧ (t.island i).hot = true ∧ Logged t 0x01 i ((r.hot[i]?).getD 0)) ∧
      (due → cool → 48000 ≤ r.milliVolt → r.milliVolt ≤ 58000 → r.watt ≤ 3200 → r.inlet ≤ 45000 → r.flow < 3000 →
        (0x11, 0) ∉ s.hf.outside → ∃ t, exec (.sensorSample r) s = .next t ∧ (∀ d, d < 4 → (t.die d).heldReset = true) ∧
          Logged t 0x11 0 r.flow ∧ ∀ c, (s.ctx c).started = true → (t.ctx c).flooded = true)))) ∧
  ((∀ (s : State) (die : Nat), die < 4 → (s.die die).fenced = false →
     ∃ t, exec (.uncorrectableDieFault die) s = .next t ∧ (t.die die).fenced = true ∧
       t.electAt = some (s.electAt.getD s.now) ∧
       (∀ d, d < 4 → d ≠ die → (t.die d).fenced = (s.die d).fenced) ∧
       ∀ i : SlotId, i.core / 1024 = die → (t.slot i).status = .unowned) ∧
   (∀ (s : State) (d : Nat), s.electAt.isSome = true → d < 4 → (s.die d).fenced = false →
     (∀ e, e < d → (s.die e).fenced = true) →
     ∃ t, exec .masterWdElection s = .next t ∧ t.master = d ∧ t.electAt = none) ∧
   (∀ (s : State) (a b : Nat), (a, b) ∈ [(0, 1), (2, 3), (0, 2), (1, 3), (0, 4), (1, 4), (2, 4), (3, 4)] →
     (a, b) ∉ s.narrow → exec (.bridgeLaneFailure a b) s = .next { s with narrow := s.narrow ++ [(a, b)] } ∧
       exec (.bridgeLaneFailure b a) s = .next { s with narrow := s.narrow ++ [(a, b)] }))

/-- R25, R27, R31, R32, R53: a failed lane narrows a link or takes it down; a retrain ends at the widest width that the
lanes and marks leave; a link that goes down loses its flits and asks every flow routed through it for a replay; flits are
checked, ordered and acknowledged; packets are forwarded under the hop limit and discarded after 2 µs, also those that have
not been handed on; a counter read answers with its value and is cleared. The UNIT and DATA of the events are those of
notes/assumptions/36.md, the port that a packet came by that of 11.md, and the lanes and the retry count those of 15.md. -/
def Obligations.LinksCarryFlits : Prop :=
  (∀ (s : State) (p n : Nat), (s.port p).up = true → (s.port p).lanes = n →
    ∀ lane, lane < 8 → lane ∉ (s.port p).badLanes →
    (∀ m, (n, m) ∈ [(8, 4), (4, 2)] → ∃ t, exec (.laneFailure (8 * p + lane)) s = .next t ∧ (t.port p).lanes = m ∧
      (t.port p).training = true ∧ (t.port p).up = true ∧ (t.port p).badLanes = (s.port p).badLanes ++ [lane] ∧
      Logged t 0x03 p m) ∧
    (n = 2 → ∃ t, exec (.laneFailure (8 * p + lane)) s = .next t ∧ t.inflight = s.inflight ++ [.linkDown p])) ∧
  (∀ (s : State) (p w : Nat), (s.port p).up = true → (s.port p).training = true → w ∈ [8, 4, 2] →
    w ≤ (s.port p).lanes → w ≤ sound s p → (∀ v ∈ [8, 4, 2], v ≤ (s.port p).lanes → v ≤ sound s p → v ≤ w) →
    ∃ t, exec (.linkRetrainDone p) s = .next t ∧ (t.port p).lanes = w ∧ (t.port p).training = false) ∧
  (∀ (s : State) (p : Nat), (s.port p).up = true → ∃ t, exec (.linkDown p) s = .next t ∧ (t.port p).up = false ∧
    (t.port p).replay = [] ∧ (∀ x ∈ t.transit, x.port ≠ p) ∧ Logged t 0x02 p 0 ∧
    ∀ dst cls f, cls < 4 → tfind s.flowsOut (4 * dst + cls) = some f → (s.route dst f.rsel.toNat).1.toNat = p →
      (s.route dst f.rsel.toNat).2 = true → f.failed = false → (t.flowOut dst cls).wanted.isSome = true) ∧
  (∀ (s : State) (p : Nat) (f : Flit), (s.port p).up = true →
    (flitOk f = false → ∃ t, exec (.flitReceive p f) s = .next t ∧ counter t p 0 = bumped (counter s p 0) ∧
      (t.port p).rxSeq = (s.port p).rxSeq ∧ (t.port p).nakOut = some (s.port p).rxSeq ∧ t.inflight = s.inflight) ∧
    (flitOk f = true → flitSeq f ≠ (s.port p).rxSeq →
      let old : Prop := 128 ≤ (flitSeq f - (s.port p).rxSeq).toNat
      ∃ t, exec (.flitReceive p f) s = .next t ∧ (t.port p).rxSeq = (s.port p).rxSeq ∧ t.inflight = s.inflight ∧
        (old → (t.port p).ackOut = some ((s.port p).rxSeq - 1)) ∧ (¬old → (t.port p).nakOut = some (s.port p).rxSeq)) ∧
    (∀ k, flitOk f = true → flitCtl f = false → flitSeq f = (s.port p).rxSeq → flitHead f = true → flitTail f = true →
      k = pktParse (f.body.take 32) (f.body.drop 32) [] →
      (∀ e, k.dst = s.pkg → packetEvent p k = some e → ∃ t, exec (.flitReceive p f) s = .next t ∧
        (t.port p).rxSeq = (s.port p).rxSeq + 1 ∧ (t.port p).ackOut = some (s.port p).rxSeq ∧
        t.inflight = s.inflight ++ [e] ∧ t.arrivals = s.arrivals ++ [(k, p, s.now)]) ∧
      (k.dst ≠ s.pkg → ∃ t, exec (.flitReceive p f) s = .next t ∧ (t.port p).rxSeq = (s.port p).rxSeq + 1 ∧
        (t.port p).ackOut = some (s.port p).rxSeq ∧ t.inflight = s.inflight ++ [.packetForward k] ∧
        t.arrivals = s.arrivals ++ [(k, p, s.now)]))) ∧
  (∀ (s : State) (p : Nat) (q : BitVec 8) (f : Flit) (pre rest : List (BitVec 8 × Flit)), (s.port p).up = true →
    (s.port p).replay = pre ++ (q, f) :: rest → (∀ e ∈ pre, e.1 ≠ q) →
    (∃ t, exec (.linkNak p q) s = .next t ∧ (t.port p).replay = (q, f) :: rest ∧
      counter t p 1 = bumped (counter s p 1) ∧
      (pre = [] → 7 ≤ (s.port p).fails → t.inflight = s.inflight ++ [.linkDown p])) ∧
    (∃ t more, exec (.linkAck p q) s = .next t ∧ (t.port p).replay = rest ++ more ∧ (t.port p).fails = 0)) ∧
  (∀ (s : State) (k : Packet), k.dst ≠ s.pkg →
    (k.hops.toNat = 16 → ∃ t, exec (.packetForward k) s = .next t ∧ t.transit = s.transit ∧
      counter t (s.cameBy k).1 4 = bumped (counter s (s.cameBy k).1 4)) ∧
    (∀ port, k.hops.toNat ≠ 16 → s.route k.dst.toNat k.rsel.toNat = (port, true) → (s.port port.toNat).up = true →
      (s.port port.toNat).training = true →
      ∃ t, exec (.packetForward k) s = .next t ∧ ⟨{ k with hops := k.hops + 1 }, port.toNat, (s.cameBy k).2, none⟩ ∈ t.transit)) ∧
  (∀ (s : State) (n : Nat) (x : Transit), s.transit[n]? = some x → x.since + 2600 ≤ s.now →
    ∃ t, exec (.residencyLimit n) s = .next t ∧ t.transit = s.transit.eraseIdx n ∧
      counter t x.port 5 = bumped (counter s x.port 5)) ∧
  (∀ (s : State) (k : Packet) (port since n : Nat), s.transit.length ≤ n →
    s.arrivals[n - s.transit.length]? = some (k, port, since) → k.dst ≠ s.pkg → since + 2600 ≤ s.now →
    ∃ t, exec (.residencyLimit n) s = .next t ∧ t.arrivals = s.arrivals.erase (k, port, since) ∧
      t.inflight = s.inflight.erase (.packetForward k) ∧ counter t port 5 = bumped (counter s port 5)) ∧
  (∀ (s : State) (p n : Nat), n < 7 → ∃ t, exec (.counterReadClear p n) s = .next t ∧ counter t p n = 0 ∧
    t.reply = some (.data (toBytes (counter s p n).toNat 4) false) ∧
    ∀ m, m ≠ n → counter t p m = counter s p m)

namespace Sys2Proof.Claims
open Sys2Proof.Machine

/-- R35: a well-formed packet of a type that arrives at its destination as the next of its flow. -/
def InOrder (s : State) (p : Packet) (typ : Nat) : Prop :=
  let f := s.flowIn p.src.toNat p.cls.toNat
  p.typ.toNat = typ ∧ p.dst = s.pkg ∧ malformed p = false ∧ (p.gen - f.rgen).toNat < 128 ∧ p.seq = f.rnext ∧
    f.above = [] ∧ f.unacked < 31 ∧ Quiet s (.flow p.src.toNat p.cls.toNat)

/-- R35: the flow has moved past the packet. -/
def Delivered (s t : State) (p : Packet) : Prop :=
  (t.flowIn p.src.toNat p.cls.toNat).rnext = p.seq + 1 ∧
    (t.flowIn p.src.toNat p.cls.toNat).unacked = (s.flowIn p.src.toNat p.cls.toNat).unacked + 1

/-- The mark of a writer whose writes are not checked, and that is no engine (notes/assumptions/10.md). -/
def PlainMark (mark : List Byte) : Prop :=
  (w64 (fromBytes (mark.take 8))).getLsbD 63 = false ∧ (w64 (fromBytes (mark.take 8))).getLsbD 61 = false

/-- R38, R39: the response to a request is in the response cache: its value, cause 0, the flags, and the data. -/
def Responded (t : State) (p : Packet) (v : Word) (flags : Nat) (data : List Byte) : Prop :=
  ∃ r, tfind t.respCache (p.src.toNat * 256 + p.cslot.toNat) = some (p.seq, p.cls, r) ∧ r.typ = 0x10 ∧ r.dst = p.src ∧
    r.cslot = p.cslot ∧ r.aux = p.seq.setWidth 32 ∧ r.inl.take 10 = toBytes v.toNat 8 ++ [0, BitVec.ofNat 8 flags] ∧
    r.data = data

/-- An atomic of another package finds its target: the package's own, mapped, unfenced plain memory or a plain variable. -/
def RemoteTarget (s : State) (p : Packet) (c key : Nat) : Prop :=
  s.ctxOf p = some c ∧ (s.ctx c).flooded = false ∧ gaPkg p.addr.toNat = s.pkg.toNat ∧ s.coordOk c p.addr.toNat = true ∧
    (∃ var, s.atomicPlace c p.addr.toNat = .ok (key, var) ∧ ∀ v, var = some v → s.mode v = .plain) ∧
    s.fencedAt c p.addr.toNat = false ∧ PlainMark (p.inl.drop 24) ∧ memWf s.mem = true

end Sys2Proof.Claims

/-- R30, R35, R39, R42, R187, R356, R357: in flow order, a PUT sends its data to its address in units, a PUTSG its data and
behind it the signal word, a GET answers with the bytes read; AMO, CAS and FAMO perform their operation and answer with the old value,
RED and FRED perform theirs. R152: what comes for a flooded context writes nothing, and a GET is answered with zeros. Each
advances the flow by one. The layouts of the inline fields, the writer's mark and the response's are those of
notes/assumptions/10.md. -/
def Obligations.RequestPacketsPerformed : Prop :=
  ∀ (s : State) (p : Packet) (c key : Nat),
    let a := p.addr.toNat
    let n := p.aux.toNat
    let x := w64 (fromBytes (p.inl.take 8))
    let y := w64 (fromBytes ((p.inl.drop 8).take 8))
    let xs : Nat := x.toNat % 2 ^ 32
    let m8 := w64 (s.num key 8)
    let m4 : Nat := s.num key 4
    let fop := BitVec.ofNat 2 p.opc.toNat
    let fv := if fop = 0 then fAdd 24 0 m4 xs else fMinMax 24 (fop == 1) m4 xs
    let o : WriteOwner := .flow p.src.toNat p.cls.toNat
    (∀ ks, InOrder s p 0x01 → s.ctxOf p = some c → (s.ctx c).flooded = false → s.agentKeys c a true 0 n = .ok ks →
      (pktBytes p n).length = n → PlainMark (p.inl.drop 24) →
      ∃ t, exec (.put p) s = .next t ∧ Delivered s t p ∧ Sent s t o ks (pktBytes p n) ∧ t.signals = s.signals) ∧
    (∀ ks, InOrder s p 0x02 → s.ctxOf p = some c → (s.ctx c).flooded = false → s.agentKeys c a true 0 n = .ok ks →
      (pktBytes p n).length = n → PlainMark (p.inl.drop 17) →
      ∃ t e, exec (.packetPutsg p) s = .next t ∧ Delivered s t p ∧ Sent s t o ks (pktBytes p n) ∧
        t.signals = s.signals ++ [e] ∧ e.owner = o ∧ e.agent.ctx = c ∧ e.sop = p.opc.toNat ∧ e.sig = x.toNat ∧ e.value = y) ∧
    (∀ bs, InOrder s p 0x03 → (p.inl[0]?).getD 0 = 0 → s.ctxOf p = some c → (s.ctx c).flooded = false →
      s.agentRead c a n = .ok bs →
      ∃ t, exec (.get p) s = .next t ∧ Delivered s t p ∧ Responded t p 0 0 (dataFlits a bs) ∧ ∀ k, t.byte k = s.byte k) ∧
    (s.ctxOf p = some c → (s.ctx c).flooded = true →
      (InOrder s p 0x01 → ∃ t, exec (.put p) s = .next t ∧ Delivered s t p ∧ t.unitWrites = s.unitWrites ∧
        ∀ k, t.byte k = s.byte k) ∧
      (InOrder s p 0x02 → ∃ t, exec (.packetPutsg p) s = .next t ∧ Delivered s t p ∧ t.unitWrites = s.unitWrites ∧
        t.signals = s.signals ∧ ∀ k, t.byte k = s.byte k) ∧
      (InOrder s p 0x03 → (p.inl[0]?).getD 0 = 0 → ∃ t, exec (.get p) s = .next t ∧ Delivered s t p ∧
        Responded t p 0 0 (dataFlits a (List.replicate n 0)))) ∧
    (RemoteTarget s p c key →
      (InOrder s p 0x04 → ∃ t, exec (.packetAmo p) s = .next t ∧ Delivered s t p ∧ Responded t p m8 0 [] ∧
        WritesOnly s t key 8 (amoResult p.opc.toNat m8 x).toNat) ∧
      (InOrder s p 0x05 → ∃ t, exec (.packetCas p) s = .next t ∧ Delivered s t p ∧ Responded t p m8 0 [] ∧
        WritesOnly s t key 8 (if m8 = x then y else m8).toNat) ∧
      (InOrder s p 0x06 → ∃ t, exec (.packetRed p) s = .next t ∧ Delivered s t p ∧
        WritesOnly s t key 8 (amoResult p.opc.toNat m8 x).toNat) ∧
      (InOrder s p 0x07 → ∃ t, exec (.packetFamo p) s = .next t ∧ Delivered s t p ∧
        Responded t p (w64 m4) fv.2.bits [] ∧ WritesOnly s t key 4 fv.1) ∧
      (InOrder s p 0x08 → ∃ t, exec (.packetFred p) s = .next t ∧ Delivered s t p ∧ WritesOnly s t key 4 fv.1))


/-- R34, R35, R38, R39, R270: a response retires its request, frees the returning slot and gives a load its value or an
atomic its answer; an ACK retires the packets below its SEQ; a NAK does so too and sends the rest again now; an FLR
releases the cached responses below its FLOOR. The inline bytes of RSP and ACK are those of notes/assumptions/10.md. -/
def Obligations.ResponsesAndAcknowledgements : Prop :=
  (∀ (s : State) (p : Packet) (h : Held) (i : SlotId) (n cls : Nat), InOrder s p 0x10 → cls ≤ 1 →
    (s.flowOut p.src.toNat (1 - cls)).held = [] → s.lnchWaits = [] →
    (s.flowOut p.src.toNat cls).held.find? (fun x => isReturning x.p && x.p.cslot == p.cslot && x.p.seq.toNat == p.aux.toNat)
      = some h → h.who = some (i, n) → (p.inl[8]?).getD 0 = 0 →
    (∀ r, h.p.typ.toNat = 0x03 → (h.p.inl[0]?).getD 0 = 0 → (s.slot i).returns.find? (fun r => r.remote == some (h.p.dst.toNat, n)) = some r →
      i.slot < 8 → ∃ t, exec (.rsp p) s = .next t ∧ Delivered s t p ∧
        p.cslot.toNat ∉ tget t.retSlots [] p.src.toNat ∧
        (t.slot i).returns = (s.slot i).returns.map (fun x => if x = r then r.arrived p else x)) ∧
    (h.p.typ.toNat = 0x04 ∨ h.p.typ.toNat = 0x05 → (s.slot i).sent = true → i.slot < 8 → s.away i.core h.ctx = false →
      ∃ t r, exec (.rsp p) s = .next t ∧ Delivered s t p ∧ p.cslot.toNat ∉ tget t.retSlots [] p.src.toNat ∧
        (t.slot i).resume = some r ∧ r.value = w64 (fromBytes (p.inl.take 8)) ∧ r.err = none)) ∧
  (∀ (s : State) (p : Packet), p.typ.toNat = 0x11 → p.dst = s.pkg → malformed p = false →
    let cls := ((p.inl[0]?).getD 0).toNat % 4
    let f := s.flowOut p.src.toNat cls
    let q : BitVec 24 := p.aux.setWidth 24
    let below (x : BitVec 24) : Bool := 0 < (q - x).toNat && (q - x).toNat ≤ 2 ^ 23
    let left := f.held.filter (fun h => !h.retired && !(!isReturning h.p && below h.p.seq))
    f.failed = false → f.stalled = [] →
    (p.aux.getLsbD 31 = false → ∃ t, exec (.ack p) s = .next t ∧ (t.flowOut p.src.toNat cls).held = left ∧
      (below f.acked = true → (t.flowOut p.src.toNat cls).noProg = 0)) ∧
    (p.aux.getLsbD 31 = true → ∃ t, exec (.nak p) s = .next t ∧
      (t.flowOut p.src.toNat cls).held.map (fun h => h.p.seq) = left.map (fun h => h.p.seq) ∧
      (t.flowOut p.src.toNat cls).lastSent = s.now ∧
      ∀ h ∈ (t.flowOut p.src.toNat cls).held, (h.p.seq - q).toNat < 2 ^ 23 → h.sentAt = s.now)) ∧
  (∀ (s : State) (p : Packet), p.typ.toNat = 0x12 → p.dst = s.pkg → malformed p = false →
    let cls := ((p.inl[0]?).getD 0).toNat % 4
    ∃ t, exec (.flr p) s = .next t ∧ t.respCache = s.respCache.filter (fun e => !(e.1 / 256 == p.src.toNat &&
      e.2.2.1.toNat == cls && 0 < (p.floor - e.2.1).toNat && (p.floor - e.2.1).toNat ≤ 2 ^ 23)))

/-- R44, R45, R47 to R51: an offered range waits for its KCB, which is read in the launcher's package, and becomes a launch
of this package where its record passes R82; the second report of
a target ends its part; a child's contribution is buffered for its step; a result of the parent is sent to RESADDR
and its signal, behind it, to SIGADDR, and STEP advances; a step that times out fails, and STEP advances. The launch
identifier, with the level and the weight that it carries, and the wait for the KCB are those of notes/assumptions/12.md, the
signal word of an RDR that of 26.md, and what follows a failed step that of 53.md. -/
def Obligations.LaunchAndReductionPackets : Prop :=
  (∀ (s : State) (p : Packet) (c : Nat), InOrder s p 0x20 → s.ctxOf p = some c →
    (kcbPlaced (p.data.take 256) p.src.toNat = true → gaPkg (field (p.data.take 256) 8 8) ≠ s.pkg.toNat →
      s.coordOk c (field (p.data.take 256) 8 8) = true → s.flowFailed p.src.toNat 1 = false → (∀ w ∈ s.lnchWaits, w.pkt ≠ p) → tget s.retSlots [] p.src.toNat = [] →
      field (p.data.take 256) 0x90 8 = 0 →
      ∃ t w, exec (.lnch p) s = .next t ∧ Delivered s t p ∧ t.lnchWaits = s.lnchWaits ++ [w] ∧ w.pkt = p ∧ w.ctx = c ∧
        w.got = [] ∧ w.gets ≠ [] ∧ (t.ctx c).launches = (s.ctx c).launches)) ∧
  (∀ (s : State) (w : LnchWait),
    let p := w.pkt
    let c := w.ctx
    let r := p.data.take 256
    let k := recordCheck (s.lnchRead w) p.src.toNat r
    let lid := field p.inl 16 4
    (s.ctx c).started = true → (s.ctx c).flooded = false →
    k.bad = none → field k.kcb 8 4 ≤ 4 → (s.ctx c).launches.length < 256 → field r 0x88 4 = 0 → s.dealCores c ≠ [] →
    fitsIdle k.kcb = true → field p.inl 8 8 ≠ 0 →
    ∃ l, (s.lnchDecide w).launch c (firstGap (s.ctx c).launches 0) = some l ∧
      l.record = r ∧ l.first = field p.inl 0 8 ∧ l.count = field p.inl 8 8 ∧ l.level = max (byteAt r 4) (bits lid 13 12) ∧
      l.weight = max (bits lid 21 14) 1 ∧ l.remoteFrom = some (p.src.toNat, lid)) ∧
  (∀ (s : State) (p : Packet) (l : Launch) (x : Target), InOrder s p 0x21 →
    let lid := field p.inl 0 4
    let c := lid / 256 % 16
    let mine (x : Target) : Bool := x.pkg == p.src.toNat && x.first == field p.inl 8 8 && !(x.accepted == some 0)
    field p.inl 4 2 < 0x100 → s.launch c (lid % 256) = some l → l.remoteFrom = none → l.lid c (lid % 256) = lid →
    l.targets.find? mine = some x →
    (x.accepted.isSome = true → ∃ t l', exec (.rrpt p) s = .next t ∧ Delivered s t p ∧
      t.launch c (lid % 256) = some l' ∧ l'.targets = l.targets.map (fun y => if mine y then
        { y with ended := some (field p.inl 16 8, field p.inl 4 2 == 1) } else y)) ∧
    (x.accepted = none → (∃ y ∈ l.targets, mine y = false ∧ y.accepted = none) →
      ∃ t l', exec (.rrpt p) s = .next t ∧ Delivered s t p ∧ t.launch c (lid % 256) = some l' ∧
        l'.targets = l.targets.map (fun y => if mine y then { y with
          accepted := some (field p.inl 16 8)
          cores := field p.inl 24 2 + field p.inl 26 2 + field p.inl 28 2 + field p.inl 30 2 } else y))) ∧
  (∀ (s : State) (p : Packet) (port : Nat), InOrder s p 0x30 →
    let gi := p.aux.toNat % 256
    let g := s.group gi
    let room := gELEMS g.cfg * gResSize g.cfg - p.addr.toNat
    gVALID g.cfg = true → gOk g.cfg = true → port ∈ gKids g.cfg → bits p.aux.toNat 23 8 = gSTEP g.cfg →
    g.cur.kids = [] → gOWN g.cfg = true → g.cur.ownDone = false → s.childLost g.cfg = false →
    (∀ e, s.ctxs.find? (fun e => e.2.dctx == p.dctx) = some e → (s.ctx e.1).flooded = false) →
    ∃ t x, exec (.rdc port p) s = .next t ∧ Delivered s t p ∧ (t.group gi).cur.started = true ∧
      (t.group gi).cur.kids = [x] ∧ x.1 = port ∧
      x.2.1 = (cellsOf p.addr.toNat (p.data.take (min 512 room))).foldl (fun w c => tset w c.1 c.2) []) ∧
  (∀ (s : State) (p : Packet) (ks kg : List Nat), InOrder s p 0x31 →
    let gi := p.aux.toNat % 256
    let g := s.group gi
    let total := gELEMS g.cfg * gResSize g.cfg
    let c := ((s.ctxs.find? (fun e => e.2.dctx == p.dctx)).map Prod.fst).getD g.cur.ctx
    gVALID g.cfg = true → gROOT g.cfg = false → gOk g.cfg = true → bits p.aux.toNat 23 8 = gSTEP g.cfg →
    (fromBytes (p.inl.take 8)) / 2 ^ 31 % 2 = 0 → p.addr = 0 → total ≤ 512 → total ≤ p.data.length →
    g.nxt = RedStep.empty → bits p.aux.toNat 24 24 = 0 → (s.ctx c).flooded = false →
    s.agentKeys c (gRESADDR g.cfg) true 0 total = .ok ks → s.agentKeys c (gSIGADDR g.cfg) true 0 8 = .ok kg →
    ∃ t, exec (.rdr p) s = .next t ∧ Delivered s t p ∧
      Sent s t (.flow p.src.toNat p.cls.toNat) (ks ++ kg) (p.data.take total ++ toBytes (fromBytes (p.inl.take 8)) 8) ∧
      gSTEP (t.group gi).cfg = (gSTEP g.cfg + 1) % 65536) ∧
  (∀ (s : State) (gi : Nat),
    let g := s.group gi
    gVALID g.cfg = true → gOk g.cfg = true → g.cur.started = true → g.cur.sentUp = false → redComplete g.cfg g.cur = false →
    s.redto ≤ s.now - g.cur.since → g.nxt = RedStep.empty →
    ∃ t e, exec (.reductionTimeout gi) s = .next t ∧ t.hf.log.getLast? = some e ∧ e.code = 0x08 ∧
      gSTEP (t.group gi).cfg = (gSTEP g.cfg + 1) % 65536 ∧ (t.group gi).cur = RedStep.empty)

/-- R34, R35, R37, R41: a due ACK leaves with RNEXT; a due FLR with FLOOR; a flow whose oldest packet is 20 µs old, or
whose replay is asked for, wants an advance at MAX(now, LASTADV + 64 µs); at that time GEN and NOPROG go up by one, or
the flow fails if NOPROG is 8; a reset makes a failed source, or else a receiver, as new. The class in inline byte 0 is that of
notes/assumptions/10.md; LASTADV 0 as none yet, and which end a reset acts on, are those of 37.md. -/
def Obligations.FlowTimersAndReplay : Prop :=
  ∀ (s : State) (n cls : Nat),
    let f := s.flowOut n cls
    let r := s.flowIn n cls
    let want := if f.lastAdv = 0 then s.now else max s.now (f.lastAdv + 83200)
    (n < 256 → cls < 4 → r.unacked ≠ 0 → Quiet s (.flow n cls) → ∃ p t, p.typ = 0x11 ∧ p.dst.toNat = n ∧ p.aux = r.rnext.setWidth 32 ∧
      p.inl.headD 0 = BitVec.ofNat 8 cls ∧ exec (.ackTimer n cls) s = .next t ∧
      t = (s.setFlowIn n cls { r with unacked := 0 }).transmit p ∧ (t.flowIn n cls).unacked = 0) ∧
    (n < 256 → f.failed = false → f.floor ≠ f.floorSent → f.lastSent + 10400 ≤ s.now →
      ∃ p t, p.typ = 0x12 ∧ p.dst.toNat = n ∧ p.floor = f.floor ∧ exec (.flrTimer n cls) s = .next t ∧
        t = (s.setFlowOut n cls { f with lastSent := s.now, floorSent := f.floor }).transmit p ∧
        (t.flowOut n cls).floorSent = f.floor) ∧
    (∀ h rest, f.failed = false → f.wanted = none → f.held = h :: rest → h.sentAt + 26000 ≤ s.now →
      exec (.replayTimeout n cls) s = .next (s.setFlowOut n cls { f with wanted := some want })) ∧
    (f.failed = false → f.wanted = none →
      exec (.replayRequest n cls) s = .next (s.setFlowOut n cls { f with wanted := some want })) ∧
    (∀ at_, f.failed = false → f.wanted = some at_ → at_ ≤ s.now →
      (f.noProg ≠ 8 → ∃ t, exec (.generationAdvance n cls) s = .next t ∧ (t.flowOut n cls).gen = f.gen + 1 ∧
        (t.flowOut n cls).noProg = f.noProg + 1 ∧ (t.flowOut n cls).lastAdv = s.now ∧
        (t.flowOut n cls).wanted = none ∧ ∀ h ∈ (t.flowOut n cls).held, h.retired = false →
          (h.p.seq - f.floor).toNat < 2 ^ 23 → h.p.gen = f.gen + 1) ∧
      (f.noProg = 8 → ∃ t, exec (.generationAdvance n cls) s = .next t ∧ (t.flowOut n cls).failed = true)) ∧
    (f.failed = true → ∃ t, exec (.flowReset n cls) s = .next t ∧ t.flowOut n cls = FlowSrc.reset) ∧
    (f.failed = false → ∃ t, exec (.flowReset n cls) s = .next t ∧ t.flowIn n cls = FlowDst.reset)

namespace Sys2Proof.Claims
open Sys2Proof.Machine

/-- R58: a queue whose packet is done: HEAD has advanced; a bad TAIL write during the packet has stopped it. -/
def Past (s t : State) (c q : Nat) (u : Queue) : Prop :=
  ∃ v, t.queue c q = some v ∧ v.packet = none ∧ v.head = BitVec.ofNat 16 ((u.head.toNat + 1) % u.size) ∧ v.tail = u.tail ∧
    v.err = (u.err || u.badTail) ∧ s.queue c q = some u

/-- R58: a queue stopped by a code, with HEAD where it was. -/
def StoppedBy (t : State) (c q code : Nat) (u : Queue) : Prop :=
  ∃ v, t.queue c q = some v ∧ v.err = true ∧ v.ecode = BitVec.ofNat 8 code ∧ v.head = u.head ∧ v.packet = none

/-- A queue at work on a packet of a type (R58, R59). -/
def AtWork (s : State) (c q typ : Nat) (u : Queue) (p : List Byte) : Prop :=
  s.queue c q = some u ∧ u.packet = some p ∧ byteAt p 0 = typ ∧ u.err = false

end Sys2Proof.Claims


/-- R54, R55: a host write within one line of an existing core's BM changes those bytes and no other; to a line that reads
as poison it is dropped and logged; a read answers with the bytes, or
with poison. R57 to R59: a queue is configured empty; a TAIL below its size
becomes TAIL, one beyond stops it with BADTAIL, at once or when its packet is done; a 1 written to STAT.ERR clears it and
leaves ECODE; a due fetch reads the packet at HEAD, and stops the queue with BADTYPE, BADARG or XLATE where the packet is
wrong or unreadable. HOSTPOISON's UNIT and DATA are those of notes/assumptions/36.md, and a queue's base is the hardware offset
of 38.md. -/
def Obligations.HostMemoryAndDoorbells : Prop :=
  (∀ (s : State) (a : Nat) (bs : List Byte), a < 2 ^ 39 → a % 64 + bs.length ≤ 64 → bs ≠ [] →
     (s.poisoned a = false → exec (.hostMemAccess false a bs) s = .next { s with
       reply := some (.data (s.bytes (pa spBM (hdmCore a) (hdmOff a)) bs.length) false) }) ∧
     (s.poisoned a = true → exec (.hostMemAccess false a bs) s = .next { s with reply := some (.data [] true) }) ∧
     (s.poisoned a = false → memWf s.mem = true → ∃ t, exec (.hostMemAccess true a bs) s = .next t ∧
       WritesOnly s t (pa spBM (hdmCore a) (hdmOff a)) bs.length (fromBytes bs) ∧ t.cores = s.cores) ∧
     (s.poisoned a = true → ∃ t, exec (.hostMemAccess true a bs) s = .next t ∧ (∀ k, t.byte k = s.byte k) ∧
       Logged t 0x0A (hdmCore a % 1024) a)) ∧
  (∀ (s : State) (c q : Nat),
     (∀ base k, c < 16 → q < 64 → 4 ≤ k → k ≤ 16 → ∃ t u, exec (.queueConfigure c q base k) s = .next t ∧
       t.queue c q = some u ∧ u.run = true ∧ u.base = base ∧ u.size = 2 ^ k ∧ u.head = 0 ∧ u.tail = 0 ∧ u.ecode = 0 ∧
       u.err = false ∧ u.packet = none) ∧
     (∀ u, s.queue c q = some u →
       (∀ v : BitVec 32, v.toNat % 65536 < u.size → ∃ t, exec (.tail c q v) s = .next t ∧
         t.queue c q = some { u with tail := v.setWidth 16 }) ∧
       (∀ v : BitVec 32, u.size ≤ v.toNat % 65536 → u.packet = none → ∃ t, exec (.tail c q v) s = .next t ∧
         StoppedBy t c q 3 u) ∧
       (∀ v : BitVec 32, u.size ≤ v.toNat % 65536 → u.packet.isSome = true → ∃ t, exec (.tail c q v) s = .next t ∧
         t.queue c q = some { u with badTail := true }) ∧
       (∀ v : BitVec 32, v.getLsbD 1 = true → ∃ t, exec (.err c q v) s = .next t ∧
         t.queue c q = some { u with err := false }) ∧
       ((s.ctx c).started = true → u.run = true → u.err = false → u.packet = none → u.head ≠ u.tail →
         let at_ := gaOf s.pkg.toNat 0 spHW (u.base + 64 * u.head.toNat)
         (∀ p m n, s.agentRead c at_ 64 = .ok p → pkUses (byteAt p 0) = some (m, n) → pkZeros p m n = true →
           ∃ t, exec (.packetFetch c q) s = .next t ∧ t.queue c q = some { u with packet := some p, lastRead := none }) ∧
         (∀ p, s.agentRead c at_ 64 = .ok p → byteAt p 0 = 0 ∨ 7 < byteAt p 0 →
           ∃ t, exec (.packetFetch c q) s = .next t ∧ StoppedBy t c q 1 u) ∧
         (∀ p m n, s.agentRead c at_ 64 = .ok p → pkUses (byteAt p 0) = some (m, n) → pkZeros p m n = false →
           ∃ t, exec (.packetFetch c q) s = .next t ∧ StoppedBy t c q 2 u) ∧
         (∀ e, s.agentRead c at_ 64 = .error e → ∃ t, exec (.packetFetch c q) s = .next t ∧ StoppedBy t c q 4 u))))

/-- R60 to R62, R82: LAUNCH begins the kernel of a record that passes R82; WAITW goes on once the masked word compares
true and else keeps the packet, read again by its re-read; SIGW writes its word; SETDET, with none of the queue's kernels
running, sets the level, SETWT the weight. Each that is done advances HEAD; bad operands stop the queue with BADARG. The
operands lie in the own package, and what a record needs of another one has come. -/
def Obligations.QueuePacketsPerformed : Prop :=
  ∀ (s : State) (c q : Nat) (u : Queue) (p : List Byte),
    let a := field p 8 8
    let word := [0, 6].contains (gaSpace a)
    let fromWord (bs : List Byte) : Nat := fromBytes bs &&& field p 24 8
    let value : Nat := field p 16 8 &&& field p 24 8
    let cond := byteAt p 1 % 4
    let holds (x : Nat) : Prop := (cond = 0 ∧ x = value) ∨ (cond = 1 ∧ x ≠ value) ∨ (cond = 2 ∧ value ≤ x)
    (∀ r, AtWork s c q 1 u p → a % 256 = 0 → word = true → gaPkg a = s.pkg.toNat → s.agentRead c a 256 = .ok r →
      s.wdNext (.queue c q) c ((a, 256) :: roleNeeds (s.wdSee (.queue c q) c) r) = none →
      let k := s.checkRecord (.queue c q) c r
      (k.bad = none → field k.kcb 8 4 ≤ 4 → (s.ctx c).launches.length < 256 → field r 0x88 4 = 0 → s.dealCores c ≠ [] →
        fitsIdle k.kcb = true → ∃ t l, exec (.launchPacket c q) s = .next t ∧ Past s t c q u ∧
          t.launch c (firstGap (s.ctx c).launches 0) = some l ∧ l.record = r ∧ l.host = some (c, q)) ∧
      (∀ o, k.bad = some o → k.unread = false → ∃ t, exec (.launchPacket c q) s = .next t ∧ StoppedBy t c q 2 u)) ∧
    (∀ i r bs, (i = .waitw c q ∧ u.lastRead = none) ∨ (i = .waitwReread c q ∧ u.lastRead ≠ none) → AtWork s c q 2 u p →
      a % 8 = 0 → word = true → cond ≠ 3 → gaPkg a = s.pkg.toNat → (s.wdOf (.queue c q) c).gets = [] →
      s.agentRead c a 8 = .ok bs → r = fromWord bs →
      (holds r → ∃ t, exec i s = .next t ∧ Past s t c q u) ∧
      (¬holds r → ∃ t, exec i s = .next t ∧ t.queue c q = some { u with lastRead := some s.now })) ∧
    (∀ ks, AtWork s c q 3 u p → a % 8 = 0 → word = true → gaPkg a = s.pkg.toNat → s.agentKeys c a true 0 8 = .ok ks → ks.Nodup →
      (∀ k ∈ ks, hasFull k = false) → (s.ctx c).flooded = false → memWf s.mem = true →
      ∃ t, exec (.sigw c q) s = .next t ∧ Past s t c q u ∧ Puts s t ks (toBytes (field p 16 8) 8)) ∧
    (AtWork s c q 4 u p → byteAt p 1 ≤ 2 → s.queueRuns c q = false → ∃ t v, exec (.setdet c q) s = .next t ∧
      Past s t c q u ∧ t.queue c q = some v ∧ v.level = byteAt p 1) ∧
    (AtWork s c q 5 u p → byteAt p 1 ≠ 0 → ∃ t v, exec (.setwt c q) s = .next t ∧ Past s t c q u ∧
      t.queue c q = some v ∧ v.weight = byteAt p 1) ∧
    (AtWork s c q 4 u p → 2 < byteAt p 1 → ∃ t, exec (.setdet c q) s = .next t ∧ StoppedBy t c q 2 u) ∧
    (AtWork s c q 5 u p → byteAt p 1 = 0 → ∃ t, exec (.setwt c q) s = .next t ∧ StoppedBy t c q 2 u)

/-- R69, R70, R396, R63, R390, R149: ALOAD of an image that no share key joins opens it under the next handle; ASEAL with
more references open closes one, and the last without a sealed image closes the image. A finished launch of the package
gets its completion word, with the count of its ended tasks, and its number is free. CONS advances up to PROD. -/
def Obligations.AssayImagesAndCompletion : Prop :=
  (∀ (s : State) (c q : Nat) (u : Queue) (p d : List Byte) (hk ks : List Nat), AtWork s c q 6 u p →
    s.descriptor c (field p 8 8) = .ok d → s.agentKeys c (gaSum (field p 8 8) 12) true 0 4 = .ok hk →
    field d 32 16 = 0 → field d 16 8 = 0 → s.nextHandle < 2 ^ 32 →
    s.agentKeys c (field d 0 8) true 0 (16 * field d 8 4) = .ok ks →
    ∃ t img, exec (.aload c q) s = .next t ∧ Past s t c q u ∧ tfind t.images s.nextHandle = some img ∧
      img.slots = field d 8 4 ∧ img.refs = [c] ∧ t.nextHandle = s.nextHandle + 1) ∧
  (∀ (s : State) (c q : Nat) (u : Queue) (p d : List Byte) (img : AssayImage), AtWork s c q 7 u p →
    s.descriptor c (field p 8 8) = .ok d → tfind s.images (field d 12 4) = some img → s.queueChainRuns c q = false →
    s.imageInUse (field d 12 4) = false →
    (∀ r r' rest, img.refs = r :: r' :: rest → ∃ t i', exec (.aseal c q) s = .next t ∧ Past s t c q u ∧
      tfind t.images (field d 12 4) = some i' ∧ i'.refs.length + 1 = img.refs.length) ∧
    (∀ r, img.refs = [r] → field d 16 8 = 0 → ∃ t, exec (.aseal c q) s = .next t ∧ Past s t c q u ∧
      tfind t.images (field d 12 4) = none)) ∧
  (∀ (s : State) (c n : Nat) (l : Launch) (ks : List Nat), s.launch c n = some l → s.launchDone c n l = true →
    l.targets = [] → l.remoteFrom = none → gaPkg (field l.record 0x78 8) = s.pkg.toNat →
    s.agentKeys c (field l.record 0x78 8) true 0 8 = .ok ks → ks.Nodup →
    l.tends.length < 2 ^ 32 → memWf s.mem = true →
    ∃ t, exec (.completionWordWrite c n) s = .next t ∧ t.launch c n = none ∧
      Puts s t ks (toBytes ((if l.partialEnd then 2 else 1) + 2 ^ 32 * l.tends.length) 8)) ∧
  (∀ (s : State) (v : BitVec 32),
    (∀ c, c < 16 → (v - (s.ctx c).faults.cons).toNat ≤ ((s.ctx c).faults.prod - (s.ctx c).faults.cons).toNat →
      ∃ t, exec (.consWrite (some c) v) s = .next t ∧ (t.ctx c).faults = { (s.ctx c).faults with cons := v }) ∧
    ((v - s.tailings.cons).toNat ≤ (s.tailings.prod - s.tailings.cons).toNat →
      exec (.consWrite none v) s = .next { s with tailings := { s.tailings with cons := v } }) ∧
    ((s.tailings.prod - s.tailings.cons).toNat < (v - s.tailings.cons).toNat → exec (.consWrite none v) s = .next s))

/-- R74 to R76, R79, R80: AGEING_MEASURE, once in every 10 s, sets an octet's ceiling from its loss below 3, 5 or 7
per cent; a corrected error, of a lane one above a million symbols in a second, fills its bucket and sets the mark at 64, 32
or 128, and a leak takes one away every hour or 10 min; a start in which every step succeeds leaves
the module running with die 0 as master, its journal row and all of memory as it was, and one whose first step fails holds
the dies and asks for another; the journal clears. That a full bucket keeps counting, that no die is fenced any more after a
start and that memory is kept over it are the choices of notes/assumptions/45.md and 3.md; the rows of the journal and AGEING's
DATA are those of 45.md and 36.md. -/
def Obligations.HeadframeAgesMarksAndStarts : Prop :=
  (∀ (s : State) (o count n : Nat),
    let v := s.island o
    let b : Int := Config.birthCount o v.step
    let loss : Int := 100 * (b - count)
    let interval := (s.now - s.hf.hftBase) / 13000000000
    o < 512 → v.relock = none →
    (interval ≤ v.measured → exec (.ageingMeasure o count) s = .next s) ∧
    (v.measured < interval →
    (n = 13 ∧ loss < 3 * b ∨ n = 12 ∧ 3 * b ≤ loss ∧ loss < 5 * b ∨ n = 11 ∧ 5 * b ≤ loss ∧ loss < 7 * b ∨
      n = 9 ∧ 7 * b ≤ loss) →
    ∃ t, exec (.ageingMeasure o count) s = .next t ∧ (t.island o).ceiling = min v.ceiling n ∧
      (t.island o).measured = interval ∧
      (n = 13 → t.hf.log = s.hf.log) ∧ (n = 11 ∨ n = 12 → Logged t 0x0C o count) ∧
      (n = 9 → ∀ c ∈ octetCores o, Mark.core c ∈ t.hf.marks) ∧
      (t.island o).relock.map Prod.fst = if min v.ceiling n < v.step then some (min v.ceiling n) else none)) ∧
  (∀ (s : State) (b : Bucket) (core : Nat), bucketExists b = true →
    let n := s.bucket b
    let counts : Prop := ∀ p l, b = .lane p l → 1000000 ≤ symbols s b
    ∃ t, exec (.correctedError b core) s = .next t ∧
      (counts → t.bucket b = min (n + 1) 65535 ∧
        (∀ c k, b = .bank c k → n = 63 → Mark.core c ∈ t.hf.marks) ∧
        (∀ p l, b = .lane p l → n = 31 → Mark.lane p l ∈ t.hf.marks) ∧
        (∀ o, b = .cluster o → n = 127 → ∃ c ∈ octetCores o, Mark.core c ∈ t.hf.marks)) ∧
      (¬counts → t.bucket b = n) ∧ (¬counts ∨ n < 31 → t.hf.marks = s.hf.marks)) ∧
  (∀ (s : State) (b : Bucket) (v u : Nat),
    let leak := match b with | .lane _ _ => 780000000000 | _ => 4680000000000
    s.bucketAt b = some (v, u) →
    (u < (s.now - s.hf.hftBase) / leak → ∃ t, exec (.bucketLeak b) s = .next t ∧ t.bucket b = v - 1 ∧
      ∀ c, c ≠ b → t.bucket c = s.bucket c) ∧
    ((s.now - s.hf.hftBase) / leak ≤ u → exec (.bucketLeak b) s = .next s)) ∧
  (∀ (s : State) (b : BootInput), s.hf.boot = [] →
    (b.normalFails = [] → memWf s.mem = true → ∃ t, exec (.moduleStart b) s = .next t ∧ t.halted = false ∧ t.master = 0 ∧
      (∀ d, d < 4 → (t.die d).heldReset = false ∧ (t.die d).fenced = false) ∧
      t.hf.journal.getLast? = some (bootUnits.map (fun u => (u.1, u.2, 0, 0)) ++ [(6, 0, 0, 0)]) ∧
      (∀ p w, p < 16 → w ∈ [8, 4, 2] → w ≤ unmarked s p → (∀ v ∈ [8, 4, 2], v ≤ unmarked s p → v ≤ w) →
        (t.port p).up = true ∧ (t.port p).lanes = w) ∧
      ∀ k, t.byte k = s.byte k) ∧
    (b.normalFails = [(0, 0)] → ∃ t, exec (.moduleStart b) s = .next t ∧ t.hf.wantStart = true ∧ (∀ d, d < 4 → (t.die d).heldReset = true) ∧
      t.hf.boot = [(0, 0, ⟨true, false, 0⟩)] ∧ t.hf.journal.getLast? = some [(0, 0, 0, 1)])) ∧
  (∀ s : State, exec .journalClear s = .next { s with hf := { s.hf with journal := [], boot := [] } })


/-- R77, R78: an update begins when none is under way and is else refused as BUSY; a verified image becomes pending in the slot that is not active, and
one whose signature fails or whose version is below the floor makes it invalid, with an UPDATE event; a tenant key is
written while its context is not started and nothing is sealed under the old one; an open assay handle or saved state of the
context, started or not, refuses it as BUSY, and a started context without either keeps its key. R108, R163, R350: a context
starts on each of its cores that is free and waits for the others, and the variables of its dies that no other running context
has in a mode are PLAIN (notes/assumptions/56.md). R166: a map entry is written without its reserved bits, and no other. Each
mailbox write sets the register of the rule that Mailbox names, and leaves the rest of the machine. The numbers of the log's and
the journal's entries are those of notes/assumptions/36.md. -/
def Obligations.MailboxServesSystemSoftware : Prop :=
  ((∀ s : State,
     (s.hf.updating = false → exec (.update .begin) s
       = .next { s with hf := { s.hf with updating := true }, reply := some .ok }) ∧
     (s.hf.updating = true → exec (.update .begin) s = .next { s with reply := some .busy })) ∧
   (∀ (s : State) (i a x : Image) (st r : SlotState), s.hf.updating = true → st ≠ .active →
     (r = .pending ∧ Config.signatureOk i.bytes = true ∧ s.hf.floor.toNat ≤ i.version.toNat ∨
       r = .invalid ∧ (Config.signatureOk i.bytes = false ∨ i.version.toNat < s.hf.floor.toNat)) →
     (s.hf.firmware = [(.active, a), (st, x)] → ∃ t, exec (.update (.finish i)) s = .next t ∧ t.hf.updating = false ∧
       t.hf.firmware = [(.active, a), (r, i)] ∧ (r = .invalid → ∃ e, t.hf.log.getLast? = some e ∧ e.code = 0x0E)) ∧
     (s.hf.firmware = [(st, x), (.active, a)] → ∃ t, exec (.update (.finish i)) s = .next t ∧ t.hf.updating = false ∧
       t.hf.firmware = [(r, i), (.active, a)] ∧ (r = .invalid → ∃ e, t.hf.log.getLast? = some e ∧ e.code = 0x0E))) ∧
   (∀ (s : State) (c : Nat) (key : BitVec 256), c < 16 →
     let handle : Prop := ∃ e ∈ s.images, c ∈ e.2.refs
     let saved : Prop := ∃ e ∈ s.cores, ∃ v, tfind e.2.saved c = some v ∧ v.slots ≠ []
     (¬handle → ¬saved → (s.ctx c).started = false → ∃ t, exec (.tenantKeyWrite c key) s = .next t ∧
       (t.ctx c).key = key ∧ t.reply = some .ok ∧ ∀ d, d ≠ c → t.ctx d = s.ctx d) ∧
     (handle ∨ saved → exec (.tenantKeyWrite c key) s = .next { s with reply := some .busy }) ∧
     (¬handle → ¬saved → (s.ctx c).started = true → exec (.tenantKeyWrite c key) s = .next s))) ∧
  ((∀ (s : State) (c : Nat), c < 16 → (s.ctx c).started = false → s.hf.marks = [] →
     ∃ t, exec (.contextStart c) s = .next t ∧ (t.ctx c).started = true ∧
       (∀ d v, d < 4 → (s.ctx c).hasWin d = true →
         (∀ k, tfind (s.die ((s.ctx c).physDie d)).modeBy v = some k → k ≠ c → (s.ctx k).started = false) →
         t.mode ⟨(s.ctx c).physDie d, v⟩ = .plain) ∧
       ∀ k ∈ (s.ctx c).enabled.filterMap (s.ctx c).phys,
         (s.vacant k = true → (t.core k).tenant.toNat = c ∧ (t.core k).role = 0 ∧
           (t.core k).preemptdl = (s.ctx c).preemptdl ∧ (t.core k).recastwait = (s.ctx c).recastwait) ∧
         (s.vacant k = false → (t.core k).tenant = (s.core k).tenant ∧ (tfind (t.core k).saved c).isSome = true)) ∧
   (∀ (s : State) (core c idx : Nat) (e : BitVec 32), core < 4096 → c < 16 → idx < 64 →
     ∃ t, exec (.mapEntryWrite core c idx e) s = .next t ∧
       tget (t.core core).pageMap 0 (64 * c + idx) = e &&& 0x87FFFFFF ∧
       (∀ n, n ≠ 64 * c + idx → tget (t.core core).pageMap 0 n = tget (s.core core).pageMap 0 n) ∧
       (∀ d, d ≠ core → (t.core d).pageMap = (s.core d).pageMap) ∧ ∀ k, t.byte k = s.byte k) ∧
   (∀ (s : State) (m : Mailbox),
     let done (t : State) : Prop := exec (.mailboxWrite m) s = .next t
     let ctx (c : Nat) (v : Ctx) : Prop := c < 16 → done (s.setCtx c v)
     match m with
     | .packageNumber n => done { s with pkg := n }
     | .coreTable c d i e => d < 4 → i < 1024 → ctx c { s.ctx c with cte := tset (s.ctx c).cte (1024 * d + i) (e &&& 0x8FFF) }
     | .window c d w => d < 4 → ctx c { s.ctx c with win := tset (s.ctx c).win d (w &&& 0x3F3F) }
     | .hostWindow c base limit => base % 4096 = 0 → ctx c { s.ctx c with hostBase := base, hostLimit := limit }
     | .reach c map => ctx c { s.ctx c with reach := map }
     | .domain c d => ctx c { s.ctx c with dctx := d }
     | .contextWaits c p r => ctx c { s.ctx c with preemptdl := p, recastwait := r }
     | .faultRing (some c) base => ctx c { s.ctx c with faults := ⟨base, true, 0, 0, (s.ctx c).faults.dropped⟩ }
     | .faultRing none base => done { s with tailings := ⟨base, true, 0, 0, s.tailings.dropped⟩ }
     | .saveArea c off => ctx c { s.ctx c with saveOff := off }
     | .debugArm c b => ctx c { s.ctx c with debugArm := b }
     | .releaseCheck c b => ctx c { s.ctx c with releaseCheck := b }
     | .overflow d base novf nmail => d < 4 → nmail ≤ 65536 →
       done (s.setDie d { s.die d with ovfBase := base, novf := novf, nmail := nmail })
     | .route dst r port valid => dst < 256 → r < 8 → done { s with routes := tset s.routes (dst * 8 + r) (port, valid) }
     | .group g cfg => g < 256 → ∃ t, done t ∧ (t.group g).cur = RedStep.empty ∧ (t.group g).nxt = RedStep.empty ∧
       (∀ n, (t.group g).cfg.getLsbD n = (cfg.getLsbD n && !(12 ≤ n && n < 16) && !(56 ≤ n && n < 64) && !(80 ≤ n && n < 128))) ∧
       ∀ h, h ≠ g → t.group h = s.group h
     | .redto n => done { s with redto := n }
     | .readLog n => done { s with reply := some (.data ((s.hf.log[n]?.map LogEntry.bytes).getD []) false) }
     | .readJournal n => done { s with reply := some (.data ((s.hf.journal[n]?.map journalBytes).getD []) false) }))


/-- R104, R201: a returning value that is known and whose latency has passed is written to its register, its flags join
FSTAT, and a slot that only waits for its registers goes on with the last. R290: the SFU takes its head request at most
every 4 cycles, its result is due 24 cycles on and is written then. R139, R106: a trap that waits is taken once nothing is
returning and no chunk is left. R144, R151: an uncorrectable error seals the core, or in SY
space floods the context. R153: a wait past WAITLIM leaves its queue
and traps. R103: the missing lines of a slot arrive. R143: a slot halted in debug resumes at XPC. That the cache holds 256
lines, of which the oldest leave, is notes/assumptions/5.md, and that the slot resumes at XPC is 19.md. -/
def Obligations.SlotEventsHappen : Prop :=
  ∀ (s : State) (i : SlotId), i.slot < 8 →
    let m := s.slot i
    let c := s.core i.core
    (∀ n r v, m.returns[n]? = some r → r.value = some v → r.sfu = false → (∀ d, r.due = some d → d ≤ c.cyc.toNat) →
      r.assay = none → r.marksBrv = false → r.bereaved = none →
      ∃ t, exec (.returningWrite i n) s = .next t ∧ (t.slot i).returns = m.returns.erase r ∧
        (∀ a, r.reg.toNat = codeG a → (t.slot i).arch = { m.arch.setG a v with fstat := m.arch.fstat ||| r.flags }) ∧
        (∀ a, r.reg.toNat = codeF a →
          (t.slot i).arch = { m.arch.setF a (v.setWidth 32) with fstat := m.arch.fstat ||| r.flags }) ∧
        (∀ k, r.reg.toNat = codeK k → (t.slot i).arch = { m.arch.setK k v with fstat := m.arch.fstat ||| r.flags }) ∧
        (∀ w, m.returns = [r] → m.status = .parked → m.wait = some w → w.regs = true → (t.slot i).status = .ready) ∧
        (∀ j, j ≠ i → t.slot j = s.slot j) ∧ ∀ k, t.byte k = s.byte k) ∧
    (∀ r rest, c.sfuQ = r :: rest → c.sfuNext ≤ c.cyc.toNat →
      exec (.sfuTake i.core) s = .next (s.setCore i.core { c with
        sfuQ := rest, sfuRun := c.sfuRun ++ [(r, c.cyc.toNat + 24)], sfuNext := c.cyc.toNat + 4 })) ∧
    (∀ r due x, c.sfuRun.find? (fun e => e.2 ≤ c.cyc.toNat) = some (r, due) → r.dropped = false → r.slot = i.slot →
      m.returns.find? (fun e => e.sfu && e.reg.toNat == codeF r.dest) = some x → x.marksBrv = false → x.bereaved = none →
      ∃ t, exec (.sfuResult i.core) s = .next t ∧ (t.core i.core).sfuRun = c.sfuRun.erase (r, due) ∧
        (t.slot i).arch = withFlags (m.arch.setF r.dest (sfuValue r).1) (sfuValue r).2 ∧
        (∀ j, j ≠ i → t.slot j = s.slot j) ∧ ∀ k, t.byte k = s.byte k) ∧
    (∀ cause v pc, m.status = .trapping → m.trap = some (cause, v, pc) → s.partner i = none →
      (m.returns = [] → m.chunks = [] → m.arch.xvec ≠ 0 → m.arch.trapped = false →
        ∃ t, exec (.trapEntry i) s = .next t ∧ (t.slot i).arch = trapArch m.arch cause v pc ∧
          (t.slot i).status = .ready ∧ (∀ j, j ≠ i → t.slot j = s.slot j) ∧ ∀ k, t.byte k = s.byte k) ∧
      (m.returns ≠ [] ∨ m.chunks ≠ [] → exec (.trapEntry i) s = .next s)) ∧
    (∀ place : Word, gaSpace place.toNat = spSY → exec (.uncorr i place) s = .next (s.flood c.tenant.toNat)) ∧
    (∀ place : Word, gaSpace place.toNat ≠ spSY → c.sealed = none → ∃ t, exec (.uncorr i place) s = .next t ∧ (t.core i.core).sealed = some 0x0B ∧
      ∀ n, n < 8 → (t.slot ⟨i.core, n⟩).status = .sealed) ∧
    (∀ w, m.status = .parked → m.wait = some w → w.counted = true → w.regs = false → m.resume = none →
      m.sent = false → m.arch.waitlim ≠ 0 → m.arch.waitlim.toNat < w.count → TrapsAtOnce s i → m.arch.xvec ≠ 0 → m.arch.trapped = false →
      ∃ t, exec (.waitlimit i) s = .next t ∧ (t.slot i).arch = trapArch m.arch .waitlimit w.value m.arch.pc ∧
        (∀ k, ∀ x ∈ (t.core k).granQ, x.pkt = none → x.who ≠ i) ∧ (∀ d, ∀ x ∈ (t.die d).pwait, x.1 ≠ i) ∧
        ∀ d v, t.mode ⟨d, v⟩ = (s.mode ⟨d, v⟩).leave i) ∧
    (∃ lines, exec (.icacheFill i) s = .next (s.setCore i.core { c with icache := lines }) ∧ lines.length ≤ 256 ∧
      ∀ l ∈ s.icMiss i 5, l ∈ lines) ∧
    (m.status = .halted → exec (.debugResume i) s = .next (s.setSlot i { m with
      status := .ready, arch := { m.arch with pc := m.arch.xpc } }))

/-- R116, R231, R332 to R334: a word arrives at the RECV that names its sender, whose allowance given falls by one; a word
for another is discarded; the error entry of a sealed sender sets DEAD. Grants, revokes and returns move allowance. R101,
R233, R344: a recast succeeds once the target has been empty for RECASTWAIT rotations, gets 1 before and 2 when sealed.
R118, R138, R148: a message enters the inbox, or waits while the 32 shared entries are full; that of a sealed sender leaves an
error entry, and one for a sealed core's task is mail. The number by which a RECV tells its present binding from an earlier one,
and the error entry as a message of TYPE 0, are notes/assumptions/48.md. -/
def Obligations.ChannelMessagesAndMail : Prop :=
  ∀ (s : State),
    (∀ (e : EndId) (i : SlotId) (gen : Nat) (w : Option Word), e.slot < 8 → e.q < 16 →
      let b := (s.slot ⟨e.core, e.slot⟩).qreg e.q
      ∃ t, exec (.channelWordArrive ⟨e, i⟩ gen w) s = .next t ∧
        (let b' := (t.slot ⟨e.core, e.slot⟩).qreg e.q
         (s.recvNames e i = true → b.gen = gen → (s.core e.core).sealed = none → b'.entries = b.entries ++ [w] ∧
          b'.allow = (if w.isSome then b.allow - 1 else b.allow) ∧ b'.dead = (b.dead || w.isNone)) ∧
         (s.recvNames e i = false ∨ b.gen ≠ gen → b'.entries = b.entries ∧ b'.allow = b.allow)) ∧
        (∀ q rest, w.isSome = true → s.sendsTo i e = q :: rest →
          ((t.slot i).qreg q).sent = ((s.slot i).qreg q).sent - 1 ∧ ((t.slot i).qreg q).allow = ((s.slot i).qreg q).allow) ∧
        ∀ k, t.byte k = s.byte k) ∧
    (∀ (e : EndId) (i : SlotId) (n gen : Nat),
      ((s.core i.core).sealed = none → ∃ t, exec (.grantArrive ⟨e, i⟩ n gen) s = .next t ∧
        (∀ q rest, s.sendsTo i e = q :: rest → ((t.slot i).qreg q).allow = ((s.slot i).qreg q).allow + n) ∧
        (s.sendsTo i e = [] → (t.core i.core).early = (s.core i.core).early ++ [(e, i, n, gen)])) ∧
      (s.recvNames e i = true → ((s.slot ⟨e.core, e.slot⟩).qreg e.q).gen = gen → e.slot < 8 → e.q < 16 →
        ∃ t, exec (.allowanceReturn ⟨e, i⟩ n gen) s = .next t ∧
        (t.slot ⟨e.core, e.slot⟩).qreg e.q = { (s.slot ⟨e.core, e.slot⟩).qreg e.q with
          allow := ((s.slot ⟨e.core, e.slot⟩).qreg e.q).allow - n })) ∧
    (∀ (e : EndId) (i : SlotId), ∃ t, exec (.revokeArrive ⟨e, i⟩) s = .next t ∧
      (∀ g ∈ (t.core i.core).early, g.1 ≠ e ∨ g.2.1 ≠ i) ∧ (∀ q, q ∈ s.sendsTo i e → ((t.slot i).qreg q).allow = 0) ∧
      ∀ j, j ≠ i → t.slot j = s.slot j) ∧
    (∀ (i : SlotId) (target : Nat) (w : Word),
      let c := s.core target
      let answered (t : State) (v : Word) : Prop := exec (.recastArrival i target w) s = .next t ∧
        ((s.slot i).sent = true → i.slot < 8 → ∃ r, (t.slot i).resume = some r ∧ r.value = v ∧ r.err = none)
      (c.sealed.isSome = true → ∃ t, answered t 2) ∧
      let empty : Prop := c.recvEmpty = true ∧ c.emptySince + 8 * c.recastwait.toNat ≤ c.cyc.toNat
      (c.sealed = none → ¬empty → ∃ t, answered t 1 ∧ (t.core target).role = c.role) ∧
      (c.sealed = none → empty → ∃ t, answered t 0 ∧
        (t.core target).role.toNat = w.toNat % 16 ∧ (t.core target).param.toNat = w.toNat / 2 ^ 16 % 2 ^ 16 ∧
        ∀ n, n < 8 → (t.slot ⟨target, n⟩).ids[18]? = some (t.core target).roleWord)) ∧
    (∀ (from_ : Option SlotId) (d : Dest) (m : Msg) (i : SlotId),
      d = .slot i ∨ (∃ x, d = .task x ∧ s.whereIs x = .running i) →
      let c := s.core i.core
      (∀ f, from_ = some f → (s.core f.core).sealed = none) →
      ((d = .slot i → c.sealed = none) → c.niWait = [] → c.shared < 32 → ∃ t, exec (.inboxDeliver from_ d m) s = .next t ∧
        (t.core i.core).inbox = c.inbox ++ [⟨i.slot, msgTo m i.slot, false⟩] ∧ (t.core i.core).niWait = [] ∧
        (∀ j, t.slot j = s.slot j) ∧ ∀ k, t.byte k = s.byte k) ∧
      ((d = .slot i → c.sealed = none) → 32 ≤ c.shared → ∃ t, exec (.inboxDeliver from_ d m) s = .next t ∧
        (t.core i.core).inbox = c.inbox ∧ (t.core i.core).niWait = c.niWait ++ [(from_, d, m)]) ∧
      (d = .slot i → c.sealed.isSome = true → (s.slot i).task = none → exec (.inboxDeliver from_ d m) s = .next s) ∧
      (∀ k, d = .slot i → c.sealed.isSome = true → (s.slot i).task = some k →
        exec (.inboxDeliver from_ d m) s = .next (s.mailTo from_ k.ref m))) ∧
    (∀ (f i : SlotId) (m : Msg), (s.core f.core).sealed.isSome = true → (s.core i.core).sealed = none →
      (s.core i.core).niWait = [] → (s.core i.core).shared < 32 →
      ∃ t, exec (.inboxDeliver (some f) (.slot i) m) s = .next t ∧
        (t.core i.core).inbox = (s.core i.core).inbox ++ [⟨i.slot, msgTo ⟨0, 0, 0, 0⟩ i.slot, false⟩])

/-- R177, R178, R180, R181, R116: a chunk that commits leaves its slot, its bytes and its pushes become visible together,
and every open chunk of the package that read one of its lines is squashed back to its first instruction. R168: answered
probes let a chunk go on, and a failing one cuts it. R181: the data of a granted commit reaches its home, and reads as
before. R187, R189, R113: a unit of a write is performed by itself, behind an earlier one of its owner at the same place. -/
def Obligations.ChunksCommitOrSquash : Prop :=
  (∀ (s : State) (i : SlotId) (c : Chunk) (rest : List Chunk), s.mayCommit i = true → i.slot < 8 →
    (s.slot i).chunks = c :: rest → (∀ w ∈ c.writes, isFar w.1 = false) → (c.writes.map Prod.fst).Nodup →
    (∀ j, s.partner j = none) → (s.cores.map Prod.fst).Nodup →
    let lines := c.writes.map (fun w => lineOf w.1)
    ∃ t, exec (.commitGrant i []) s = .next t ∧ (∀ d ∈ (t.slot i).chunks, d ∈ rest) ∧
      (∀ k, t.byte k = (tfind c.writes k).getD (s.byte k)) ∧
      t.inflight = s.inflight ++ c.pushes.map (fun p => Instr.channelWordArrive ⟨p.target, i⟩ p.gen (some p.word)) ∧
      (t.core i.core).assay = c.assay.foldl assayAdd (s.core i.core).assay ∧
      (∀ j ∈ s.allSlots, j ≠ i →
        ((s.slot j).hitBy lines = none → t.slot j = s.slot j) ∧
        (∀ no ch, (s.slot j).hitBy lines = some no → (s.slot j).chunks.find? (fun d => d.no == no) = some ch →
          (t.slot j).arch = ch.saved ∧ ∀ d ∈ (t.slot j).chunks, d.no < no))) ∧
  (∀ (s : State) (i : SlotId), s.mayCommit i = false → exec (.commitGrant i []) s = .next s) ∧
  (∀ (s : State) (i : SlotId) (c : Chunk) (rest : List Chunk), i.slot < 8 → (s.slot i).chunks = c :: rest →
    c.closed = true → c.probed = false → c.probes ≠ [] → s.partner i = none →
    (c.probes.all (s.probeOk (s.slot i) c) = true → ∃ t, exec (.probeResponse i) s = .next t ∧
      (t.slot i).chunks.head? = some { c with probed := true } ∧ (t.slot i).arch = (s.slot i).arch ∧
      (∀ j, j ≠ i → t.slot j = s.slot j) ∧ ∀ k, t.byte k = s.byte k) ∧
    (c.probes.all (s.probeOk (s.slot i) c) = false →
      (∀ k, c.cuts.find? (fun k => c.probes.contains k.key && !s.probeOk (s.slot i) c k.key) = some k →
        ∃ t, exec (.probeResponse i) s = .next t ∧ (t.slot i).arch = k.arch ∧
          (∀ d ∈ (t.slot i).chunks, d.no < c.no ∨ (d.no = c.no ∧ d.count = k.count ∧ d.writes = k.writes ∧ d.closed = true)) ∧
          ∀ a, t.byte a = s.byte a) ∧
      (c.cuts = [] → ∃ t, exec (.probeResponse i) s = .next t ∧ (t.slot i).arch = c.saved ∧
        (∀ d ∈ (t.slot i).chunks, d.no < c.no) ∧ ∀ k, t.byte k = s.byte k))) ∧
  (∀ (s : State) (pre rest : List HomeWrite) (w : HomeWrite), s.homeWrites = pre ++ w :: rest →
    (∀ x ∈ pre, x.id ≠ w.id) → memWf s.mem = true →
    ∃ t, exec (.homeAccess w.id) s = .next t ∧ t.homeWrites = rest ∧ t.cores = s.cores ∧ ∀ k, t.byte k = s.byte k) ∧
  (∀ (s : State) (u : UnitWrite), s.unitWrites.find? (fun x => x.id == u.id) = some u → (∀ w ∈ s.homeWrites, w.id ≠ u.id) →
    ((∀ x ∈ s.unitWrites, x.owner = u.owner → ¬x.id < u.id) → s.vecOpen u = false →
      (∀ c ∈ u.cells, s.cutOff u.ctx c.1 = false ∧ s.lostCell c.1 = false) → (u.cells.map Prod.fst).Nodup → NoneWaits s →
      memWf s.mem = true →
      ∃ t, exec (.homeAccess u.id) s = .next t ∧ t.unitWrites = s.unitWrites.erase u ∧
        (∀ k, t.byte k = (tfind u.cells k).getD (s.byte k)) ∧
        ∀ c ∈ u.cells, u.fill = true → hasFull c.1 = true → t.isFull (unitOf c.1) = true) ∧
    (∀ x ∈ s.unitWrites, x.owner = u.owner → x.id < u.id → (u.last = true ∨ x.meets u = true) →
      exec (.homeAccess u.id) s = .next s))

/-- R114: a qualified access at its granule is served when its bit allows, and then changes the bit as it says; otherwise it
stays. R359: a REDUCE round past its limit ends without a combination, and a FAMO held in it gets NaN with NV. R381: a
core's assay updates are merged into the live image with saturation, one half of a slot at a time, and not on a fenced die, as
notes/assumptions/55.md has it. -/
def Obligations.HomesServeAndMerge : Prop :=
  (∀ (s : State) (gran : Nat) (w : GranWait), let home := paCore (gran * 16)
    (s.core home).granQ = [w] → w.key = gran → w.who.slot < 8 → w.pkt = none → w.result = none →
    ((w.waits = true → s.isFull gran = !w.write) → ∃ t r, exec (.granuleAccess gran) s = .next t ∧
      (t.core home).granQ = [] ∧ (t.slot w.who).resume = some r ∧ r.err = none ∧
      t.isFull gran = (if w.change then w.write else s.isFull gran) ∧
      (w.write = false → r.value = w64 (s.num w.addr w.size) ∧ ∀ k, t.byte k = s.byte k) ∧
      (w.write = true → memWf s.mem = true → WritesOnly s t w.addr w.size w.data.toNat)) ∧
    (w.waits = true → s.isFull gran = w.write → ∃ t, exec (.granuleAccess gran) s = .next t ∧ (t.core home).granQ = [w] ∧
      (∀ j, t.slot j = s.slot j) ∧ t.full = s.full ∧ ∀ k, t.byte k = s.byte k)) ∧
  (∀ (s : State) (die v count rlim level since : Nat) (held : List Contribution),
    s.mode ⟨die, v⟩ = .reduce count rlim level held since →
    (held ≠ [] → rlim ≠ 0 → since + 100 * rlim ≤ (s.die die).refc.toNat →
      ∃ t, exec (.reduceRoundTimeout die v) s = .next t ∧ t.mode ⟨die, v⟩ = .reduce count rlim level [] 0 ∧
        ∀ x i a k, held = [x] → x.who = .slot i (some a) → i.slot < 8 → (s.slot i).task = some k → k.sup = false →
          k.ref = ⟨x.ctx, x.lslot, x.path⟩ → ∃ r, (t.slot i).resume = some r ∧ r.value = w64 (0x7FC00000 + 2 ^ 32)) ∧
    ((s.die die).refc.toNat < since + 100 * rlim → exec (.reduceRoundTimeout die v) s = .next s)) ∧
  (∀ (s : State) (core k : Nat) (a : AssayAdd) (img : AssayImage), (s.core core).assay = [a] → (s.core core).merging = [] →
    (s.core core).lastMerge + 4096 ≤ s.now → tfind s.images a.handle = some img → img.pa[a.index]? = some k →
    s.lostCell k = false → memWf s.mem = true →
    ∃ t, exec (.assayMerge core) s = .next t ∧ (t.core core).assay = [] ∧
      (t.core core).merging = [⟨a.handle, a.index, true, a.inc1⟩] ∧
      WritesOnly s t k 8 (s.num k 4 + 2 ^ 32 * min (s.num (k + 4) 4 + a.inc0) (2 ^ 32 - 1))) ∧
  (∀ (s : State) (core k h n inc : Nat) (rest : List AssayHalf) (img : AssayImage),
    (s.core core).merging = ⟨h, n, true, inc⟩ :: rest → tfind s.images h = some img → img.pa[n]? = some k →
    memWf s.mem = true →
    ∃ t, exec (.assayMerge core) s = .next t ∧ (t.core core).merging = rest ∧
      (s.lostCell k = false → WritesOnly s t (k + 8) 8 (min (s.num (k + 8) 4 + inc) (2 ^ 32 - 1) + 2 ^ 32 * s.num (k + 12) 4)) ∧
      (s.lostCell k = true → ∀ x, t.byte x = s.byte x))

/-- R90, R89: a supervisor takes the first enabled core of its die whose slot 7 is free, in supervisor mode at SUPENT, or
waits. R94: at a rotation boundary the slots of ended tasks are freed, and a queue's head task starts in the slot that it
fits once the deficit covers it. R145, R146: a killed task is reported to its supervisor, or by a record. R130, R131,
R134: EXIT conveys a holding to its living heir, poisons a lock without one, and is reported once every die has
acknowledged it. -/
def Obligations.TasksStartAndGroupsExit : Prop :=
  (∀ (s : State) (ctx ls die : Nat) (l : Launch) (p : Sup), s.launch ctx ls = some l → tfind l.sups die = some p →
    p.started = false → p.ended = false → (s.ctx ctx).preempt = none → (s.ctx ctx).flooded = false →
    let found := (((s.dealCores ctx).filter (fun x => x / 1024 == die)).filterMap (s.ctx ctx).phys).find?
      (fun x => !s.away x ctx && (s.slot ⟨x, 7⟩).status == .unowned)
    (∀ x, found = some x → ∃ t k l', exec (.supervisorStart ctx ls die) s = .next t ∧
      (t.slot ⟨x, 7⟩).status = .ready ∧ (t.slot ⟨x, 7⟩).task = some k ∧ k.sup = true ∧ k.supDie = die ∧
      (t.slot ⟨x, 7⟩).arch = { Arch.start with
        pc := w64 (Rec.supent l.record), sup := true
        txm := ((t.slot ⟨x, 7⟩).ids[6]).setWidth 32, txn := ((t.slot ⟨x, 7⟩).ids[7]).setWidth 32
        txk := ((t.slot ⟨x, 7⟩).ids[8]).setWidth 32 } ∧
      t.launch ctx ls = some l' ∧ tfind l'.sups die = some ⟨some ⟨x, 7⟩, true, false⟩ ∧ (ctx, ls, die) ∉ t.supWaiting) ∧
    (found = none → (ctx, ls, die) ∉ s.supWaiting → exec (.supervisorStart ctx ls die) s
      = .next { s with supWaiting := s.supWaiting ++ [(ctx, ls, die)] })) ∧
  (∀ (s : State) (core : Nat), (s.core core).sealed = none →
    let c := s.core core
    let ctx := c.tenant.toNat
    (c.queues = [] → ∃ t, exec (.arbiterRound core) s = .next t ∧ (t.core core).roundDue = false ∧
      (t.core core).ended = [] ∧ ∀ n, n < 8 → (c.slot n).status = .ending →
        (t.slot ⟨core, n⟩).status = .unowned ∧ (t.slot ⟨core, n⟩).task = none) ∧
    (∀ a l n root, c.queues = [a] → a.jobs = [.run root 1] → s.launch a.ctx a.lslot = some l → l.n = 1 →
      (∀ k, k < 8 → (c.slot k).status ≠ .ending) → s.supReady a.ctx core l = true → s.fitSlot core l = some n →
      128 ≤ a.deficit + a.weight → (s.ctx ctx).preempt = none → s.away core ctx = false → (s.ctx ctx).flooded = false →
      ∃ t k, exec (.arbiterRound core) s = .next t ∧ (t.core core).queues = [] ∧ (t.slot ⟨core, n⟩).status = .ready ∧
        (t.slot ⟨core, n⟩).task = some k ∧ k.ref = ⟨a.ctx, a.lslot, w64 root⟩ ∧ k.sup = false ∧
        (t.slot ⟨core, n⟩).arch.pc = w64 (field l.kcb 0 8 + field l.record 0 4) ∧
        (t.slot ⟨core, n⟩).arch.sup = false ∧ (t.slot ⟨core, n⟩).arch.chunkmax = 256)) ∧
  (∀ (s : State) (core : Nat) (k : KillNote) (others : List KillNote), s.killReady core = true →
    (s.core core).kills = k :: others → k.task.sup = false →
    let ctx := k.task.ref.ctx
    let die := (s.ctx ctx).logDie (core / 1024)
    (∀ l p, s.launch ctx k.task.ref.lslot = some l → tfind l.sups die = some p → p.ended = false →
      ∃ t m, exec (.killedReport core) s = .next t ∧ (t.core core).kills = others ∧
        t.inflight = s.inflight ++ [.inboxDeliver none (.supervisor ctx k.task.ref.lslot die) m] ∧
        wbits m.w0 7 0 = 0x24 ∧ wbits m.w0 23 16 = k.cause.toNat ∧ m.w1 = k.xpc ∧ m.w2 = k.task.ref.path ∧ m.w3 = k.xval) ∧
    (s.launch ctx k.task.ref.lslot = none → (s.ctx ctx).started = true → (s.ctx ctx).faults.set = true →
      ((s.ctx ctx).faults.prod - (s.ctx ctx).faults.cons).toNat ≠ 4096 →
      ∃ t, exec (.killedReport core) s = .next t ∧ (t.core core).kills = others ∧
        (t.ctx ctx).faults.prod = (s.ctx ctx).faults.prod + 1)) ∧
  (∀ (s : State) (die gen : Nat) (x : GroupRef) (l : Launch), s.launch (refCtx x) (refLslot x) = some l →
    die < 4 → l.exiting = [(x, gen, [die])] → s.exitWaits die x = false → (s.ctx (refCtx x)).flooded = false →
    let acknowledged (t : State) : Prop := exec (.exit die x) s = .next t ∧ Instr.exitReport x ∈ t.inflight ∧
      ∃ l', t.launch (refCtx x) (refLslot x) = some l' ∧ l'.exiting = [(x, gen, [])]
    (s.heldBy die x = [] → ∃ t, acknowledged t) ∧
    (∀ idx b, let e := s.entry die idx
      let v : VarId := ⟨die, gaOff e.hid.toNat / 16⟩
      s.heldBy die x = [idx] → e.endsWith x gen = true → e.kind = 1 → e.offer = none → s.mode v = .lock .held b [] →
      (e.heirk = 0 → s.exited e.heir = false → ∃ t, acknowledged t ∧ (t.entry die idx).holder = e.heir ∧
        (t.entry die idx).brv = true ∧ (t.entry die idx).depth = 1 ∧ (t.entry die idx).aseq = (s.die die).acq ∧
        t.mode v = .lock .held false []) ∧
      (e.heirk = 1 → ∃ t, acknowledged t ∧ (t.entry die idx).st = 2 ∧ t.mode v = .lock .poisoned false []))) ∧
  (∀ (s : State) (x : GroupRef) (l : Launch), s.launch (refCtx x) (refLslot x) = some l →
    ((∃ gen, (x, gen, []) ∈ l.exiting) → ∃ t l' gen, exec (.exitReport x) s = .next t ∧
      t.launch (refCtx x) (refLslot x) = some l' ∧ (x, gen) ∈ l'.reported) ∧
    ((∀ e ∈ l.exiting, e.1 ≠ x ∨ e.2.2 ≠ []) → exec (.exitReport x) s = .next s))

/-- R151, R152: a flooded context runs no slot and keeps no chunk; when all is drained or 100 µs have passed it is torn
down, and may start anew. R155: a pre-emption request stops the slots that wait; at the deadline every slot stops at its
instruction. R156 to R158, R107: a save keeps the stopped slots and the bytes of the typed buffers in the save area and
leaves the core empty; a restore puts slots and buffers back, and a block that does not open floods the context. What a
teardown keeps is notes/assumptions/40.md; that a save without slots restores no memory is 41.md. -/
def Obligations.FloodsSavesAndRestores : Prop :=
  (∀ (s : State) (ctx : Nat), (s.ctx ctx).started = true → (s.ctx ctx).flooded = false →
    ∃ t, exec (.floodRequest ctx) s = .next t ∧ (t.ctx ctx).flooded = true ∧ (t.ctx ctx).floodAt = s.now ∧
      t.mem = s.mem ∧ ∀ k ∈ s.coresOf ctx, ∀ n, n < 8 → (t.slot ⟨k, n⟩).chunks = [] ∧
        (t.slot ⟨k, n⟩).status ≠ .ready ∧ (t.slot ⟨k, n⟩).status ≠ .parked ∧ (t.slot ⟨k, n⟩).status ≠ .trapping) ∧
  (∀ (s : State) (ctx : Nat), (s.ctx ctx).flooded = true →
    (s.drained ctx = true ∨ (s.ctx ctx).floodAt + 130000 ≤ s.now → ∃ t, exec (.floodEnd ctx) s = .next t ∧
      (t.ctx ctx).started = false ∧ (t.ctx ctx).flooded = false ∧ (t.ctx ctx).launches = [] ∧
      ∀ k ∈ s.coresOf ctx, ∀ n, n < 8 → (t.slot ⟨k, n⟩).status = .unowned) ∧
    (s.drained ctx = false → s.now < (s.ctx ctx).floodAt + 130000 → exec (.floodEnd ctx) s = .next s)) ∧
  (∀ (s : State) (ctx : Nat), (s.ctx ctx).started = true → (s.ctx ctx).flooded = false → (s.ctx ctx).preempt = none →
    s.coresOf ctx ≠ [] → ∃ t, exec (.preemptRequest ctx) s = .next t ∧ (t.ctx ctx).preempt = some s.now ∧
      (∀ k ∈ s.coresOf ctx, ∀ n, n < 8 → s.parkedStops ⟨k, n⟩ = true → (t.slot ⟨k, n⟩).status = .stopped) ∧
      (∀ i, (t.slot i).arch = (s.slot i).arch) ∧ ∀ k, t.byte k = s.byte k) ∧
  (∀ (s : State) (i : SlotId),
    (s.deadlineDue i = true → ∃ t, exec (.preemptDeadline i) s = .next t ∧ (t.slot i).status = .stopped ∧
      (t.slot i).arch = (s.slot i).arch ∧ (t.slot i).returns = (s.slot i).returns.filter (fun r => !r.sfu) ∧
      (∀ j, j ≠ i → t.slot j = s.slot j) ∧ ∀ k, t.byte k = s.byte k) ∧
    (s.deadlineDue i = false → (s.slot i).sent = false → exec (.preemptDeadline i) s = .next s)) ∧
  (∀ (s : State) (core : Nat), core < 4096 → s.saveReady core = true → (s.core core).assay = [] → memWf s.mem = true →
    (∀ n, n < 8 → (s.slot ⟨core, n⟩).plive = none) →
    let ctx := (s.core core).tenant.toNat
    let area := s.saKey core ctx 0
    ∃ t v, exec (.hoistSave core) s = .next t ∧ tfind (t.core core).saved ctx = some v ∧
      (∀ n, n < 8 → (t.slot ⟨core, n⟩).status = .unowned ∧ ((s.slot ⟨core, n⟩).status ≠ .ending →
        s.leadOf ⟨core, n⟩ = ⟨core, n⟩ → ∃ x, v.slots[n]? = some x ∧ x.slot = s.slot ⟨core, n⟩)) ∧
      (∀ k, k < area ∨ area + 737280 ≤ k → t.byte k = s.byte k) ∧
      ((∃ n, n < 8 ∧ (s.slot ⟨core, n⟩).task.isSome = true ∧ (s.slot ⟨core, n⟩).status ≠ .ending) →
        ∀ sp o, 1 ≤ sp → sp ≤ 4 → o < bufSize sp → t.byte (area + saBuffer sp + o) = s.byte (pa sp core o))) ∧
  (∀ (s : State) (core ctx : Nat) (bad : Option Nat) (v : Saved), tfind (s.core core).saved ctx = some v → core < 4096 → ctx < 16 →
    (s.ctx ctx).started = true → (s.ctx ctx).flooded = false → (s.ctx ctx).preempt = none → s.vacant core = true →
    s.homeWrites = [] → memWf s.mem = true →
    let area := s.saKey core ctx 0
    let back (t : State) : Prop := exec (.hoistRestore core ctx bad) s = .next t ∧ (t.core core).tenant.toNat = ctx ∧
      tfind (t.core core).saved ctx = none ∧ ∀ n x, n < 8 → v.slots[n]? = some x → x.slot.status = .stopped →
        (t.slot ⟨core, n⟩).status = .ready ∧ (x.full = true → (t.slot ⟨core, n⟩).arch = x.slot.arch)
    (v.slots = [] → ∃ t, back t ∧ t.mem = s.mem) ∧
    (v.slots ≠ [] → s.badBlock core ctx v bad = none → ∃ t, back t ∧
      (∀ sp o, 1 ≤ sp → sp ≤ 4 → o < bufSize sp → t.byte (pa sp core o)
        = if (saBuffer sp + o) / 4096 ∈ v.written then s.byte (area + saBuffer sp + o) else 0) ∧
      ∀ k, (2 ^ 64 ≤ k ∨ paSpace k = 0 ∨ 4 < paSpace k ∨ paCore k ≠ core) → t.byte k = s.byte k) ∧
    (∀ b, v.slots ≠ [] → s.badBlock core ctx v bad = some b → ∃ t, exec (.hoistRestore core ctx bad) s = .next t ∧
      (t.ctx ctx).flooded = true))

namespace Sys2Proof.Claims
open Sys2Proof.Machine

-- engines

/-- R211: A[m, k] of an integer pair: a signed byte, or a signed nibble, the even k in the low half. -/
def aInt (s : State) (core : Nat) (t : TCmd) (m k : Nat) : Int :=
  let row := t.opA + m * tcAPITCH t.tc
  if t.major = 1 then sext 8 (s.num (pa spAB core (row + k)) 1)
  else sext 4 (s.num (pa spAB core (row + k / 2)) 1 / 16 ^ (k % 2))

/-- R194, R212, R215: the weight at row k and column n, from the planes of its block; 0 in a skipped block. -/
def wInt (s : State) (core : Nat) (t : TCmd) (k n : Nat) : Int :=
  match t.blocks.find? (fun b => b.1 == k / 16 && b.2.1 == n / 16) with
  | none => 0
  | some b =>
    let i := 16 * (k % 16) + n % 16
    bpWeight (planes t.form) ((upFrom 0 (planes t.form)).foldl (fun v j =>
      2 * v + s.num (pa spWB core (b.2.2 + 32 * j + i / 8)) 1 / 2 ^ (i % 8) % 2) 0)

/-- R118: the newest entry of a slot's inbox is an engine's completion of a type with its second word. -/
def Completion (s t : State) (i : SlotId) (typ : Nat) (w1 : Word) : Prop :=
  ∃ x, (t.core i.core).inbox = (s.core i.core).inbox ++ [x] ∧ x.slot = i.slot ∧ x.own = true ∧
    wbits x.msg.w0 7 0 = typ ∧ wbits x.msg.w0 15 8 = i.slot ∧ x.msg.w1 = w1

/-- R172, R118: the operation's task still runs in its slot, and its writes are not checked. -/
def Mine (s : State) (i : SlotId) (task : Option TaskRef) : Prop :=
  i.slot < 8 ∧ s.sameTask i task = true ∧ (s.core i.core).sealed = none

end Sys2Proof.Claims

/-- R329, R223: a pushed word is accepted, or turned away with REASON 11 where its MAJOR is none. R203, R211, R217: an
integer matrix command adds the products of its tile to each accumulator, mod 2^32, for any extents and skip list; MZERO
writes zeros. R189, R224, R315: an executed command's writes go to their homes as units, and once they are performed it
retires and its flags join MSTAT. -/
def Obligations.TensorEngineComputes : Prop :=
  (∀ (s : State) (i : SlotId) (w : Word) (rest : List Word), i.slot < 8 → ((s.slot i).fifoOf 3).ops = w :: rest →
    s.tensFull i = false → (s.core i.core).sealed = none →
    let major := w.toNat % 32
    let form := BitVec.ofNat 4 (w.toNat / 2 ^ 8 % 16)
    let c := w.toNat / 2 ^ 12 % 32
    let cmd := s.tensCmd i major form (w.toNat / 2 ^ 20 % 2 ^ 20) (w.toNat / 2 ^ 40 % 2 ^ 20) c none true
    (tensMajorOk major = true → w.toNat / 2 ^ 17 % 8 = 0 → tensFormOk major form = true → c ≠ 31 →
      cmd.reason none (s.slot i).checkOn = 0 →
      ∃ t, exec (.tensCommandAccept i) s = .next t ∧
        (t.core i.core).tens = (s.core i.core).tens ++ [{ cmd with inject := (s.core i.core).injects cmd }] ∧
        ((t.slot i).fifoOf 3).ops = rest ∧ (t.slot i).arch = (s.slot i).arch ∧ ∀ k, t.byte k = s.byte k) ∧
    (tensMajorOk major = false → (∃ q, q < 16 ∧ ((s.slot i).qreg q).kind = 3) → ((s.slot i).fifoOf 3).res.length < 8 →
      ∃ t, exec (.tensCommandAccept i) s = .next t ∧ (t.core i.core).tens = (s.core i.core).tens ∧
        (t.slot i).fifoOf 3 = ⟨rest, ((s.slot i).fifoOf 3).res ++ [w64 (major + 2 ^ 8 * 11)]⟩)) ∧
  (∀ (s : State) (core : Nat) (t : TCmd) (rest : List TCmd), (s.core core).tens = t :: rest → t.executed = false →
    4 * t.txn ≤ t.pitch →
    (∃ u t', exec (.tensorExecute core) s = .next u ∧ u = s.setCore core (u.core core) ∧
      (u.core core).tens = t' :: rest ∧ t'.executed = true ∧ t'.slot = t.slot ∧ t'.task = t.task ∧ t'.life = t.life ∧
      (t.major = 7 → ∀ m n j, m < t.txm → n < t.txn → j < 4 →
        tfind t'.writes (pa spCB core (t.base + m * t.pitch + 4 * n) + j) = some 0) ∧
      (t.major = 1 ∨ t.major = 2 → t.outl = none → t.inject = none → ∀ m n j, m < t.txm → n < t.txn → j < 4 →
        let key := pa spCB core (t.base + m * t.pitch + 4 * n)
        tfind t'.writes (key + j) = some (BitVec.ofNat 8 (((s.num key 4 : Int)
          + ((upFrom 0 t.txk).map (fun k => aInt s core t m k * wInt s core t k n)).sum) % 2 ^ 32 / 256 ^ j).toNat)))) ∧
  (∀ (s : State) (core : Nat) (t : TCmd) (rest : List TCmd), (s.core core).tens = t :: rest →
    (t.executed = false → exec (.tensorRetire core) s = .next s) ∧
    (t.executed = true → (s.core core).tensBusy ≤ (s.core core).cyc.toNat → t.pushed = false → t.checked = false →
      Quiet s (.engine core t.slot kTENS) → t.landing = false → t.writes ≠ [] →
      ∃ u, exec (.tensorRetire core) s = .next u ∧ (u.core core).tens = { t with landing := true } :: rest ∧
        Sent s u (.engine core t.slot kTENS) (t.writes.map Prod.fst) (t.writes.map Prod.snd)) ∧
    (t.executed = true → (s.core core).tensBusy ≤ (s.core core).cyc.toNat → t.pushed = false →
      Quiet s (.engine core t.slot kTENS) → t.landing = true ∨ t.writes = [] → t.slot < 8 →
      s.sameLife ⟨core, t.slot⟩ t.life = true →
      ∃ u, exec (.tensorRetire core) s = .next u ∧ (u.core core).tens = rest ∧ (∀ k, u.byte k = s.byte k) ∧
        (t.outcome = none → (u.slot ⟨core, t.slot⟩).mstat = (s.slot ⟨core, t.slot⟩).mstat ||| t.flags) ∧
        ∀ o, t.outcome = some o → o < 8 → (u.slot ⟨core, t.slot⟩).mstat
          = (((s.slot ⟨core, t.slot⟩).mstat ||| t.flags) &&& ~~~(0x700 : Word)) ||| w64 (2 ^ 8 * o)))

/-- R299, R300, R306, R309: a vector command of one element writes what vCompute makes of its sources, and gathers its flags;
one to be discarded is cancelled. R307, R308, R310: a finished command joins the summary and posts VECDONE. R339: a copy of
one unit moves its bytes; COPYDONE or COPYPART follows. R342: GETR writes what it has read, and GETDONE follows. R228 to
R230, R343: a pass of one token and one expert writes index, weight and histogram, and JIGDONE follows. R189: each of these
writes is sent to its home as units. -/
def Obligations.VectorCopyAndJigWork : Prop :=
  (∀ (s : State) (core : Nat) (v : VCmd), (s.core core).vec = [v] → v.finished = false → v.started = false →
    s.suspended core v = false →
    let r := v.record
    let d := vopd r (vOff 0)
    let mem (o : VOpd) : Prop := o.loc = 1 ∨ o.loc = 2 ∨ o.loc = 4
    let raw (k : Nat) : Nat := let o := vopd r (vOff k)
      if vUsed v.major ≤ k then 0
      else if o.loc = 9 then v.scalar.toNat % 2 ^ (8 * tySize o.typ) else s.num (pa o.loc core o.off) (tySize o.typ)
    (vN r = 1 → v.done = 0 → vReduces v.major = false → vBp v.major r = false → v.major ≠ 0x10 → v.major ≠ 0x11 → v.checked = false →
      v.status = 0 → Quiet s (vOwner core v) → mem d →
      (∀ k, 1 ≤ k → k < vUsed v.major → let o := vopd r (vOff k)
        (mem o ∨ o.loc = 9) ∧ (mem o → o.fe = 0)) →
      ∃ t v', exec (.vectorExecute core 0) s = .next t ∧ (t.core core).vec = [v'] ∧ v'.finished = true ∧ v'.done = 1 ∧
        v'.status = v.status ∧ v'.flags = v.flags ||| (vCompute v (raw 1) (raw 2) (raw 3)).2 ∧
        Sent s t (vOwner core v) (upFrom (pa d.loc core d.off) (tySize d.typ))
          (toBytes (vCompute v (raw 1) (raw 2) (raw 3)).1 (tySize d.typ))) ∧
    (Mine s ⟨core, v.slot⟩ v.task → v.status = 3 →
      ∃ t v', exec (.vectorExecute core 0) s = .next t ∧ (t.core core).vec = [v'] ∧ v'.finished = true ∧ v'.status = 3 ∧
        (t.slot ⟨core, v.slot⟩).vsum.canc = true ∧ ∀ k, t.byte k = s.byte k)) ∧
  (∀ (s : State) (core : Nat) (v : VCmd) (rest : List VCmd), (s.core core).vec = v :: rest →
    (v.finished = false → exec (.vecdone core) s = .next s) ∧
    (v.finished = true → (v.status = 3 ∨ (s.core core).vecBusy ≤ (s.core core).cyc.toNat) → Mine s ⟨core, v.slot⟩ v.task →
      Quiet s (vOwner core v) →
      ∃ t, exec (.vecdone core) s = .next t ∧ (t.core core).vec = rest ∧
        (t.slot ⟨core, v.slot⟩).vsum.flags = (s.slot ⟨core, v.slot⟩).vsum.flags ||| v.flags ∧
        (vCmpl v.record = true → Completion s t ⟨core, v.slot⟩ 0x12 (w64 (vEdone v))) ∧
        (vCmpl v.record = false → (t.core core).inbox = (s.core core).inbox) ∧ ∀ k, t.byte k = s.byte k)) ∧
  (∀ (s : State) (core : Nat) (c : CCmd), (s.core core).copy = [c] → c.pushed = false →
    let i : SlotId := ⟨core, c.slot⟩
    let ctx := (s.core core).tenant.toNat
    let r := c.record
    (∀ ks kd, c.getr = false → c.finished = false → c.cause = 0 → c.row = 0 → c.col = 0 → c.gets = [] → c.gathered = [] →
      s.coreStopped core = false → dROWS r = 1 → 1 ≤ dLEN r → dLEN r ≤ 64 - dDST r % 64 → dSwait r = false →
      c.checked = false → (∀ x, c.task = some x → x.ctx = ctx) → (s.ctx ctx).flooded = false →
      gaPkg (dSRC r) = s.pkg.toNat → gaPkg (dDST r) = s.pkg.toNat → s.agentKeys ctx (dSRC r) false 0 (dLEN r) = .ok ks →
      s.agentKeys ctx (dDST r) true 0 (dLEN r) = .ok kd → Quiet s (.engine core c.slot kCOPY) →
      s.blocked core (s.gaPlace ctx (dSRC r)) = false → s.blocked core (s.gaPlace ctx (dDST r)) = false →
      ∃ t c', exec (.copyTransfer core 0) s = .next t ∧ (t.core core).copy = [c'] ∧ c'.finished = true ∧
        c'.moved = c.moved + dLEN r ∧ Sent s t (.engine core c.slot kCOPY) kd (ks.map s.byte)) ∧
    (c.getr = false → c.finished = true → c.puts = [] → Mine s i c.task → Quiet s (.engine core c.slot kCOPY) →
      ∃ t, exec (.copydone core) s = .next t ∧ (t.core core).copy = [] ∧
        Completion s t i (if c.status = 0 then 0x10 else 0x11) (w64 c.moved) ∧ ∀ k, t.byte k = s.byte k) ∧
    (∀ bs kd, c.getr = true → c.gets = [] → c.finished = false → c.status = 0 → c.checked = false →
      (∀ x, c.task = some x → x.ctx = ctx) → (s.ctx ctx).flooded = false → gaPkg (dSRC r) = s.pkg.toNat →
      s.agentRead ctx (dSRC r) (dLEN r) = .ok bs → s.agentKeys ctx (dDST r) true 0 (dLEN r) = .ok kd →
      Quiet s (.engine core c.slot kGETR) →
      ∃ t, exec (.getdone core) s = .next t ∧ (t.core core).copy = [{ c with finished := true }] ∧
        Sent s t (.engine core c.slot kGETR) kd bs) ∧
    (c.getr = true → c.gets = [] → c.finished = true → Mine s i c.task → Quiet s (.engine core c.slot kGETR) →
      ∃ t, exec (.getdone core) s = .next t ∧ (t.core core).copy = [] ∧ Completion s t i 0x14 (w64 (dLEN r)) ∧
        ∀ k, t.byte k = s.byte k)) ∧
  (∀ (s : State) (die : Nat) (c : JCmd) (rest : List JCmd) (bs : List Byte) (ki kw kh : List Nat),
    (s.die die).jig = c :: rest → c.begun = true ∨ s.jigMayBegin c = true → (s.die die).fenced = false → c.pushed = false → c.bad = false → c.checked = false →
    Quiet s c.owner →
    let r := c.record
    jigOk s.pkg.toNat r = true → jNTOK r = 1 → jNEXP r = 1 → jK r = 1 → jNorm r = 0 → jBf r = false →
    (c.ended = true → Mine s c.issuer c.task →
      ∃ t, exec (.jigPass die 0) s = .next t ∧ (t.die die).jig = rest ∧ (∀ k, t.byte k = s.byte k) ∧
        Completion s t c.issuer 0x13 (w64 c.tok)) ∧
    (c.tok = 0 → c.ended = false → (∀ x, c.task = some x → x.ctx = c.ctx) → (s.ctx c.ctx).flooded = false →
    s.agentRead c.ctx (jSCORES r) 4 = .ok bs → s.agentKeys c.ctx (jIDX r) true 0 1 = .ok ki →
    s.agentKeys c.ctx (jWGT r) true 0 4 = .ok kw → s.agentKeys c.ctx (jHIST r) true 0 4 = .ok kh →
    (ki ++ kw).Nodup → (∀ k ∈ ki ++ kw, s.lostCell k = false) → NoneWaits s → memWf s.mem = true →
    ∃ t c', exec (.jigPass die 0) s = .next t ∧ (t.die die).jig = c' :: rest ∧ c'.ended = true ∧ c'.tok = 1 ∧
      c'.record = r ∧ c'.issuer = c.issuer ∧ c'.task = c.task ∧ Puts s t (ki ++ kw) ([0] ++ bs) ∧
      (t.unitWrites.filter (fun u => u.owner == c.owner)).flatMap (·.cells) = kh.zip [1, 0, 0, 0]))

/-- R4, R248 to R254: the words that the spec's encoding tables give for instructions of every page are decoded to those
instructions, and its illegal chains are refused. -/
def Obligations.DecodeWordsFromSpec : Prop :=
  (decode [0x7C64, 0x08A6] = .ok (.add ⟨false, false⟩ 5 6 (.imm [100]) false)) ∧
  (decode [0x7E91, 0x1868] = .ok (.div ⟨false, true⟩ 3 8 (.reg 9) true false)) ∧
  (decode [0x7C1F, 0x44A8] = .ok (.ldi false 5 ⟨[31], 8⟩)) ∧
  (decode [0x7801] = .ok (.tend false)) ∧
  (decode [0xFC01, 0x7E30, 0x0822] = .ok (.fadd ⟨false, true⟩ 1 2 3 false 0)) ∧
  (decode [0xFC01, 0x7E30, 0x1422] = .ok (.fma false 1 2 3 false false 0)) ∧
  (decode [0xFC02, 0x0485] = .ok (.vadd false 4 5)) ∧
  (decode [0xFC03, 0x7E04, 0x8443] = .ok (.mmI8P ⟨true, true⟩ 2 3 0 4 none)) ∧
  (decode [0xFC04, 0x7E01, 0x1D2A] = .ok (.inb ⟨false, true⟩ 9 10 true false)) ∧
  (decode [0xFC05, 0x7E71, 0x10A6] = .ok (.amo ⟨false, true⟩ 5 6 7 1)) ∧
  (decode [0xFC05, 0x7E71, 0x30A6] = .ok (.symg ⟨false, true⟩ 5 6 7 1)) ∧
  (decode [0xFC06, 0x7E70, 0x04A6] = .ok (.fork ⟨false, true⟩ 5 6 7)) ∧
  (decode [0xFC06, 0x1805] = .ok (.trap false ⟨[], 5⟩)) ∧
  (decode [0x7E12, 0xFC03, 0x0000] = .error .prefixOrder) ∧
  (decode [0xFC02, 0x7C01, 0x7C02, 0x7C03, 0x7C04, 0x0485] = .error .fifthPrefix) ∧
  (decode [0xFE00, 0x0485] = .error .prefixKind) ∧
  (decode [0xFC07, 0x0485] = .error .prefixOrder) ∧
  (decode [0xFC03, 0x3800] = .error .major)

/-- R248 to R254: no bit of an encoding is dropped. A well-formed instruction has at most five words, and they decode to it
whatever follows; and what decodes is the words of one well-formed instruction, followed by the rest. -/
def Obligations.DecodeEncode : Prop :=
  (∀ (i : Instr) (rest : List Half), i.wf = true → encode i ≠ [] →
    (encode i).length ≤ 5 ∧ decode (encode i ++ rest) = .ok i) ∧
  (∀ (ws : List Half) (i : Instr), decode ws = .ok i → i.wf = true ∧ ∃ rest, ws = encode i ++ rest)

/-- R103, R251: when it is a running core's turn, nothing of its clock is due before, the slot whose cycle it is acts, its
words are in the instruction cache and decode to an instruction, and the way to where that acts is free, a step is that
instruction executed and the end of the cycle, which moves no register but counters and no byte. When it is an event's turn
and nothing holds it back, a step is that event executed. Whose turn it is, by the agenda and by what is due, is the choice of
notes/assumptions/1.md. -/
def Obligations.StepRunsDecodedInstruction : Prop :=
  (∀ (s : State) (c : Nat) (rest : List Turn) (ins : Instr) (ws : List Half) (e : Option (Cause × Word)),
    let v : State := { s with agenda := rest }
    let u := v.modCore c (fun k => { k with beat := s.now + 1 })
    let i : SlotId := ⟨c, (s.core c).cyc.toNat % 8⟩
    s.serialDue = none → s.agenda = .cycle c :: rest → s.firstDue (s.clockedEvents c) = none → v.coreRuns c = true →
    (u.slot i).acts = true →
    u.supOver (u.slot i) = false → u.fetchWords (u.core c).tenant.toNat (u.slot i).arch.pc.toNat 5 = (ws, e) →
    decode ws = .ok ins → u.icMiss i (wordsOf ins) = [] → u.cannotSend i ins = false →
    step s = match exec ins { u with cur := i } with
      | .next t => .next (t.endCycle i (u.slot i))
      | o => o) ∧
  (∀ (s : State) (ev : Instr) (rest : List Turn), s.serialDue = none → s.agenda = .event ev :: rest →
    ({ s with agenda := rest } : State).heldBack ev = false → step s = exec ev { s with agenda := rest }) ∧
  (∀ (t : State) (i : SlotId) (before : Slot), i.slot < 8 →
    ((t.endCycle i before).core i.core).cyc = (t.core i.core).cyc + 1 ∧
    (∀ j, ((t.endCycle i before).slot j).arch = (t.slot j).arch) ∧ ∀ k, (t.endCycle i before).byte k = t.byte k)

/-- R9, R16, R23, R101, R107 to R109, R113, R149, R152: what the spec gives for cold start and for a slot's registers; the
model's choices (notes/assumptions/3.md and 4.md) are memory that nothing has written, which reads 0, the clock step of an
island, 13, die 0 as master and the power cap of 3,200 W. -/
def Obligations.ResetValues : Prop :=
  (∀ c, State.reset.core c = Core.reset) ∧ (∀ i : SlotId, i.slot < 8 → State.reset.slot i = Slot.reset) ∧
  (∀ n, Slot.reset.arch.getG n = 0) ∧
  (Slot.reset.status = .unowned ∧ Slot.reset.arch.waitlim = 0x100000000 ∧ Slot.reset.arch.chunkmax = 256 ∧
    Slot.reset.arch.fstat = 0 ∧ Slot.reset.arch.bereaved = 0 ∧ Slot.reset.arch.sup = false ∧ Slot.reset.arch.brv = false ∧
    Slot.reset.arch.trapped = false ∧ Slot.reset.arch.ap = false ∧ Slot.reset.arch.xvec = 0 ∧ Slot.reset.mstat = 0 ∧
    Slot.reset.squashes = 0 ∧ Slot.reset.scale = (0x3F800000, 0x3F800000)) ∧
  (Core.reset.cyc = 0 ∧ Core.reset.ncyc = 0 ∧ Core.reset.preemptdl = 65536 ∧ Core.reset.recastwait = 64 ∧
    Core.reset.finj = 0) ∧
  (∀ d, State.reset.die d = Die.reset) ∧ Die.reset.refc = 0 ∧ (∀ i, (State.reset.island i).step = 13) ∧
  State.reset.master = 0 ∧ State.reset.hf.powerCap = 3200 ∧ State.reset.hf.log = [] ∧
  (∀ c, (State.reset.ctx c).started = false ∧ (State.reset.ctx c).queues = [] ∧ (State.reset.ctx c).launches = []) ∧
  (∀ p, (State.reset.port p).counters = Vector.replicate 7 0) ∧ (∀ k, State.reset.byte k = 0) ∧ Inv State.reset

/-- Whatever a step does, memory stays in its canonical form and every core is listed once, in rising order. -/
def Obligations.StepKeepsInvariant : Prop :=
  ∀ (s t : State), Inv s → step s = .next t → Inv t
end

