-- ==== Sys2Proof/Laws/State.lean ====
section
/-!
SUPPORT. One lemma for each field under each update of the state, of a core and of a slot, true by rfl, so that no proof
unfolds a record update.
-/
namespace Sys2Proof.Machine

-- State.setDie
@[simp] theorem State.setDie_agenda (s : State) (d : Nat) (v : Die) : (s.setDie d v).agenda = s.agenda := rfl
@[simp] theorem State.setDie_inflight (s : State) (d : Nat) (v : Die) : (s.setDie d v).inflight = s.inflight := rfl
@[simp] theorem State.setDie_cur (s : State) (d : Nat) (v : Die) : (s.setDie d v).cur = s.cur := rfl
@[simp] theorem State.setDie_now (s : State) (d : Nat) (v : Die) : (s.setDie d v).now = s.now := rfl
@[simp] theorem State.setDie_fresh (s : State) (d : Nat) (v : Die) : (s.setDie d v).fresh = s.fresh := rfl
@[simp] theorem State.setDie_halted (s : State) (d : Nat) (v : Die) : (s.setDie d v).halted = s.halted := rfl
@[simp] theorem State.setDie_pkg (s : State) (d : Nat) (v : Die) : (s.setDie d v).pkg = s.pkg := rfl
@[simp] theorem State.setDie_mem (s : State) (d : Nat) (v : Die) : (s.setDie d v).mem = s.mem := rfl
@[simp] theorem State.setDie_full (s : State) (d : Nat) (v : Die) : (s.setDie d v).full = s.full := rfl
@[simp] theorem State.setDie_homeWrites (s : State) (d : Nat) (v : Die) : (s.setDie d v).homeWrites = s.homeWrites := rfl
@[simp] theorem State.setDie_unitWrites (s : State) (d : Nat) (v : Die) : (s.setDie d v).unitWrites = s.unitWrites := rfl
@[simp] theorem State.setDie_signals (s : State) (d : Nat) (v : Die) : (s.setDie d v).signals = s.signals := rfl
@[simp] theorem State.setDie_nextWrite (s : State) (d : Nat) (v : Die) : (s.setDie d v).nextWrite = s.nextWrite := rfl
@[simp] theorem State.setDie_relAt (s : State) (d : Nat) (v : Die) : (s.setDie d v).relAt = s.relAt := rfl
@[simp] theorem State.setDie_dies (s : State) (d : Nat) (v : Die) : (s.setDie d v).dies = tset s.dies d v := rfl
@[simp] theorem State.setDie_master (s : State) (d : Nat) (v : Die) : (s.setDie d v).master = s.master := rfl
@[simp] theorem State.setDie_electAt (s : State) (d : Nat) (v : Die) : (s.setDie d v).electAt = s.electAt := rfl
@[simp] theorem State.setDie_narrow (s : State) (d : Nat) (v : Die) : (s.setDie d v).narrow = s.narrow := rfl
@[simp] theorem State.setDie_islands (s : State) (d : Nat) (v : Die) : (s.setDie d v).islands = s.islands := rfl
@[simp] theorem State.setDie_cores (s : State) (d : Nat) (v : Die) : (s.setDie d v).cores = s.cores := rfl
@[simp] theorem State.setDie_ctxs (s : State) (d : Nat) (v : Die) : (s.setDie d v).ctxs = s.ctxs := rfl
@[simp] theorem State.setDie_images (s : State) (d : Nat) (v : Die) : (s.setDie d v).images = s.images := rfl
@[simp] theorem State.setDie_nextHandle (s : State) (d : Nat) (v : Die) : (s.setDie d v).nextHandle = s.nextHandle := rfl
@[simp] theorem State.setDie_lives (s : State) (d : Nat) (v : Die) : (s.setDie d v).lives = s.lives := rfl
@[simp] theorem State.setDie_ports (s : State) (d : Nat) (v : Die) : (s.setDie d v).ports = s.ports := rfl
@[simp] theorem State.setDie_routes (s : State) (d : Nat) (v : Die) : (s.setDie d v).routes = s.routes := rfl
@[simp] theorem State.setDie_flowsOut (s : State) (d : Nat) (v : Die) : (s.setDie d v).flowsOut = s.flowsOut := rfl
@[simp] theorem State.setDie_flowsIn (s : State) (d : Nat) (v : Die) : (s.setDie d v).flowsIn = s.flowsIn := rfl
@[simp] theorem State.setDie_respCache (s : State) (d : Nat) (v : Die) : (s.setDie d v).respCache = s.respCache := rfl
@[simp] theorem State.setDie_retSlots (s : State) (d : Nat) (v : Die) : (s.setDie d v).retSlots = s.retSlots := rfl
@[simp] theorem State.setDie_groups (s : State) (d : Nat) (v : Die) : (s.setDie d v).groups = s.groups := rfl
@[simp] theorem State.setDie_redto (s : State) (d : Nat) (v : Die) : (s.setDie d v).redto = s.redto := rfl
@[simp] theorem State.setDie_transit (s : State) (d : Nat) (v : Die) : (s.setDie d v).transit = s.transit := rfl
@[simp] theorem State.setDie_arrivals (s : State) (d : Nat) (v : Die) : (s.setDie d v).arrivals = s.arrivals := rfl
@[simp] theorem State.setDie_lnchWaits (s : State) (d : Nat) (v : Die) : (s.setDie d v).lnchWaits = s.lnchWaits := rfl
@[simp] theorem State.setDie_wdReads (s : State) (d : Nat) (v : Die) : (s.setDie d v).wdReads = s.wdReads := rfl
@[simp] theorem State.setDie_supWaiting (s : State) (d : Nat) (v : Die) : (s.setDie d v).supWaiting = s.supWaiting := rfl
@[simp] theorem State.setDie_reply (s : State) (d : Nat) (v : Die) : (s.setDie d v).reply = s.reply := rfl
@[simp] theorem State.setDie_tailings (s : State) (d : Nat) (v : Die) : (s.setDie d v).tailings = s.tailings := rfl
@[simp] theorem State.setDie_hf (s : State) (d : Nat) (v : Die) : (s.setDie d v).hf = s.hf := rfl

-- State.setCore
@[simp] theorem State.setCore_agenda (s : State) (c : Nat) (v : Core) : (s.setCore c v).agenda = s.agenda := rfl
@[simp] theorem State.setCore_inflight (s : State) (c : Nat) (v : Core) : (s.setCore c v).inflight = s.inflight := rfl
@[simp] theorem State.setCore_cur (s : State) (c : Nat) (v : Core) : (s.setCore c v).cur = s.cur := rfl
@[simp] theorem State.setCore_now (s : State) (c : Nat) (v : Core) : (s.setCore c v).now = s.now := rfl
@[simp] theorem State.setCore_fresh (s : State) (c : Nat) (v : Core) : (s.setCore c v).fresh = s.fresh := rfl
@[simp] theorem State.setCore_halted (s : State) (c : Nat) (v : Core) : (s.setCore c v).halted = s.halted := rfl
@[simp] theorem State.setCore_pkg (s : State) (c : Nat) (v : Core) : (s.setCore c v).pkg = s.pkg := rfl
@[simp] theorem State.setCore_mem (s : State) (c : Nat) (v : Core) : (s.setCore c v).mem = s.mem := rfl
@[simp] theorem State.setCore_full (s : State) (c : Nat) (v : Core) : (s.setCore c v).full = s.full := rfl
@[simp] theorem State.setCore_homeWrites (s : State) (c : Nat) (v : Core) : (s.setCore c v).homeWrites = s.homeWrites := rfl
@[simp] theorem State.setCore_unitWrites (s : State) (c : Nat) (v : Core) : (s.setCore c v).unitWrites = s.unitWrites := rfl
@[simp] theorem State.setCore_signals (s : State) (c : Nat) (v : Core) : (s.setCore c v).signals = s.signals := rfl
@[simp] theorem State.setCore_nextWrite (s : State) (c : Nat) (v : Core) : (s.setCore c v).nextWrite = s.nextWrite := rfl
@[simp] theorem State.setCore_relAt (s : State) (c : Nat) (v : Core) : (s.setCore c v).relAt = s.relAt := rfl
@[simp] theorem State.setCore_dies (s : State) (c : Nat) (v : Core) : (s.setCore c v).dies = s.dies := rfl
@[simp] theorem State.setCore_master (s : State) (c : Nat) (v : Core) : (s.setCore c v).master = s.master := rfl
@[simp] theorem State.setCore_electAt (s : State) (c : Nat) (v : Core) : (s.setCore c v).electAt = s.electAt := rfl
@[simp] theorem State.setCore_narrow (s : State) (c : Nat) (v : Core) : (s.setCore c v).narrow = s.narrow := rfl
@[simp] theorem State.setCore_islands (s : State) (c : Nat) (v : Core) : (s.setCore c v).islands = s.islands := rfl
@[simp] theorem State.setCore_cores (s : State) (c : Nat) (v : Core) : (s.setCore c v).cores = tset s.cores c v := rfl
@[simp] theorem State.setCore_ctxs (s : State) (c : Nat) (v : Core) : (s.setCore c v).ctxs = s.ctxs := rfl
@[simp] theorem State.setCore_images (s : State) (c : Nat) (v : Core) : (s.setCore c v).images = s.images := rfl
@[simp] theorem State.setCore_nextHandle (s : State) (c : Nat) (v : Core) : (s.setCore c v).nextHandle = s.nextHandle := rfl
@[simp] theorem State.setCore_lives (s : State) (c : Nat) (v : Core) : (s.setCore c v).lives = s.lives := rfl
@[simp] theorem State.setCore_ports (s : State) (c : Nat) (v : Core) : (s.setCore c v).ports = s.ports := rfl
@[simp] theorem State.setCore_routes (s : State) (c : Nat) (v : Core) : (s.setCore c v).routes = s.routes := rfl
@[simp] theorem State.setCore_flowsOut (s : State) (c : Nat) (v : Core) : (s.setCore c v).flowsOut = s.flowsOut := rfl
@[simp] theorem State.setCore_flowsIn (s : State) (c : Nat) (v : Core) : (s.setCore c v).flowsIn = s.flowsIn := rfl
@[simp] theorem State.setCore_respCache (s : State) (c : Nat) (v : Core) : (s.setCore c v).respCache = s.respCache := rfl
@[simp] theorem State.setCore_retSlots (s : State) (c : Nat) (v : Core) : (s.setCore c v).retSlots = s.retSlots := rfl
@[simp] theorem State.setCore_groups (s : State) (c : Nat) (v : Core) : (s.setCore c v).groups = s.groups := rfl
@[simp] theorem State.setCore_redto (s : State) (c : Nat) (v : Core) : (s.setCore c v).redto = s.redto := rfl
@[simp] theorem State.setCore_transit (s : State) (c : Nat) (v : Core) : (s.setCore c v).transit = s.transit := rfl
@[simp] theorem State.setCore_arrivals (s : State) (c : Nat) (v : Core) : (s.setCore c v).arrivals = s.arrivals := rfl
@[simp] theorem State.setCore_lnchWaits (s : State) (c : Nat) (v : Core) : (s.setCore c v).lnchWaits = s.lnchWaits := rfl
@[simp] theorem State.setCore_wdReads (s : State) (c : Nat) (v : Core) : (s.setCore c v).wdReads = s.wdReads := rfl
@[simp] theorem State.setCore_supWaiting (s : State) (c : Nat) (v : Core) : (s.setCore c v).supWaiting = s.supWaiting := rfl
@[simp] theorem State.setCore_reply (s : State) (c : Nat) (v : Core) : (s.setCore c v).reply = s.reply := rfl
@[simp] theorem State.setCore_tailings (s : State) (c : Nat) (v : Core) : (s.setCore c v).tailings = s.tailings := rfl
@[simp] theorem State.setCore_hf (s : State) (c : Nat) (v : Core) : (s.setCore c v).hf = s.hf := rfl

-- State.setCtx
@[simp] theorem State.setCtx_agenda (s : State) (c : Nat) (v : Ctx) : (s.setCtx c v).agenda = s.agenda := rfl
@[simp] theorem State.setCtx_inflight (s : State) (c : Nat) (v : Ctx) : (s.setCtx c v).inflight = s.inflight := rfl
@[simp] theorem State.setCtx_cur (s : State) (c : Nat) (v : Ctx) : (s.setCtx c v).cur = s.cur := rfl
@[simp] theorem State.setCtx_now (s : State) (c : Nat) (v : Ctx) : (s.setCtx c v).now = s.now := rfl
@[simp] theorem State.setCtx_fresh (s : State) (c : Nat) (v : Ctx) : (s.setCtx c v).fresh = s.fresh := rfl
@[simp] theorem State.setCtx_halted (s : State) (c : Nat) (v : Ctx) : (s.setCtx c v).halted = s.halted := rfl
@[simp] theorem State.setCtx_pkg (s : State) (c : Nat) (v : Ctx) : (s.setCtx c v).pkg = s.pkg := rfl
@[simp] theorem State.setCtx_mem (s : State) (c : Nat) (v : Ctx) : (s.setCtx c v).mem = s.mem := rfl
@[simp] theorem State.setCtx_full (s : State) (c : Nat) (v : Ctx) : (s.setCtx c v).full = s.full := rfl
@[simp] theorem State.setCtx_homeWrites (s : State) (c : Nat) (v : Ctx) : (s.setCtx c v).homeWrites = s.homeWrites := rfl
@[simp] theorem State.setCtx_unitWrites (s : State) (c : Nat) (v : Ctx) : (s.setCtx c v).unitWrites = s.unitWrites := rfl
@[simp] theorem State.setCtx_signals (s : State) (c : Nat) (v : Ctx) : (s.setCtx c v).signals = s.signals := rfl
@[simp] theorem State.setCtx_nextWrite (s : State) (c : Nat) (v : Ctx) : (s.setCtx c v).nextWrite = s.nextWrite := rfl
@[simp] theorem State.setCtx_relAt (s : State) (c : Nat) (v : Ctx) : (s.setCtx c v).relAt = s.relAt := rfl
@[simp] theorem State.setCtx_dies (s : State) (c : Nat) (v : Ctx) : (s.setCtx c v).dies = s.dies := rfl
@[simp] theorem State.setCtx_master (s : State) (c : Nat) (v : Ctx) : (s.setCtx c v).master = s.master := rfl
@[simp] theorem State.setCtx_electAt (s : State) (c : Nat) (v : Ctx) : (s.setCtx c v).electAt = s.electAt := rfl
@[simp] theorem State.setCtx_narrow (s : State) (c : Nat) (v : Ctx) : (s.setCtx c v).narrow = s.narrow := rfl
@[simp] theorem State.setCtx_islands (s : State) (c : Nat) (v : Ctx) : (s.setCtx c v).islands = s.islands := rfl
@[simp] theorem State.setCtx_cores (s : State) (c : Nat) (v : Ctx) : (s.setCtx c v).cores = s.cores := rfl
@[simp] theorem State.setCtx_ctxs (s : State) (c : Nat) (v : Ctx) : (s.setCtx c v).ctxs = tset s.ctxs c v := rfl
@[simp] theorem State.setCtx_images (s : State) (c : Nat) (v : Ctx) : (s.setCtx c v).images = s.images := rfl
@[simp] theorem State.setCtx_nextHandle (s : State) (c : Nat) (v : Ctx) : (s.setCtx c v).nextHandle = s.nextHandle := rfl
@[simp] theorem State.setCtx_lives (s : State) (c : Nat) (v : Ctx) : (s.setCtx c v).lives = s.lives := rfl
@[simp] theorem State.setCtx_ports (s : State) (c : Nat) (v : Ctx) : (s.setCtx c v).ports = s.ports := rfl
@[simp] theorem State.setCtx_routes (s : State) (c : Nat) (v : Ctx) : (s.setCtx c v).routes = s.routes := rfl
@[simp] theorem State.setCtx_flowsOut (s : State) (c : Nat) (v : Ctx) : (s.setCtx c v).flowsOut = s.flowsOut := rfl
@[simp] theorem State.setCtx_flowsIn (s : State) (c : Nat) (v : Ctx) : (s.setCtx c v).flowsIn = s.flowsIn := rfl
@[simp] theorem State.setCtx_respCache (s : State) (c : Nat) (v : Ctx) : (s.setCtx c v).respCache = s.respCache := rfl
@[simp] theorem State.setCtx_retSlots (s : State) (c : Nat) (v : Ctx) : (s.setCtx c v).retSlots = s.retSlots := rfl
@[simp] theorem State.setCtx_groups (s : State) (c : Nat) (v : Ctx) : (s.setCtx c v).groups = s.groups := rfl
@[simp] theorem State.setCtx_redto (s : State) (c : Nat) (v : Ctx) : (s.setCtx c v).redto = s.redto := rfl
@[simp] theorem State.setCtx_transit (s : State) (c : Nat) (v : Ctx) : (s.setCtx c v).transit = s.transit := rfl
@[simp] theorem State.setCtx_arrivals (s : State) (c : Nat) (v : Ctx) : (s.setCtx c v).arrivals = s.arrivals := rfl
@[simp] theorem State.setCtx_lnchWaits (s : State) (c : Nat) (v : Ctx) : (s.setCtx c v).lnchWaits = s.lnchWaits := rfl
@[simp] theorem State.setCtx_wdReads (s : State) (c : Nat) (v : Ctx) : (s.setCtx c v).wdReads = s.wdReads := rfl
@[simp] theorem State.setCtx_supWaiting (s : State) (c : Nat) (v : Ctx) : (s.setCtx c v).supWaiting = s.supWaiting := rfl
@[simp] theorem State.setCtx_reply (s : State) (c : Nat) (v : Ctx) : (s.setCtx c v).reply = s.reply := rfl
@[simp] theorem State.setCtx_tailings (s : State) (c : Nat) (v : Ctx) : (s.setCtx c v).tailings = s.tailings := rfl
@[simp] theorem State.setCtx_hf (s : State) (c : Nat) (v : Ctx) : (s.setCtx c v).hf = s.hf := rfl

-- State.setIsland
@[simp] theorem State.setIsland_agenda (s : State) (i : Nat) (v : Island) : (s.setIsland i v).agenda = s.agenda := rfl
@[simp] theorem State.setIsland_inflight (s : State) (i : Nat) (v : Island) : (s.setIsland i v).inflight = s.inflight := rfl
@[simp] theorem State.setIsland_cur (s : State) (i : Nat) (v : Island) : (s.setIsland i v).cur = s.cur := rfl
@[simp] theorem State.setIsland_now (s : State) (i : Nat) (v : Island) : (s.setIsland i v).now = s.now := rfl
@[simp] theorem State.setIsland_fresh (s : State) (i : Nat) (v : Island) : (s.setIsland i v).fresh = s.fresh := rfl
@[simp] theorem State.setIsland_halted (s : State) (i : Nat) (v : Island) : (s.setIsland i v).halted = s.halted := rfl
@[simp] theorem State.setIsland_pkg (s : State) (i : Nat) (v : Island) : (s.setIsland i v).pkg = s.pkg := rfl
@[simp] theorem State.setIsland_mem (s : State) (i : Nat) (v : Island) : (s.setIsland i v).mem = s.mem := rfl
@[simp] theorem State.setIsland_full (s : State) (i : Nat) (v : Island) : (s.setIsland i v).full = s.full := rfl
@[simp] theorem State.setIsland_homeWrites (s : State) (i : Nat) (v : Island) : (s.setIsland i v).homeWrites = s.homeWrites := rfl
@[simp] theorem State.setIsland_unitWrites (s : State) (i : Nat) (v : Island) : (s.setIsland i v).unitWrites = s.unitWrites := rfl
@[simp] theorem State.setIsland_signals (s : State) (i : Nat) (v : Island) : (s.setIsland i v).signals = s.signals := rfl
@[simp] theorem State.setIsland_nextWrite (s : State) (i : Nat) (v : Island) : (s.setIsland i v).nextWrite = s.nextWrite := rfl
@[simp] theorem State.setIsland_relAt (s : State) (i : Nat) (v : Island) : (s.setIsland i v).relAt = s.relAt := rfl
@[simp] theorem State.setIsland_dies (s : State) (i : Nat) (v : Island) : (s.setIsland i v).dies = s.dies := rfl
@[simp] theorem State.setIsland_master (s : State) (i : Nat) (v : Island) : (s.setIsland i v).master = s.master := rfl
@[simp] theorem State.setIsland_electAt (s : State) (i : Nat) (v : Island) : (s.setIsland i v).electAt = s.electAt := rfl
@[simp] theorem State.setIsland_narrow (s : State) (i : Nat) (v : Island) : (s.setIsland i v).narrow = s.narrow := rfl
@[simp] theorem State.setIsland_islands (s : State) (i : Nat) (v : Island) : (s.setIsland i v).islands = tset s.islands i v := rfl
@[simp] theorem State.setIsland_cores (s : State) (i : Nat) (v : Island) : (s.setIsland i v).cores = s.cores := rfl
@[simp] theorem State.setIsland_ctxs (s : State) (i : Nat) (v : Island) : (s.setIsland i v).ctxs = s.ctxs := rfl
@[simp] theorem State.setIsland_images (s : State) (i : Nat) (v : Island) : (s.setIsland i v).images = s.images := rfl
@[simp] theorem State.setIsland_nextHandle (s : State) (i : Nat) (v : Island) : (s.setIsland i v).nextHandle = s.nextHandle := rfl
@[simp] theorem State.setIsland_lives (s : State) (i : Nat) (v : Island) : (s.setIsland i v).lives = s.lives := rfl
@[simp] theorem State.setIsland_ports (s : State) (i : Nat) (v : Island) : (s.setIsland i v).ports = s.ports := rfl
@[simp] theorem State.setIsland_routes (s : State) (i : Nat) (v : Island) : (s.setIsland i v).routes = s.routes := rfl
@[simp] theorem State.setIsland_flowsOut (s : State) (i : Nat) (v : Island) : (s.setIsland i v).flowsOut = s.flowsOut := rfl
@[simp] theorem State.setIsland_flowsIn (s : State) (i : Nat) (v : Island) : (s.setIsland i v).flowsIn = s.flowsIn := rfl
@[simp] theorem State.setIsland_respCache (s : State) (i : Nat) (v : Island) : (s.setIsland i v).respCache = s.respCache := rfl
@[simp] theorem State.setIsland_retSlots (s : State) (i : Nat) (v : Island) : (s.setIsland i v).retSlots = s.retSlots := rfl
@[simp] theorem State.setIsland_groups (s : State) (i : Nat) (v : Island) : (s.setIsland i v).groups = s.groups := rfl
@[simp] theorem State.setIsland_redto (s : State) (i : Nat) (v : Island) : (s.setIsland i v).redto = s.redto := rfl
@[simp] theorem State.setIsland_transit (s : State) (i : Nat) (v : Island) : (s.setIsland i v).transit = s.transit := rfl
@[simp] theorem State.setIsland_arrivals (s : State) (i : Nat) (v : Island) : (s.setIsland i v).arrivals = s.arrivals := rfl
@[simp] theorem State.setIsland_lnchWaits (s : State) (i : Nat) (v : Island) : (s.setIsland i v).lnchWaits = s.lnchWaits := rfl
@[simp] theorem State.setIsland_wdReads (s : State) (i : Nat) (v : Island) : (s.setIsland i v).wdReads = s.wdReads := rfl
@[simp] theorem State.setIsland_supWaiting (s : State) (i : Nat) (v : Island) : (s.setIsland i v).supWaiting = s.supWaiting := rfl
@[simp] theorem State.setIsland_reply (s : State) (i : Nat) (v : Island) : (s.setIsland i v).reply = s.reply := rfl
@[simp] theorem State.setIsland_tailings (s : State) (i : Nat) (v : Island) : (s.setIsland i v).tailings = s.tailings := rfl
@[simp] theorem State.setIsland_hf (s : State) (i : Nat) (v : Island) : (s.setIsland i v).hf = s.hf := rfl

-- State.setPort
@[simp] theorem State.setPort_agenda (s : State) (p : Nat) (v : Port) : (s.setPort p v).agenda = s.agenda := rfl
@[simp] theorem State.setPort_inflight (s : State) (p : Nat) (v : Port) : (s.setPort p v).inflight = s.inflight := rfl
@[simp] theorem State.setPort_cur (s : State) (p : Nat) (v : Port) : (s.setPort p v).cur = s.cur := rfl
@[simp] theorem State.setPort_now (s : State) (p : Nat) (v : Port) : (s.setPort p v).now = s.now := rfl
@[simp] theorem State.setPort_fresh (s : State) (p : Nat) (v : Port) : (s.setPort p v).fresh = s.fresh := rfl
@[simp] theorem State.setPort_halted (s : State) (p : Nat) (v : Port) : (s.setPort p v).halted = s.halted := rfl
@[simp] theorem State.setPort_pkg (s : State) (p : Nat) (v : Port) : (s.setPort p v).pkg = s.pkg := rfl
@[simp] theorem State.setPort_mem (s : State) (p : Nat) (v : Port) : (s.setPort p v).mem = s.mem := rfl
@[simp] theorem State.setPort_full (s : State) (p : Nat) (v : Port) : (s.setPort p v).full = s.full := rfl
@[simp] theorem State.setPort_homeWrites (s : State) (p : Nat) (v : Port) : (s.setPort p v).homeWrites = s.homeWrites := rfl
@[simp] theorem State.setPort_unitWrites (s : State) (p : Nat) (v : Port) : (s.setPort p v).unitWrites = s.unitWrites := rfl
@[simp] theorem State.setPort_signals (s : State) (p : Nat) (v : Port) : (s.setPort p v).signals = s.signals := rfl
@[simp] theorem State.setPort_nextWrite (s : State) (p : Nat) (v : Port) : (s.setPort p v).nextWrite = s.nextWrite := rfl
@[simp] theorem State.setPort_relAt (s : State) (p : Nat) (v : Port) : (s.setPort p v).relAt = s.relAt := rfl
@[simp] theorem State.setPort_dies (s : State) (p : Nat) (v : Port) : (s.setPort p v).dies = s.dies := rfl
@[simp] theorem State.setPort_master (s : State) (p : Nat) (v : Port) : (s.setPort p v).master = s.master := rfl
@[simp] theorem State.setPort_electAt (s : State) (p : Nat) (v : Port) : (s.setPort p v).electAt = s.electAt := rfl
@[simp] theorem State.setPort_narrow (s : State) (p : Nat) (v : Port) : (s.setPort p v).narrow = s.narrow := rfl
@[simp] theorem State.setPort_islands (s : State) (p : Nat) (v : Port) : (s.setPort p v).islands = s.islands := rfl
@[simp] theorem State.setPort_cores (s : State) (p : Nat) (v : Port) : (s.setPort p v).cores = s.cores := rfl
@[simp] theorem State.setPort_ctxs (s : State) (p : Nat) (v : Port) : (s.setPort p v).ctxs = s.ctxs := rfl
@[simp] theorem State.setPort_images (s : State) (p : Nat) (v : Port) : (s.setPort p v).images = s.images := rfl
@[simp] theorem State.setPort_nextHandle (s : State) (p : Nat) (v : Port) : (s.setPort p v).nextHandle = s.nextHandle := rfl
@[simp] theorem State.setPort_lives (s : State) (p : Nat) (v : Port) : (s.setPort p v).lives = s.lives := rfl
@[simp] theorem State.setPort_ports (s : State) (p : Nat) (v : Port) : (s.setPort p v).ports = tset s.ports p v := rfl
@[simp] theorem State.setPort_routes (s : State) (p : Nat) (v : Port) : (s.setPort p v).routes = s.routes := rfl
@[simp] theorem State.setPort_flowsOut (s : State) (p : Nat) (v : Port) : (s.setPort p v).flowsOut = s.flowsOut := rfl
@[simp] theorem State.setPort_flowsIn (s : State) (p : Nat) (v : Port) : (s.setPort p v).flowsIn = s.flowsIn := rfl
@[simp] theorem State.setPort_respCache (s : State) (p : Nat) (v : Port) : (s.setPort p v).respCache = s.respCache := rfl
@[simp] theorem State.setPort_retSlots (s : State) (p : Nat) (v : Port) : (s.setPort p v).retSlots = s.retSlots := rfl
@[simp] theorem State.setPort_groups (s : State) (p : Nat) (v : Port) : (s.setPort p v).groups = s.groups := rfl
@[simp] theorem State.setPort_redto (s : State) (p : Nat) (v : Port) : (s.setPort p v).redto = s.redto := rfl
@[simp] theorem State.setPort_transit (s : State) (p : Nat) (v : Port) : (s.setPort p v).transit = s.transit := rfl
@[simp] theorem State.setPort_arrivals (s : State) (p : Nat) (v : Port) : (s.setPort p v).arrivals = s.arrivals := rfl
@[simp] theorem State.setPort_lnchWaits (s : State) (p : Nat) (v : Port) : (s.setPort p v).lnchWaits = s.lnchWaits := rfl
@[simp] theorem State.setPort_wdReads (s : State) (p : Nat) (v : Port) : (s.setPort p v).wdReads = s.wdReads := rfl
@[simp] theorem State.setPort_supWaiting (s : State) (p : Nat) (v : Port) : (s.setPort p v).supWaiting = s.supWaiting := rfl
@[simp] theorem State.setPort_reply (s : State) (p : Nat) (v : Port) : (s.setPort p v).reply = s.reply := rfl
@[simp] theorem State.setPort_tailings (s : State) (p : Nat) (v : Port) : (s.setPort p v).tailings = s.tailings := rfl
@[simp] theorem State.setPort_hf (s : State) (p : Nat) (v : Port) : (s.setPort p v).hf = s.hf := rfl

-- State.setGroup
@[simp] theorem State.setGroup_agenda (s : State) (g : Nat) (v : Group) : (s.setGroup g v).agenda = s.agenda := rfl
@[simp] theorem State.setGroup_inflight (s : State) (g : Nat) (v : Group) : (s.setGroup g v).inflight = s.inflight := rfl
@[simp] theorem State.setGroup_cur (s : State) (g : Nat) (v : Group) : (s.setGroup g v).cur = s.cur := rfl
@[simp] theorem State.setGroup_now (s : State) (g : Nat) (v : Group) : (s.setGroup g v).now = s.now := rfl
@[simp] theorem State.setGroup_fresh (s : State) (g : Nat) (v : Group) : (s.setGroup g v).fresh = s.fresh := rfl
@[simp] theorem State.setGroup_halted (s : State) (g : Nat) (v : Group) : (s.setGroup g v).halted = s.halted := rfl
@[simp] theorem State.setGroup_pkg (s : State) (g : Nat) (v : Group) : (s.setGroup g v).pkg = s.pkg := rfl
@[simp] theorem State.setGroup_mem (s : State) (g : Nat) (v : Group) : (s.setGroup g v).mem = s.mem := rfl
@[simp] theorem State.setGroup_full (s : State) (g : Nat) (v : Group) : (s.setGroup g v).full = s.full := rfl
@[simp] theorem State.setGroup_homeWrites (s : State) (g : Nat) (v : Group) : (s.setGroup g v).homeWrites = s.homeWrites := rfl
@[simp] theorem State.setGroup_unitWrites (s : State) (g : Nat) (v : Group) : (s.setGroup g v).unitWrites = s.unitWrites := rfl
@[simp] theorem State.setGroup_signals (s : State) (g : Nat) (v : Group) : (s.setGroup g v).signals = s.signals := rfl
@[simp] theorem State.setGroup_nextWrite (s : State) (g : Nat) (v : Group) : (s.setGroup g v).nextWrite = s.nextWrite := rfl
@[simp] theorem State.setGroup_relAt (s : State) (g : Nat) (v : Group) : (s.setGroup g v).relAt = s.relAt := rfl
@[simp] theorem State.setGroup_dies (s : State) (g : Nat) (v : Group) : (s.setGroup g v).dies = s.dies := rfl
@[simp] theorem State.setGroup_master (s : State) (g : Nat) (v : Group) : (s.setGroup g v).master = s.master := rfl
@[simp] theorem State.setGroup_electAt (s : State) (g : Nat) (v : Group) : (s.setGroup g v).electAt = s.electAt := rfl
@[simp] theorem State.setGroup_narrow (s : State) (g : Nat) (v : Group) : (s.setGroup g v).narrow = s.narrow := rfl
@[simp] theorem State.setGroup_islands (s : State) (g : Nat) (v : Group) : (s.setGroup g v).islands = s.islands := rfl
@[simp] theorem State.setGroup_cores (s : State) (g : Nat) (v : Group) : (s.setGroup g v).cores = s.cores := rfl
@[simp] theorem State.setGroup_ctxs (s : State) (g : Nat) (v : Group) : (s.setGroup g v).ctxs = s.ctxs := rfl
@[simp] theorem State.setGroup_images (s : State) (g : Nat) (v : Group) : (s.setGroup g v).images = s.images := rfl
@[simp] theorem State.setGroup_nextHandle (s : State) (g : Nat) (v : Group) : (s.setGroup g v).nextHandle = s.nextHandle := rfl
@[simp] theorem State.setGroup_lives (s : State) (g : Nat) (v : Group) : (s.setGroup g v).lives = s.lives := rfl
@[simp] theorem State.setGroup_ports (s : State) (g : Nat) (v : Group) : (s.setGroup g v).ports = s.ports := rfl
@[simp] theorem State.setGroup_routes (s : State) (g : Nat) (v : Group) : (s.setGroup g v).routes = s.routes := rfl
@[simp] theorem State.setGroup_flowsOut (s : State) (g : Nat) (v : Group) : (s.setGroup g v).flowsOut = s.flowsOut := rfl
@[simp] theorem State.setGroup_flowsIn (s : State) (g : Nat) (v : Group) : (s.setGroup g v).flowsIn = s.flowsIn := rfl
@[simp] theorem State.setGroup_respCache (s : State) (g : Nat) (v : Group) : (s.setGroup g v).respCache = s.respCache := rfl
@[simp] theorem State.setGroup_retSlots (s : State) (g : Nat) (v : Group) : (s.setGroup g v).retSlots = s.retSlots := rfl
@[simp] theorem State.setGroup_groups (s : State) (g : Nat) (v : Group) : (s.setGroup g v).groups = tset s.groups g v := rfl
@[simp] theorem State.setGroup_redto (s : State) (g : Nat) (v : Group) : (s.setGroup g v).redto = s.redto := rfl
@[simp] theorem State.setGroup_transit (s : State) (g : Nat) (v : Group) : (s.setGroup g v).transit = s.transit := rfl
@[simp] theorem State.setGroup_arrivals (s : State) (g : Nat) (v : Group) : (s.setGroup g v).arrivals = s.arrivals := rfl
@[simp] theorem State.setGroup_lnchWaits (s : State) (g : Nat) (v : Group) : (s.setGroup g v).lnchWaits = s.lnchWaits := rfl
@[simp] theorem State.setGroup_wdReads (s : State) (g : Nat) (v : Group) : (s.setGroup g v).wdReads = s.wdReads := rfl
@[simp] theorem State.setGroup_supWaiting (s : State) (g : Nat) (v : Group) : (s.setGroup g v).supWaiting = s.supWaiting := rfl
@[simp] theorem State.setGroup_reply (s : State) (g : Nat) (v : Group) : (s.setGroup g v).reply = s.reply := rfl
@[simp] theorem State.setGroup_tailings (s : State) (g : Nat) (v : Group) : (s.setGroup g v).tailings = s.tailings := rfl
@[simp] theorem State.setGroup_hf (s : State) (g : Nat) (v : Group) : (s.setGroup g v).hf = s.hf := rfl

-- State.setSlot
@[simp] theorem State.setSlot_agenda (s : State) (i : SlotId) (v : Slot) : (s.setSlot i v).agenda = s.agenda := rfl
@[simp] theorem State.setSlot_inflight (s : State) (i : SlotId) (v : Slot) : (s.setSlot i v).inflight = s.inflight := rfl
@[simp] theorem State.setSlot_cur (s : State) (i : SlotId) (v : Slot) : (s.setSlot i v).cur = s.cur := rfl
@[simp] theorem State.setSlot_now (s : State) (i : SlotId) (v : Slot) : (s.setSlot i v).now = s.now := rfl
@[simp] theorem State.setSlot_fresh (s : State) (i : SlotId) (v : Slot) : (s.setSlot i v).fresh = s.fresh := rfl
@[simp] theorem State.setSlot_halted (s : State) (i : SlotId) (v : Slot) : (s.setSlot i v).halted = s.halted := rfl
@[simp] theorem State.setSlot_pkg (s : State) (i : SlotId) (v : Slot) : (s.setSlot i v).pkg = s.pkg := rfl
@[simp] theorem State.setSlot_mem (s : State) (i : SlotId) (v : Slot) : (s.setSlot i v).mem = s.mem := rfl
@[simp] theorem State.setSlot_full (s : State) (i : SlotId) (v : Slot) : (s.setSlot i v).full = s.full := rfl
@[simp] theorem State.setSlot_homeWrites (s : State) (i : SlotId) (v : Slot) : (s.setSlot i v).homeWrites = s.homeWrites := rfl
@[simp] theorem State.setSlot_unitWrites (s : State) (i : SlotId) (v : Slot) : (s.setSlot i v).unitWrites = s.unitWrites := rfl
@[simp] theorem State.setSlot_signals (s : State) (i : SlotId) (v : Slot) : (s.setSlot i v).signals = s.signals := rfl
@[simp] theorem State.setSlot_nextWrite (s : State) (i : SlotId) (v : Slot) : (s.setSlot i v).nextWrite = s.nextWrite := rfl
@[simp] theorem State.setSlot_relAt (s : State) (i : SlotId) (v : Slot) : (s.setSlot i v).relAt = s.relAt := rfl
@[simp] theorem State.setSlot_dies (s : State) (i : SlotId) (v : Slot) : (s.setSlot i v).dies = s.dies := rfl
@[simp] theorem State.setSlot_master (s : State) (i : SlotId) (v : Slot) : (s.setSlot i v).master = s.master := rfl
@[simp] theorem State.setSlot_electAt (s : State) (i : SlotId) (v : Slot) : (s.setSlot i v).electAt = s.electAt := rfl
@[simp] theorem State.setSlot_narrow (s : State) (i : SlotId) (v : Slot) : (s.setSlot i v).narrow = s.narrow := rfl
@[simp] theorem State.setSlot_islands (s : State) (i : SlotId) (v : Slot) : (s.setSlot i v).islands = s.islands := rfl
@[simp] theorem State.setSlot_cores (s : State) (i : SlotId) (v : Slot) : (s.setSlot i v).cores = tset s.cores i.core ((s.core i.core).setSlot i.slot v) := rfl
@[simp] theorem State.setSlot_ctxs (s : State) (i : SlotId) (v : Slot) : (s.setSlot i v).ctxs = s.ctxs := rfl
@[simp] theorem State.setSlot_images (s : State) (i : SlotId) (v : Slot) : (s.setSlot i v).images = s.images := rfl
@[simp] theorem State.setSlot_nextHandle (s : State) (i : SlotId) (v : Slot) : (s.setSlot i v).nextHandle = s.nextHandle := rfl
@[simp] theorem State.setSlot_lives (s : State) (i : SlotId) (v : Slot) : (s.setSlot i v).lives = s.lives := rfl
@[simp] theorem State.setSlot_ports (s : State) (i : SlotId) (v : Slot) : (s.setSlot i v).ports = s.ports := rfl
@[simp] theorem State.setSlot_routes (s : State) (i : SlotId) (v : Slot) : (s.setSlot i v).routes = s.routes := rfl
@[simp] theorem State.setSlot_flowsOut (s : State) (i : SlotId) (v : Slot) : (s.setSlot i v).flowsOut = s.flowsOut := rfl
@[simp] theorem State.setSlot_flowsIn (s : State) (i : SlotId) (v : Slot) : (s.setSlot i v).flowsIn = s.flowsIn := rfl
@[simp] theorem State.setSlot_respCache (s : State) (i : SlotId) (v : Slot) : (s.setSlot i v).respCache = s.respCache := rfl
@[simp] theorem State.setSlot_retSlots (s : State) (i : SlotId) (v : Slot) : (s.setSlot i v).retSlots = s.retSlots := rfl
@[simp] theorem State.setSlot_groups (s : State) (i : SlotId) (v : Slot) : (s.setSlot i v).groups = s.groups := rfl
@[simp] theorem State.setSlot_redto (s : State) (i : SlotId) (v : Slot) : (s.setSlot i v).redto = s.redto := rfl
@[simp] theorem State.setSlot_transit (s : State) (i : SlotId) (v : Slot) : (s.setSlot i v).transit = s.transit := rfl
@[simp] theorem State.setSlot_arrivals (s : State) (i : SlotId) (v : Slot) : (s.setSlot i v).arrivals = s.arrivals := rfl
@[simp] theorem State.setSlot_lnchWaits (s : State) (i : SlotId) (v : Slot) : (s.setSlot i v).lnchWaits = s.lnchWaits := rfl
@[simp] theorem State.setSlot_wdReads (s : State) (i : SlotId) (v : Slot) : (s.setSlot i v).wdReads = s.wdReads := rfl
@[simp] theorem State.setSlot_supWaiting (s : State) (i : SlotId) (v : Slot) : (s.setSlot i v).supWaiting = s.supWaiting := rfl
@[simp] theorem State.setSlot_reply (s : State) (i : SlotId) (v : Slot) : (s.setSlot i v).reply = s.reply := rfl
@[simp] theorem State.setSlot_tailings (s : State) (i : SlotId) (v : Slot) : (s.setSlot i v).tailings = s.tailings := rfl
@[simp] theorem State.setSlot_hf (s : State) (i : SlotId) (v : Slot) : (s.setSlot i v).hf = s.hf := rfl

-- State.setMe
@[simp] theorem State.setMe_agenda (s : State) (v : Slot) : (s.setMe v).agenda = s.agenda := rfl
@[simp] theorem State.setMe_inflight (s : State) (v : Slot) : (s.setMe v).inflight = s.inflight := rfl
@[simp] theorem State.setMe_cur (s : State) (v : Slot) : (s.setMe v).cur = s.cur := rfl
@[simp] theorem State.setMe_now (s : State) (v : Slot) : (s.setMe v).now = s.now := rfl
@[simp] theorem State.setMe_fresh (s : State) (v : Slot) : (s.setMe v).fresh = s.fresh := rfl
@[simp] theorem State.setMe_halted (s : State) (v : Slot) : (s.setMe v).halted = s.halted := rfl
@[simp] theorem State.setMe_pkg (s : State) (v : Slot) : (s.setMe v).pkg = s.pkg := rfl
@[simp] theorem State.setMe_mem (s : State) (v : Slot) : (s.setMe v).mem = s.mem := rfl
@[simp] theorem State.setMe_full (s : State) (v : Slot) : (s.setMe v).full = s.full := rfl
@[simp] theorem State.setMe_homeWrites (s : State) (v : Slot) : (s.setMe v).homeWrites = s.homeWrites := rfl
@[simp] theorem State.setMe_unitWrites (s : State) (v : Slot) : (s.setMe v).unitWrites = s.unitWrites := rfl
@[simp] theorem State.setMe_signals (s : State) (v : Slot) : (s.setMe v).signals = s.signals := rfl
@[simp] theorem State.setMe_nextWrite (s : State) (v : Slot) : (s.setMe v).nextWrite = s.nextWrite := rfl
@[simp] theorem State.setMe_relAt (s : State) (v : Slot) : (s.setMe v).relAt = s.relAt := rfl
@[simp] theorem State.setMe_dies (s : State) (v : Slot) : (s.setMe v).dies = s.dies := rfl
@[simp] theorem State.setMe_master (s : State) (v : Slot) : (s.setMe v).master = s.master := rfl
@[simp] theorem State.setMe_electAt (s : State) (v : Slot) : (s.setMe v).electAt = s.electAt := rfl
@[simp] theorem State.setMe_narrow (s : State) (v : Slot) : (s.setMe v).narrow = s.narrow := rfl
@[simp] theorem State.setMe_islands (s : State) (v : Slot) : (s.setMe v).islands = s.islands := rfl
@[simp] theorem State.setMe_cores (s : State) (v : Slot) : (s.setMe v).cores = tset s.cores s.cur.core ((s.core s.cur.core).setSlot s.cur.slot v) := rfl
@[simp] theorem State.setMe_ctxs (s : State) (v : Slot) : (s.setMe v).ctxs = s.ctxs := rfl
@[simp] theorem State.setMe_images (s : State) (v : Slot) : (s.setMe v).images = s.images := rfl
@[simp] theorem State.setMe_nextHandle (s : State) (v : Slot) : (s.setMe v).nextHandle = s.nextHandle := rfl
@[simp] theorem State.setMe_lives (s : State) (v : Slot) : (s.setMe v).lives = s.lives := rfl
@[simp] theorem State.setMe_ports (s : State) (v : Slot) : (s.setMe v).ports = s.ports := rfl
@[simp] theorem State.setMe_routes (s : State) (v : Slot) : (s.setMe v).routes = s.routes := rfl
@[simp] theorem State.setMe_flowsOut (s : State) (v : Slot) : (s.setMe v).flowsOut = s.flowsOut := rfl
@[simp] theorem State.setMe_flowsIn (s : State) (v : Slot) : (s.setMe v).flowsIn = s.flowsIn := rfl
@[simp] theorem State.setMe_respCache (s : State) (v : Slot) : (s.setMe v).respCache = s.respCache := rfl
@[simp] theorem State.setMe_retSlots (s : State) (v : Slot) : (s.setMe v).retSlots = s.retSlots := rfl
@[simp] theorem State.setMe_groups (s : State) (v : Slot) : (s.setMe v).groups = s.groups := rfl
@[simp] theorem State.setMe_redto (s : State) (v : Slot) : (s.setMe v).redto = s.redto := rfl
@[simp] theorem State.setMe_transit (s : State) (v : Slot) : (s.setMe v).transit = s.transit := rfl
@[simp] theorem State.setMe_arrivals (s : State) (v : Slot) : (s.setMe v).arrivals = s.arrivals := rfl
@[simp] theorem State.setMe_lnchWaits (s : State) (v : Slot) : (s.setMe v).lnchWaits = s.lnchWaits := rfl
@[simp] theorem State.setMe_wdReads (s : State) (v : Slot) : (s.setMe v).wdReads = s.wdReads := rfl
@[simp] theorem State.setMe_supWaiting (s : State) (v : Slot) : (s.setMe v).supWaiting = s.supWaiting := rfl
@[simp] theorem State.setMe_reply (s : State) (v : Slot) : (s.setMe v).reply = s.reply := rfl
@[simp] theorem State.setMe_tailings (s : State) (v : Slot) : (s.setMe v).tailings = s.tailings := rfl
@[simp] theorem State.setMe_hf (s : State) (v : Slot) : (s.setMe v).hf = s.hf := rfl

-- State.modCore
@[simp] theorem State.modCore_agenda (s : State) (c : Nat) (f : Core → Core) : (s.modCore c f).agenda = s.agenda := rfl
@[simp] theorem State.modCore_inflight (s : State) (c : Nat) (f : Core → Core) : (s.modCore c f).inflight = s.inflight := rfl
@[simp] theorem State.modCore_cur (s : State) (c : Nat) (f : Core → Core) : (s.modCore c f).cur = s.cur := rfl
@[simp] theorem State.modCore_now (s : State) (c : Nat) (f : Core → Core) : (s.modCore c f).now = s.now := rfl
@[simp] theorem State.modCore_fresh (s : State) (c : Nat) (f : Core → Core) : (s.modCore c f).fresh = s.fresh := rfl
@[simp] theorem State.modCore_halted (s : State) (c : Nat) (f : Core → Core) : (s.modCore c f).halted = s.halted := rfl
@[simp] theorem State.modCore_pkg (s : State) (c : Nat) (f : Core → Core) : (s.modCore c f).pkg = s.pkg := rfl
@[simp] theorem State.modCore_mem (s : State) (c : Nat) (f : Core → Core) : (s.modCore c f).mem = s.mem := rfl
@[simp] theorem State.modCore_full (s : State) (c : Nat) (f : Core → Core) : (s.modCore c f).full = s.full := rfl
@[simp] theorem State.modCore_homeWrites (s : State) (c : Nat) (f : Core → Core) : (s.modCore c f).homeWrites = s.homeWrites := rfl
@[simp] theorem State.modCore_unitWrites (s : State) (c : Nat) (f : Core → Core) : (s.modCore c f).unitWrites = s.unitWrites := rfl
@[simp] theorem State.modCore_signals (s : State) (c : Nat) (f : Core → Core) : (s.modCore c f).signals = s.signals := rfl
@[simp] theorem State.modCore_nextWrite (s : State) (c : Nat) (f : Core → Core) : (s.modCore c f).nextWrite = s.nextWrite := rfl
@[simp] theorem State.modCore_relAt (s : State) (c : Nat) (f : Core → Core) : (s.modCore c f).relAt = s.relAt := rfl
@[simp] theorem State.modCore_dies (s : State) (c : Nat) (f : Core → Core) : (s.modCore c f).dies = s.dies := rfl
@[simp] theorem State.modCore_master (s : State) (c : Nat) (f : Core → Core) : (s.modCore c f).master = s.master := rfl
@[simp] theorem State.modCore_electAt (s : State) (c : Nat) (f : Core → Core) : (s.modCore c f).electAt = s.electAt := rfl
@[simp] theorem State.modCore_narrow (s : State) (c : Nat) (f : Core → Core) : (s.modCore c f).narrow = s.narrow := rfl
@[simp] theorem State.modCore_islands (s : State) (c : Nat) (f : Core → Core) : (s.modCore c f).islands = s.islands := rfl
@[simp] theorem State.modCore_cores (s : State) (c : Nat) (f : Core → Core) : (s.modCore c f).cores = tset s.cores c (f (s.core c)) := rfl
@[simp] theorem State.modCore_ctxs (s : State) (c : Nat) (f : Core → Core) : (s.modCore c f).ctxs = s.ctxs := rfl
@[simp] theorem State.modCore_images (s : State) (c : Nat) (f : Core → Core) : (s.modCore c f).images = s.images := rfl
@[simp] theorem State.modCore_nextHandle (s : State) (c : Nat) (f : Core → Core) : (s.modCore c f).nextHandle = s.nextHandle := rfl
@[simp] theorem State.modCore_lives (s : State) (c : Nat) (f : Core → Core) : (s.modCore c f).lives = s.lives := rfl
@[simp] theorem State.modCore_ports (s : State) (c : Nat) (f : Core → Core) : (s.modCore c f).ports = s.ports := rfl
@[simp] theorem State.modCore_routes (s : State) (c : Nat) (f : Core → Core) : (s.modCore c f).routes = s.routes := rfl
@[simp] theorem State.modCore_flowsOut (s : State) (c : Nat) (f : Core → Core) : (s.modCore c f).flowsOut = s.flowsOut := rfl
@[simp] theorem State.modCore_flowsIn (s : State) (c : Nat) (f : Core → Core) : (s.modCore c f).flowsIn = s.flowsIn := rfl
@[simp] theorem State.modCore_respCache (s : State) (c : Nat) (f : Core → Core) : (s.modCore c f).respCache = s.respCache := rfl
@[simp] theorem State.modCore_retSlots (s : State) (c : Nat) (f : Core → Core) : (s.modCore c f).retSlots = s.retSlots := rfl
@[simp] theorem State.modCore_groups (s : State) (c : Nat) (f : Core → Core) : (s.modCore c f).groups = s.groups := rfl
@[simp] theorem State.modCore_redto (s : State) (c : Nat) (f : Core → Core) : (s.modCore c f).redto = s.redto := rfl
@[simp] theorem State.modCore_transit (s : State) (c : Nat) (f : Core → Core) : (s.modCore c f).transit = s.transit := rfl
@[simp] theorem State.modCore_arrivals (s : State) (c : Nat) (f : Core → Core) : (s.modCore c f).arrivals = s.arrivals := rfl
@[simp] theorem State.modCore_lnchWaits (s : State) (c : Nat) (f : Core → Core) : (s.modCore c f).lnchWaits = s.lnchWaits := rfl
@[simp] theorem State.modCore_wdReads (s : State) (c : Nat) (f : Core → Core) : (s.modCore c f).wdReads = s.wdReads := rfl
@[simp] theorem State.modCore_supWaiting (s : State) (c : Nat) (f : Core → Core) : (s.modCore c f).supWaiting = s.supWaiting := rfl
@[simp] theorem State.modCore_reply (s : State) (c : Nat) (f : Core → Core) : (s.modCore c f).reply = s.reply := rfl
@[simp] theorem State.modCore_tailings (s : State) (c : Nat) (f : Core → Core) : (s.modCore c f).tailings = s.tailings := rfl
@[simp] theorem State.modCore_hf (s : State) (c : Nat) (f : Core → Core) : (s.modCore c f).hf = s.hf := rfl

-- State.modSlot
@[simp] theorem State.modSlot_agenda (s : State) (i : SlotId) (f : Slot → Slot) : (s.modSlot i f).agenda = s.agenda := rfl
@[simp] theorem State.modSlot_inflight (s : State) (i : SlotId) (f : Slot → Slot) : (s.modSlot i f).inflight = s.inflight := rfl
@[simp] theorem State.modSlot_cur (s : State) (i : SlotId) (f : Slot → Slot) : (s.modSlot i f).cur = s.cur := rfl
@[simp] theorem State.modSlot_now (s : State) (i : SlotId) (f : Slot → Slot) : (s.modSlot i f).now = s.now := rfl
@[simp] theorem State.modSlot_fresh (s : State) (i : SlotId) (f : Slot → Slot) : (s.modSlot i f).fresh = s.fresh := rfl
@[simp] theorem State.modSlot_halted (s : State) (i : SlotId) (f : Slot → Slot) : (s.modSlot i f).halted = s.halted := rfl
@[simp] theorem State.modSlot_pkg (s : State) (i : SlotId) (f : Slot → Slot) : (s.modSlot i f).pkg = s.pkg := rfl
@[simp] theorem State.modSlot_mem (s : State) (i : SlotId) (f : Slot → Slot) : (s.modSlot i f).mem = s.mem := rfl
@[simp] theorem State.modSlot_full (s : State) (i : SlotId) (f : Slot → Slot) : (s.modSlot i f).full = s.full := rfl
@[simp] theorem State.modSlot_homeWrites (s : State) (i : SlotId) (f : Slot → Slot) : (s.modSlot i f).homeWrites = s.homeWrites := rfl
@[simp] theorem State.modSlot_unitWrites (s : State) (i : SlotId) (f : Slot → Slot) : (s.modSlot i f).unitWrites = s.unitWrites := rfl
@[simp] theorem State.modSlot_signals (s : State) (i : SlotId) (f : Slot → Slot) : (s.modSlot i f).signals = s.signals := rfl
@[simp] theorem State.modSlot_nextWrite (s : State) (i : SlotId) (f : Slot → Slot) : (s.modSlot i f).nextWrite = s.nextWrite := rfl
@[simp] theorem State.modSlot_relAt (s : State) (i : SlotId) (f : Slot → Slot) : (s.modSlot i f).relAt = s.relAt := rfl
@[simp] theorem State.modSlot_dies (s : State) (i : SlotId) (f : Slot → Slot) : (s.modSlot i f).dies = s.dies := rfl
@[simp] theorem State.modSlot_master (s : State) (i : SlotId) (f : Slot → Slot) : (s.modSlot i f).master = s.master := rfl
@[simp] theorem State.modSlot_electAt (s : State) (i : SlotId) (f : Slot → Slot) : (s.modSlot i f).electAt = s.electAt := rfl
@[simp] theorem State.modSlot_narrow (s : State) (i : SlotId) (f : Slot → Slot) : (s.modSlot i f).narrow = s.narrow := rfl
@[simp] theorem State.modSlot_islands (s : State) (i : SlotId) (f : Slot → Slot) : (s.modSlot i f).islands = s.islands := rfl
@[simp] theorem State.modSlot_cores (s : State) (i : SlotId) (f : Slot → Slot) : (s.modSlot i f).cores = tset s.cores i.core ((s.core i.core).setSlot i.slot (f (s.slot i))) := rfl
@[simp] theorem State.modSlot_ctxs (s : State) (i : SlotId) (f : Slot → Slot) : (s.modSlot i f).ctxs = s.ctxs := rfl
@[simp] theorem State.modSlot_images (s : State) (i : SlotId) (f : Slot → Slot) : (s.modSlot i f).images = s.images := rfl
@[simp] theorem State.modSlot_nextHandle (s : State) (i : SlotId) (f : Slot → Slot) : (s.modSlot i f).nextHandle = s.nextHandle := rfl
@[simp] theorem State.modSlot_lives (s : State) (i : SlotId) (f : Slot → Slot) : (s.modSlot i f).lives = s.lives := rfl
@[simp] theorem State.modSlot_ports (s : State) (i : SlotId) (f : Slot → Slot) : (s.modSlot i f).ports = s.ports := rfl
@[simp] theorem State.modSlot_routes (s : State) (i : SlotId) (f : Slot → Slot) : (s.modSlot i f).routes = s.routes := rfl
@[simp] theorem State.modSlot_flowsOut (s : State) (i : SlotId) (f : Slot → Slot) : (s.modSlot i f).flowsOut = s.flowsOut := rfl
@[simp] theorem State.modSlot_flowsIn (s : State) (i : SlotId) (f : Slot → Slot) : (s.modSlot i f).flowsIn = s.flowsIn := rfl
@[simp] theorem State.modSlot_respCache (s : State) (i : SlotId) (f : Slot → Slot) : (s.modSlot i f).respCache = s.respCache := rfl
@[simp] theorem State.modSlot_retSlots (s : State) (i : SlotId) (f : Slot → Slot) : (s.modSlot i f).retSlots = s.retSlots := rfl
@[simp] theorem State.modSlot_groups (s : State) (i : SlotId) (f : Slot → Slot) : (s.modSlot i f).groups = s.groups := rfl
@[simp] theorem State.modSlot_redto (s : State) (i : SlotId) (f : Slot → Slot) : (s.modSlot i f).redto = s.redto := rfl
@[simp] theorem State.modSlot_transit (s : State) (i : SlotId) (f : Slot → Slot) : (s.modSlot i f).transit = s.transit := rfl
@[simp] theorem State.modSlot_arrivals (s : State) (i : SlotId) (f : Slot → Slot) : (s.modSlot i f).arrivals = s.arrivals := rfl
@[simp] theorem State.modSlot_lnchWaits (s : State) (i : SlotId) (f : Slot → Slot) : (s.modSlot i f).lnchWaits = s.lnchWaits := rfl
@[simp] theorem State.modSlot_wdReads (s : State) (i : SlotId) (f : Slot → Slot) : (s.modSlot i f).wdReads = s.wdReads := rfl
@[simp] theorem State.modSlot_supWaiting (s : State) (i : SlotId) (f : Slot → Slot) : (s.modSlot i f).supWaiting = s.supWaiting := rfl
@[simp] theorem State.modSlot_reply (s : State) (i : SlotId) (f : Slot → Slot) : (s.modSlot i f).reply = s.reply := rfl
@[simp] theorem State.modSlot_tailings (s : State) (i : SlotId) (f : Slot → Slot) : (s.modSlot i f).tailings = s.tailings := rfl
@[simp] theorem State.modSlot_hf (s : State) (i : SlotId) (f : Slot → Slot) : (s.modSlot i f).hf = s.hf := rfl

-- State.modDie
@[simp] theorem State.modDie_agenda (s : State) (d : Nat) (f : Die → Die) : (s.modDie d f).agenda = s.agenda := rfl
@[simp] theorem State.modDie_inflight (s : State) (d : Nat) (f : Die → Die) : (s.modDie d f).inflight = s.inflight := rfl
@[simp] theorem State.modDie_cur (s : State) (d : Nat) (f : Die → Die) : (s.modDie d f).cur = s.cur := rfl
@[simp] theorem State.modDie_now (s : State) (d : Nat) (f : Die → Die) : (s.modDie d f).now = s.now := rfl
@[simp] theorem State.modDie_fresh (s : State) (d : Nat) (f : Die → Die) : (s.modDie d f).fresh = s.fresh := rfl
@[simp] theorem State.modDie_halted (s : State) (d : Nat) (f : Die → Die) : (s.modDie d f).halted = s.halted := rfl
@[simp] theorem State.modDie_pkg (s : State) (d : Nat) (f : Die → Die) : (s.modDie d f).pkg = s.pkg := rfl
@[simp] theorem State.modDie_mem (s : State) (d : Nat) (f : Die → Die) : (s.modDie d f).mem = s.mem := rfl
@[simp] theorem State.modDie_full (s : State) (d : Nat) (f : Die → Die) : (s.modDie d f).full = s.full := rfl
@[simp] theorem State.modDie_homeWrites (s : State) (d : Nat) (f : Die → Die) : (s.modDie d f).homeWrites = s.homeWrites := rfl
@[simp] theorem State.modDie_unitWrites (s : State) (d : Nat) (f : Die → Die) : (s.modDie d f).unitWrites = s.unitWrites := rfl
@[simp] theorem State.modDie_signals (s : State) (d : Nat) (f : Die → Die) : (s.modDie d f).signals = s.signals := rfl
@[simp] theorem State.modDie_nextWrite (s : State) (d : Nat) (f : Die → Die) : (s.modDie d f).nextWrite = s.nextWrite := rfl
@[simp] theorem State.modDie_relAt (s : State) (d : Nat) (f : Die → Die) : (s.modDie d f).relAt = s.relAt := rfl
@[simp] theorem State.modDie_dies (s : State) (d : Nat) (f : Die → Die) : (s.modDie d f).dies = tset s.dies d (f (s.die d)) := rfl
@[simp] theorem State.modDie_master (s : State) (d : Nat) (f : Die → Die) : (s.modDie d f).master = s.master := rfl
@[simp] theorem State.modDie_electAt (s : State) (d : Nat) (f : Die → Die) : (s.modDie d f).electAt = s.electAt := rfl
@[simp] theorem State.modDie_narrow (s : State) (d : Nat) (f : Die → Die) : (s.modDie d f).narrow = s.narrow := rfl
@[simp] theorem State.modDie_islands (s : State) (d : Nat) (f : Die → Die) : (s.modDie d f).islands = s.islands := rfl
@[simp] theorem State.modDie_cores (s : State) (d : Nat) (f : Die → Die) : (s.modDie d f).cores = s.cores := rfl
@[simp] theorem State.modDie_ctxs (s : State) (d : Nat) (f : Die → Die) : (s.modDie d f).ctxs = s.ctxs := rfl
@[simp] theorem State.modDie_images (s : State) (d : Nat) (f : Die → Die) : (s.modDie d f).images = s.images := rfl
@[simp] theorem State.modDie_nextHandle (s : State) (d : Nat) (f : Die → Die) : (s.modDie d f).nextHandle = s.nextHandle := rfl
@[simp] theorem State.modDie_lives (s : State) (d : Nat) (f : Die → Die) : (s.modDie d f).lives = s.lives := rfl
@[simp] theorem State.modDie_ports (s : State) (d : Nat) (f : Die → Die) : (s.modDie d f).ports = s.ports := rfl
@[simp] theorem State.modDie_routes (s : State) (d : Nat) (f : Die → Die) : (s.modDie d f).routes = s.routes := rfl
@[simp] theorem State.modDie_flowsOut (s : State) (d : Nat) (f : Die → Die) : (s.modDie d f).flowsOut = s.flowsOut := rfl
@[simp] theorem State.modDie_flowsIn (s : State) (d : Nat) (f : Die → Die) : (s.modDie d f).flowsIn = s.flowsIn := rfl
@[simp] theorem State.modDie_respCache (s : State) (d : Nat) (f : Die → Die) : (s.modDie d f).respCache = s.respCache := rfl
@[simp] theorem State.modDie_retSlots (s : State) (d : Nat) (f : Die → Die) : (s.modDie d f).retSlots = s.retSlots := rfl
@[simp] theorem State.modDie_groups (s : State) (d : Nat) (f : Die → Die) : (s.modDie d f).groups = s.groups := rfl
@[simp] theorem State.modDie_redto (s : State) (d : Nat) (f : Die → Die) : (s.modDie d f).redto = s.redto := rfl
@[simp] theorem State.modDie_transit (s : State) (d : Nat) (f : Die → Die) : (s.modDie d f).transit = s.transit := rfl
@[simp] theorem State.modDie_arrivals (s : State) (d : Nat) (f : Die → Die) : (s.modDie d f).arrivals = s.arrivals := rfl
@[simp] theorem State.modDie_lnchWaits (s : State) (d : Nat) (f : Die → Die) : (s.modDie d f).lnchWaits = s.lnchWaits := rfl
@[simp] theorem State.modDie_wdReads (s : State) (d : Nat) (f : Die → Die) : (s.modDie d f).wdReads = s.wdReads := rfl
@[simp] theorem State.modDie_supWaiting (s : State) (d : Nat) (f : Die → Die) : (s.modDie d f).supWaiting = s.supWaiting := rfl
@[simp] theorem State.modDie_reply (s : State) (d : Nat) (f : Die → Die) : (s.modDie d f).reply = s.reply := rfl
@[simp] theorem State.modDie_tailings (s : State) (d : Nat) (f : Die → Die) : (s.modDie d f).tailings = s.tailings := rfl
@[simp] theorem State.modDie_hf (s : State) (d : Nat) (f : Die → Die) : (s.modDie d f).hf = s.hf := rfl

-- State.modCtx
@[simp] theorem State.modCtx_agenda (s : State) (c : Nat) (f : Ctx → Ctx) : (s.modCtx c f).agenda = s.agenda := rfl
@[simp] theorem State.modCtx_inflight (s : State) (c : Nat) (f : Ctx → Ctx) : (s.modCtx c f).inflight = s.inflight := rfl
@[simp] theorem State.modCtx_cur (s : State) (c : Nat) (f : Ctx → Ctx) : (s.modCtx c f).cur = s.cur := rfl
@[simp] theorem State.modCtx_now (s : State) (c : Nat) (f : Ctx → Ctx) : (s.modCtx c f).now = s.now := rfl
@[simp] theorem State.modCtx_fresh (s : State) (c : Nat) (f : Ctx → Ctx) : (s.modCtx c f).fresh = s.fresh := rfl
@[simp] theorem State.modCtx_halted (s : State) (c : Nat) (f : Ctx → Ctx) : (s.modCtx c f).halted = s.halted := rfl
@[simp] theorem State.modCtx_pkg (s : State) (c : Nat) (f : Ctx → Ctx) : (s.modCtx c f).pkg = s.pkg := rfl
@[simp] theorem State.modCtx_mem (s : State) (c : Nat) (f : Ctx → Ctx) : (s.modCtx c f).mem = s.mem := rfl
@[simp] theorem State.modCtx_full (s : State) (c : Nat) (f : Ctx → Ctx) : (s.modCtx c f).full = s.full := rfl
@[simp] theorem State.modCtx_homeWrites (s : State) (c : Nat) (f : Ctx → Ctx) : (s.modCtx c f).homeWrites = s.homeWrites := rfl
@[simp] theorem State.modCtx_unitWrites (s : State) (c : Nat) (f : Ctx → Ctx) : (s.modCtx c f).unitWrites = s.unitWrites := rfl
@[simp] theorem State.modCtx_signals (s : State) (c : Nat) (f : Ctx → Ctx) : (s.modCtx c f).signals = s.signals := rfl
@[simp] theorem State.modCtx_nextWrite (s : State) (c : Nat) (f : Ctx → Ctx) : (s.modCtx c f).nextWrite = s.nextWrite := rfl
@[simp] theorem State.modCtx_relAt (s : State) (c : Nat) (f : Ctx → Ctx) : (s.modCtx c f).relAt = s.relAt := rfl
@[simp] theorem State.modCtx_dies (s : State) (c : Nat) (f : Ctx → Ctx) : (s.modCtx c f).dies = s.dies := rfl
@[simp] theorem State.modCtx_master (s : State) (c : Nat) (f : Ctx → Ctx) : (s.modCtx c f).master = s.master := rfl
@[simp] theorem State.modCtx_electAt (s : State) (c : Nat) (f : Ctx → Ctx) : (s.modCtx c f).electAt = s.electAt := rfl
@[simp] theorem State.modCtx_narrow (s : State) (c : Nat) (f : Ctx → Ctx) : (s.modCtx c f).narrow = s.narrow := rfl
@[simp] theorem State.modCtx_islands (s : State) (c : Nat) (f : Ctx → Ctx) : (s.modCtx c f).islands = s.islands := rfl
@[simp] theorem State.modCtx_cores (s : State) (c : Nat) (f : Ctx → Ctx) : (s.modCtx c f).cores = s.cores := rfl
@[simp] theorem State.modCtx_ctxs (s : State) (c : Nat) (f : Ctx → Ctx) : (s.modCtx c f).ctxs = tset s.ctxs c (f (s.ctx c)) := rfl
@[simp] theorem State.modCtx_images (s : State) (c : Nat) (f : Ctx → Ctx) : (s.modCtx c f).images = s.images := rfl
@[simp] theorem State.modCtx_nextHandle (s : State) (c : Nat) (f : Ctx → Ctx) : (s.modCtx c f).nextHandle = s.nextHandle := rfl
@[simp] theorem State.modCtx_lives (s : State) (c : Nat) (f : Ctx → Ctx) : (s.modCtx c f).lives = s.lives := rfl
@[simp] theorem State.modCtx_ports (s : State) (c : Nat) (f : Ctx → Ctx) : (s.modCtx c f).ports = s.ports := rfl
@[simp] theorem State.modCtx_routes (s : State) (c : Nat) (f : Ctx → Ctx) : (s.modCtx c f).routes = s.routes := rfl
@[simp] theorem State.modCtx_flowsOut (s : State) (c : Nat) (f : Ctx → Ctx) : (s.modCtx c f).flowsOut = s.flowsOut := rfl
@[simp] theorem State.modCtx_flowsIn (s : State) (c : Nat) (f : Ctx → Ctx) : (s.modCtx c f).flowsIn = s.flowsIn := rfl
@[simp] theorem State.modCtx_respCache (s : State) (c : Nat) (f : Ctx → Ctx) : (s.modCtx c f).respCache = s.respCache := rfl
@[simp] theorem State.modCtx_retSlots (s : State) (c : Nat) (f : Ctx → Ctx) : (s.modCtx c f).retSlots = s.retSlots := rfl
@[simp] theorem State.modCtx_groups (s : State) (c : Nat) (f : Ctx → Ctx) : (s.modCtx c f).groups = s.groups := rfl
@[simp] theorem State.modCtx_redto (s : State) (c : Nat) (f : Ctx → Ctx) : (s.modCtx c f).redto = s.redto := rfl
@[simp] theorem State.modCtx_transit (s : State) (c : Nat) (f : Ctx → Ctx) : (s.modCtx c f).transit = s.transit := rfl
@[simp] theorem State.modCtx_arrivals (s : State) (c : Nat) (f : Ctx → Ctx) : (s.modCtx c f).arrivals = s.arrivals := rfl
@[simp] theorem State.modCtx_lnchWaits (s : State) (c : Nat) (f : Ctx → Ctx) : (s.modCtx c f).lnchWaits = s.lnchWaits := rfl
@[simp] theorem State.modCtx_wdReads (s : State) (c : Nat) (f : Ctx → Ctx) : (s.modCtx c f).wdReads = s.wdReads := rfl
@[simp] theorem State.modCtx_supWaiting (s : State) (c : Nat) (f : Ctx → Ctx) : (s.modCtx c f).supWaiting = s.supWaiting := rfl
@[simp] theorem State.modCtx_reply (s : State) (c : Nat) (f : Ctx → Ctx) : (s.modCtx c f).reply = s.reply := rfl
@[simp] theorem State.modCtx_tailings (s : State) (c : Nat) (f : Ctx → Ctx) : (s.modCtx c f).tailings = s.tailings := rfl
@[simp] theorem State.modCtx_hf (s : State) (c : Nat) (f : Ctx → Ctx) : (s.modCtx c f).hf = s.hf := rfl

-- State.modMe
@[simp] theorem State.modMe_agenda (s : State) (f : Slot → Slot) : (s.modMe f).agenda = s.agenda := rfl
@[simp] theorem State.modMe_inflight (s : State) (f : Slot → Slot) : (s.modMe f).inflight = s.inflight := rfl
@[simp] theorem State.modMe_cur (s : State) (f : Slot → Slot) : (s.modMe f).cur = s.cur := rfl
@[simp] theorem State.modMe_now (s : State) (f : Slot → Slot) : (s.modMe f).now = s.now := rfl
@[simp] theorem State.modMe_fresh (s : State) (f : Slot → Slot) : (s.modMe f).fresh = s.fresh := rfl
@[simp] theorem State.modMe_halted (s : State) (f : Slot → Slot) : (s.modMe f).halted = s.halted := rfl
@[simp] theorem State.modMe_pkg (s : State) (f : Slot → Slot) : (s.modMe f).pkg = s.pkg := rfl
@[simp] theorem State.modMe_mem (s : State) (f : Slot → Slot) : (s.modMe f).mem = s.mem := rfl
@[simp] theorem State.modMe_full (s : State) (f : Slot → Slot) : (s.modMe f).full = s.full := rfl
@[simp] theorem State.modMe_homeWrites (s : State) (f : Slot → Slot) : (s.modMe f).homeWrites = s.homeWrites := rfl
@[simp] theorem State.modMe_unitWrites (s : State) (f : Slot → Slot) : (s.modMe f).unitWrites = s.unitWrites := rfl
@[simp] theorem State.modMe_signals (s : State) (f : Slot → Slot) : (s.modMe f).signals = s.signals := rfl
@[simp] theorem State.modMe_nextWrite (s : State) (f : Slot → Slot) : (s.modMe f).nextWrite = s.nextWrite := rfl
@[simp] theorem State.modMe_relAt (s : State) (f : Slot → Slot) : (s.modMe f).relAt = s.relAt := rfl
@[simp] theorem State.modMe_dies (s : State) (f : Slot → Slot) : (s.modMe f).dies = s.dies := rfl
@[simp] theorem State.modMe_master (s : State) (f : Slot → Slot) : (s.modMe f).master = s.master := rfl
@[simp] theorem State.modMe_electAt (s : State) (f : Slot → Slot) : (s.modMe f).electAt = s.electAt := rfl
@[simp] theorem State.modMe_narrow (s : State) (f : Slot → Slot) : (s.modMe f).narrow = s.narrow := rfl
@[simp] theorem State.modMe_islands (s : State) (f : Slot → Slot) : (s.modMe f).islands = s.islands := rfl
@[simp] theorem State.modMe_cores (s : State) (f : Slot → Slot) : (s.modMe f).cores = tset s.cores s.cur.core ((s.core s.cur.core).setSlot s.cur.slot (f s.me)) := rfl
@[simp] theorem State.modMe_ctxs (s : State) (f : Slot → Slot) : (s.modMe f).ctxs = s.ctxs := rfl
@[simp] theorem State.modMe_images (s : State) (f : Slot → Slot) : (s.modMe f).images = s.images := rfl
@[simp] theorem State.modMe_nextHandle (s : State) (f : Slot → Slot) : (s.modMe f).nextHandle = s.nextHandle := rfl
@[simp] theorem State.modMe_lives (s : State) (f : Slot → Slot) : (s.modMe f).lives = s.lives := rfl
@[simp] theorem State.modMe_ports (s : State) (f : Slot → Slot) : (s.modMe f).ports = s.ports := rfl
@[simp] theorem State.modMe_routes (s : State) (f : Slot → Slot) : (s.modMe f).routes = s.routes := rfl
@[simp] theorem State.modMe_flowsOut (s : State) (f : Slot → Slot) : (s.modMe f).flowsOut = s.flowsOut := rfl
@[simp] theorem State.modMe_flowsIn (s : State) (f : Slot → Slot) : (s.modMe f).flowsIn = s.flowsIn := rfl
@[simp] theorem State.modMe_respCache (s : State) (f : Slot → Slot) : (s.modMe f).respCache = s.respCache := rfl
@[simp] theorem State.modMe_retSlots (s : State) (f : Slot → Slot) : (s.modMe f).retSlots = s.retSlots := rfl
@[simp] theorem State.modMe_groups (s : State) (f : Slot → Slot) : (s.modMe f).groups = s.groups := rfl
@[simp] theorem State.modMe_redto (s : State) (f : Slot → Slot) : (s.modMe f).redto = s.redto := rfl
@[simp] theorem State.modMe_transit (s : State) (f : Slot → Slot) : (s.modMe f).transit = s.transit := rfl
@[simp] theorem State.modMe_arrivals (s : State) (f : Slot → Slot) : (s.modMe f).arrivals = s.arrivals := rfl
@[simp] theorem State.modMe_lnchWaits (s : State) (f : Slot → Slot) : (s.modMe f).lnchWaits = s.lnchWaits := rfl
@[simp] theorem State.modMe_wdReads (s : State) (f : Slot → Slot) : (s.modMe f).wdReads = s.wdReads := rfl
@[simp] theorem State.modMe_supWaiting (s : State) (f : Slot → Slot) : (s.modMe f).supWaiting = s.supWaiting := rfl
@[simp] theorem State.modMe_reply (s : State) (f : Slot → Slot) : (s.modMe f).reply = s.reply := rfl
@[simp] theorem State.modMe_tailings (s : State) (f : Slot → Slot) : (s.modMe f).tailings = s.tailings := rfl
@[simp] theorem State.modMe_hf (s : State) (f : Slot → Slot) : (s.modMe f).hf = s.hf := rfl

-- State.post
@[simp] theorem State.post_agenda (s : State) (i : Instr) : (s.post i).agenda = s.agenda := rfl
@[simp] theorem State.post_inflight (s : State) (i : Instr) : (s.post i).inflight = s.inflight ++ [i] := rfl
@[simp] theorem State.post_cur (s : State) (i : Instr) : (s.post i).cur = s.cur := rfl
@[simp] theorem State.post_now (s : State) (i : Instr) : (s.post i).now = s.now := rfl
@[simp] theorem State.post_fresh (s : State) (i : Instr) : (s.post i).fresh = s.fresh := rfl
@[simp] theorem State.post_halted (s : State) (i : Instr) : (s.post i).halted = s.halted := rfl
@[simp] theorem State.post_pkg (s : State) (i : Instr) : (s.post i).pkg = s.pkg := rfl
@[simp] theorem State.post_mem (s : State) (i : Instr) : (s.post i).mem = s.mem := rfl
@[simp] theorem State.post_full (s : State) (i : Instr) : (s.post i).full = s.full := rfl
@[simp] theorem State.post_homeWrites (s : State) (i : Instr) : (s.post i).homeWrites = s.homeWrites := rfl
@[simp] theorem State.post_unitWrites (s : State) (i : Instr) : (s.post i).unitWrites = s.unitWrites := rfl
@[simp] theorem State.post_signals (s : State) (i : Instr) : (s.post i).signals = s.signals := rfl
@[simp] theorem State.post_nextWrite (s : State) (i : Instr) : (s.post i).nextWrite = s.nextWrite := rfl
@[simp] theorem State.post_relAt (s : State) (i : Instr) : (s.post i).relAt = s.relAt := rfl
@[simp] theorem State.post_dies (s : State) (i : Instr) : (s.post i).dies = s.dies := rfl
@[simp] theorem State.post_master (s : State) (i : Instr) : (s.post i).master = s.master := rfl
@[simp] theorem State.post_electAt (s : State) (i : Instr) : (s.post i).electAt = s.electAt := rfl
@[simp] theorem State.post_narrow (s : State) (i : Instr) : (s.post i).narrow = s.narrow := rfl
@[simp] theorem State.post_islands (s : State) (i : Instr) : (s.post i).islands = s.islands := rfl
@[simp] theorem State.post_cores (s : State) (i : Instr) : (s.post i).cores = s.cores := rfl
@[simp] theorem State.post_ctxs (s : State) (i : Instr) : (s.post i).ctxs = s.ctxs := rfl
@[simp] theorem State.post_images (s : State) (i : Instr) : (s.post i).images = s.images := rfl
@[simp] theorem State.post_nextHandle (s : State) (i : Instr) : (s.post i).nextHandle = s.nextHandle := rfl
@[simp] theorem State.post_lives (s : State) (i : Instr) : (s.post i).lives = s.lives := rfl
@[simp] theorem State.post_ports (s : State) (i : Instr) : (s.post i).ports = s.ports := rfl
@[simp] theorem State.post_routes (s : State) (i : Instr) : (s.post i).routes = s.routes := rfl
@[simp] theorem State.post_flowsOut (s : State) (i : Instr) : (s.post i).flowsOut = s.flowsOut := rfl
@[simp] theorem State.post_flowsIn (s : State) (i : Instr) : (s.post i).flowsIn = s.flowsIn := rfl
@[simp] theorem State.post_respCache (s : State) (i : Instr) : (s.post i).respCache = s.respCache := rfl
@[simp] theorem State.post_retSlots (s : State) (i : Instr) : (s.post i).retSlots = s.retSlots := rfl
@[simp] theorem State.post_groups (s : State) (i : Instr) : (s.post i).groups = s.groups := rfl
@[simp] theorem State.post_redto (s : State) (i : Instr) : (s.post i).redto = s.redto := rfl
@[simp] theorem State.post_transit (s : State) (i : Instr) : (s.post i).transit = s.transit := rfl
@[simp] theorem State.post_arrivals (s : State) (i : Instr) : (s.post i).arrivals = s.arrivals := rfl
@[simp] theorem State.post_lnchWaits (s : State) (i : Instr) : (s.post i).lnchWaits = s.lnchWaits := rfl
@[simp] theorem State.post_wdReads (s : State) (i : Instr) : (s.post i).wdReads = s.wdReads := rfl
@[simp] theorem State.post_supWaiting (s : State) (i : Instr) : (s.post i).supWaiting = s.supWaiting := rfl
@[simp] theorem State.post_reply (s : State) (i : Instr) : (s.post i).reply = s.reply := rfl
@[simp] theorem State.post_tailings (s : State) (i : Instr) : (s.post i).tailings = s.tailings := rfl
@[simp] theorem State.post_hf (s : State) (i : Instr) : (s.post i).hf = s.hf := rfl

-- State.postAll
@[simp] theorem State.postAll_agenda (s : State) (is : List Instr) : (s.postAll is).agenda = s.agenda := rfl
@[simp] theorem State.postAll_inflight (s : State) (is : List Instr) : (s.postAll is).inflight = s.inflight ++ is := rfl
@[simp] theorem State.postAll_cur (s : State) (is : List Instr) : (s.postAll is).cur = s.cur := rfl
@[simp] theorem State.postAll_now (s : State) (is : List Instr) : (s.postAll is).now = s.now := rfl
@[simp] theorem State.postAll_fresh (s : State) (is : List Instr) : (s.postAll is).fresh = s.fresh := rfl
@[simp] theorem State.postAll_halted (s : State) (is : List Instr) : (s.postAll is).halted = s.halted := rfl
@[simp] theorem State.postAll_pkg (s : State) (is : List Instr) : (s.postAll is).pkg = s.pkg := rfl
@[simp] theorem State.postAll_mem (s : State) (is : List Instr) : (s.postAll is).mem = s.mem := rfl
@[simp] theorem State.postAll_full (s : State) (is : List Instr) : (s.postAll is).full = s.full := rfl
@[simp] theorem State.postAll_homeWrites (s : State) (is : List Instr) : (s.postAll is).homeWrites = s.homeWrites := rfl
@[simp] theorem State.postAll_unitWrites (s : State) (is : List Instr) : (s.postAll is).unitWrites = s.unitWrites := rfl
@[simp] theorem State.postAll_signals (s : State) (is : List Instr) : (s.postAll is).signals = s.signals := rfl
@[simp] theorem State.postAll_nextWrite (s : State) (is : List Instr) : (s.postAll is).nextWrite = s.nextWrite := rfl
@[simp] theorem State.postAll_relAt (s : State) (is : List Instr) : (s.postAll is).relAt = s.relAt := rfl
@[simp] theorem State.postAll_dies (s : State) (is : List Instr) : (s.postAll is).dies = s.dies := rfl
@[simp] theorem State.postAll_master (s : State) (is : List Instr) : (s.postAll is).master = s.master := rfl
@[simp] theorem State.postAll_electAt (s : State) (is : List Instr) : (s.postAll is).electAt = s.electAt := rfl
@[simp] theorem State.postAll_narrow (s : State) (is : List Instr) : (s.postAll is).narrow = s.narrow := rfl
@[simp] theorem State.postAll_islands (s : State) (is : List Instr) : (s.postAll is).islands = s.islands := rfl
@[simp] theorem State.postAll_cores (s : State) (is : List Instr) : (s.postAll is).cores = s.cores := rfl
@[simp] theorem State.postAll_ctxs (s : State) (is : List Instr) : (s.postAll is).ctxs = s.ctxs := rfl
@[simp] theorem State.postAll_images (s : State) (is : List Instr) : (s.postAll is).images = s.images := rfl
@[simp] theorem State.postAll_nextHandle (s : State) (is : List Instr) : (s.postAll is).nextHandle = s.nextHandle := rfl
@[simp] theorem State.postAll_lives (s : State) (is : List Instr) : (s.postAll is).lives = s.lives := rfl
@[simp] theorem State.postAll_ports (s : State) (is : List Instr) : (s.postAll is).ports = s.ports := rfl
@[simp] theorem State.postAll_routes (s : State) (is : List Instr) : (s.postAll is).routes = s.routes := rfl
@[simp] theorem State.postAll_flowsOut (s : State) (is : List Instr) : (s.postAll is).flowsOut = s.flowsOut := rfl
@[simp] theorem State.postAll_flowsIn (s : State) (is : List Instr) : (s.postAll is).flowsIn = s.flowsIn := rfl
@[simp] theorem State.postAll_respCache (s : State) (is : List Instr) : (s.postAll is).respCache = s.respCache := rfl
@[simp] theorem State.postAll_retSlots (s : State) (is : List Instr) : (s.postAll is).retSlots = s.retSlots := rfl
@[simp] theorem State.postAll_groups (s : State) (is : List Instr) : (s.postAll is).groups = s.groups := rfl
@[simp] theorem State.postAll_redto (s : State) (is : List Instr) : (s.postAll is).redto = s.redto := rfl
@[simp] theorem State.postAll_transit (s : State) (is : List Instr) : (s.postAll is).transit = s.transit := rfl
@[simp] theorem State.postAll_arrivals (s : State) (is : List Instr) : (s.postAll is).arrivals = s.arrivals := rfl
@[simp] theorem State.postAll_lnchWaits (s : State) (is : List Instr) : (s.postAll is).lnchWaits = s.lnchWaits := rfl
@[simp] theorem State.postAll_wdReads (s : State) (is : List Instr) : (s.postAll is).wdReads = s.wdReads := rfl
@[simp] theorem State.postAll_supWaiting (s : State) (is : List Instr) : (s.postAll is).supWaiting = s.supWaiting := rfl
@[simp] theorem State.postAll_reply (s : State) (is : List Instr) : (s.postAll is).reply = s.reply := rfl
@[simp] theorem State.postAll_tailings (s : State) (is : List Instr) : (s.postAll is).tailings = s.tailings := rfl
@[simp] theorem State.postAll_hf (s : State) (is : List Instr) : (s.postAll is).hf = s.hf := rfl

-- Core.setSlot
@[simp] theorem Core.setSlot_cyc (c : Core) (n : Nat) (v : Slot) : (c.setSlot n v).cyc = c.cyc := rfl
@[simp] theorem Core.setSlot_ncyc (c : Core) (n : Nat) (v : Slot) : (c.setSlot n v).ncyc = c.ncyc := rfl
@[simp] theorem Core.setSlot_ncycFrac (c : Core) (n : Nat) (v : Slot) : (c.setSlot n v).ncycFrac = c.ncycFrac := rfl
@[simp] theorem Core.setSlot_preemptdl (c : Core) (n : Nat) (v : Slot) : (c.setSlot n v).preemptdl = c.preemptdl := rfl
@[simp] theorem Core.setSlot_recastwait (c : Core) (n : Nat) (v : Slot) : (c.setSlot n v).recastwait = c.recastwait := rfl
@[simp] theorem Core.setSlot_preemptFrom (c : Core) (n : Nat) (v : Slot) : (c.setSlot n v).preemptFrom = c.preemptFrom := rfl
@[simp] theorem Core.setSlot_finj (c : Core) (n : Nat) (v : Slot) : (c.setSlot n v).finj = c.finj := rfl
@[simp] theorem Core.setSlot_finjSeen (c : Core) (n : Nat) (v : Slot) : (c.setSlot n v).finjSeen = c.finjSeen := rfl
@[simp] theorem Core.setSlot_tenant (c : Core) (n : Nat) (v : Slot) : (c.setSlot n v).tenant = c.tenant := rfl
@[simp] theorem Core.setSlot_role (c : Core) (n : Nat) (v : Slot) : (c.setSlot n v).role = c.role := rfl
@[simp] theorem Core.setSlot_param (c : Core) (n : Nat) (v : Slot) : (c.setSlot n v).param = c.param := rfl
@[simp] theorem Core.setSlot_recast (c : Core) (n : Nat) (v : Slot) : (c.setSlot n v).recast = c.recast := rfl
@[simp] theorem Core.setSlot_emptySince (c : Core) (n : Nat) (v : Slot) : (c.setSlot n v).emptySince = c.emptySince := rfl
@[simp] theorem Core.setSlot_recastAt (c : Core) (n : Nat) (v : Slot) : (c.setSlot n v).recastAt = c.recastAt := rfl
@[simp] theorem Core.setSlot_slots (c : Core) (n : Nat) (v : Slot) : (c.setSlot n v).slots = c.slots.setIfInBounds n v := rfl
@[simp] theorem Core.setSlot_pageMap (c : Core) (n : Nat) (v : Slot) : (c.setSlot n v).pageMap = c.pageMap := rfl
@[simp] theorem Core.setSlot_inbox (c : Core) (n : Nat) (v : Slot) : (c.setSlot n v).inbox = c.inbox := rfl
@[simp] theorem Core.setSlot_niWait (c : Core) (n : Nat) (v : Slot) : (c.setSlot n v).niWait = c.niWait := rfl
@[simp] theorem Core.setSlot_sfuQ (c : Core) (n : Nat) (v : Slot) : (c.setSlot n v).sfuQ = c.sfuQ := rfl
@[simp] theorem Core.setSlot_sfuRun (c : Core) (n : Nat) (v : Slot) : (c.setSlot n v).sfuRun = c.sfuRun := rfl
@[simp] theorem Core.setSlot_sfuNext (c : Core) (n : Nat) (v : Slot) : (c.setSlot n v).sfuNext = c.sfuNext := rfl
@[simp] theorem Core.setSlot_tens (c : Core) (n : Nat) (v : Slot) : (c.setSlot n v).tens = c.tens := rfl
@[simp] theorem Core.setSlot_tensBusy (c : Core) (n : Nat) (v : Slot) : (c.setSlot n v).tensBusy = c.tensBusy := rfl
@[simp] theorem Core.setSlot_checks (c : Core) (n : Nat) (v : Slot) : (c.setSlot n v).checks = c.checks := rfl
@[simp] theorem Core.setSlot_vec (c : Core) (n : Nat) (v : Slot) : (c.setSlot n v).vec = c.vec := rfl
@[simp] theorem Core.setSlot_vecBusy (c : Core) (n : Nat) (v : Slot) : (c.setSlot n v).vecBusy = c.vecBusy := rfl
@[simp] theorem Core.setSlot_copy (c : Core) (n : Nat) (v : Slot) : (c.setSlot n v).copy = c.copy := rfl
@[simp] theorem Core.setSlot_early (c : Core) (n : Nat) (v : Slot) : (c.setSlot n v).early = c.early := rfl
@[simp] theorem Core.setSlot_holders (c : Core) (n : Nat) (v : Slot) : (c.setSlot n v).holders = c.holders := rfl
@[simp] theorem Core.setSlot_sealed (c : Core) (n : Nat) (v : Slot) : (c.setSlot n v).sealed = c.sealed := rfl
@[simp] theorem Core.setSlot_kills (c : Core) (n : Nat) (v : Slot) : (c.setSlot n v).kills = c.kills := rfl
@[simp] theorem Core.setSlot_queues (c : Core) (n : Nat) (v : Slot) : (c.setSlot n v).queues = c.queues := rfl
@[simp] theorem Core.setSlot_roundDue (c : Core) (n : Nat) (v : Slot) : (c.setSlot n v).roundDue = c.roundDue := rfl
@[simp] theorem Core.setSlot_ended (c : Core) (n : Nat) (v : Slot) : (c.setSlot n v).ended = c.ended := rfl
@[simp] theorem Core.setSlot_assay (c : Core) (n : Nat) (v : Slot) : (c.setSlot n v).assay = c.assay := rfl
@[simp] theorem Core.setSlot_merging (c : Core) (n : Nat) (v : Slot) : (c.setSlot n v).merging = c.merging := rfl
@[simp] theorem Core.setSlot_lastMerge (c : Core) (n : Nat) (v : Slot) : (c.setSlot n v).lastMerge = c.lastMerge := rfl
@[simp] theorem Core.setSlot_seqs (c : Core) (n : Nat) (v : Slot) : (c.setSlot n v).seqs = c.seqs := rfl
@[simp] theorem Core.setSlot_saved (c : Core) (n : Nat) (v : Slot) : (c.setSlot n v).saved = c.saved := rfl
@[simp] theorem Core.setSlot_icache (c : Core) (n : Nat) (v : Slot) : (c.setSlot n v).icache = c.icache := rfl
@[simp] theorem Core.setSlot_granQ (c : Core) (n : Nat) (v : Slot) : (c.setSlot n v).granQ = c.granQ := rfl
@[simp] theorem Core.setSlot_beat (c : Core) (n : Nat) (v : Slot) : (c.setSlot n v).beat = c.beat := rfl

-- Slot.wrote
@[simp] theorem Slot.wrote_status (m : Slot) (code : Nat) : (m.wrote code).status = m.status := rfl
@[simp] theorem Slot.wrote_task (m : Slot) (code : Nat) : (m.wrote code).task = m.task := rfl
@[simp] theorem Slot.wrote_arch (m : Slot) (code : Nat) : (m.wrote code).arch = m.arch := rfl
@[simp] theorem Slot.wrote_squashes (m : Slot) (code : Nat) : (m.wrote code).squashes = m.squashes := rfl
@[simp] theorem Slot.wrote_mstat (m : Slot) (code : Nat) : (m.wrote code).mstat = m.mstat := rfl
@[simp] theorem Slot.wrote_detlvl (m : Slot) (code : Nat) : (m.wrote code).detlvl = m.detlvl := rfl
@[simp] theorem Slot.wrote_q (m : Slot) (code : Nat) : (m.wrote code).q = m.q := rfl
@[simp] theorem Slot.wrote_fifo (m : Slot) (code : Nat) : (m.wrote code).fifo = m.fifo := rfl
@[simp] theorem Slot.wrote_ids (m : Slot) (code : Nat) : (m.wrote code).ids = m.ids := rfl
@[simp] theorem Slot.wrote_counters (m : Slot) (code : Nat) : (m.wrote code).counters = m.counters := rfl
@[simp] theorem Slot.wrote_returns (m : Slot) (code : Nat) : (m.wrote code).returns = m.returns := rfl
@[simp] theorem Slot.wrote_removed (m : Slot) (code : Nat) : (m.wrote code).removed = m.removed := rfl
@[simp] theorem Slot.wrote_taken (m : Slot) (code : Nat) : (m.wrote code).taken = m.taken := rfl
@[simp] theorem Slot.wrote_pulled (m : Slot) (code : Nat) : (m.wrote code).pulled = m.pulled := rfl
@[simp] theorem Slot.wrote_chunks (m : Slot) (code : Nat) : (m.wrote code).chunks = m.chunks := rfl
@[simp] theorem Slot.wrote_chunkNo (m : Slot) (code : Nat) : (m.wrote code).chunkNo = m.chunkNo := rfl
@[simp] theorem Slot.wrote_streaks (m : Slot) (code : Nat) : (m.wrote code).streaks = m.streaks := rfl
@[simp] theorem Slot.wrote_serial (m : Slot) (code : Nat) : (m.wrote code).serial = m.serial := rfl
@[simp] theorem Slot.wrote_supBefore (m : Slot) (code : Nat) : (m.wrote code).supBefore = m.supBefore := rfl
@[simp] theorem Slot.wrote_trap (m : Slot) (code : Nat) : (m.wrote code).trap = m.trap := rfl
@[simp] theorem Slot.wrote_wait (m : Slot) (code : Nat) : (m.wrote code).wait = m.wait := rfl
@[simp] theorem Slot.wrote_resume (m : Slot) (code : Nat) : (m.wrote code).resume = m.resume := rfl
@[simp] theorem Slot.wrote_queued (m : Slot) (code : Nat) : (m.wrote code).queued = m.queued := rfl
@[simp] theorem Slot.wrote_sent (m : Slot) (code : Nat) : (m.wrote code).sent = m.sent := rfl
@[simp] theorem Slot.wrote_parity (m : Slot) (code : Nat) : (m.wrote code).parity = m.parity.filter (· != code) := rfl
@[simp] theorem Slot.wrote_checkOn (m : Slot) (code : Nat) : (m.wrote code).checkOn = m.checkOn := rfl
@[simp] theorem Slot.wrote_outl (m : Slot) (code : Nat) : (m.wrote code).outl = m.outl := rfl
@[simp] theorem Slot.wrote_scale (m : Slot) (code : Nat) : (m.wrote code).scale = m.scale := rfl
@[simp] theorem Slot.wrote_vsum (m : Slot) (code : Nat) : (m.wrote code).vsum = m.vsum := rfl
@[simp] theorem Slot.wrote_outstanding (m : Slot) (code : Nat) : (m.wrote code).outstanding = m.outstanding := rfl
@[simp] theorem Slot.wrote_unacquired (m : Slot) (code : Nat) : (m.wrote code).unacquired = m.unacquired := rfl
@[simp] theorem Slot.wrote_children (m : Slot) (code : Nat) : (m.wrote code).children = m.children := rfl
@[simp] theorem Slot.wrote_cover (m : Slot) (code : Nat) : (m.wrote code).cover = m.cover := rfl
@[simp] theorem Slot.wrote_released (m : Slot) (code : Nat) : (m.wrote code).released = m.released := rfl
@[simp] theorem Slot.wrote_seen (m : Slot) (code : Nat) : (m.wrote code).seen = m.seen := rfl
@[simp] theorem Slot.wrote_lvq (m : Slot) (code : Nat) : (m.wrote code).lvq = m.lvq := rfl
@[simp] theorem Slot.wrote_lvqNo (m : Slot) (code : Nat) : (m.wrote code).lvqNo = m.lvqNo := rfl
@[simp] theorem Slot.wrote_cmp (m : Slot) (code : Nat) : (m.wrote code).cmp = m.cmp := rfl
@[simp] theorem Slot.wrote_issued (m : Slot) (code : Nat) : (m.wrote code).issued = m.issued := rfl
@[simp] theorem Slot.wrote_plive (m : Slot) (code : Nat) : (m.wrote code).plive = m.plive := rfl

-- Slot.setG
@[simp] theorem Slot.setG_status (m : Slot) (a : Reg) (v : Word) : (m.setG a v).status = m.status := rfl
@[simp] theorem Slot.setG_task (m : Slot) (a : Reg) (v : Word) : (m.setG a v).task = m.task := rfl
@[simp] theorem Slot.setG_arch (m : Slot) (a : Reg) (v : Word) : (m.setG a v).arch = m.arch.setG a v := rfl
@[simp] theorem Slot.setG_squashes (m : Slot) (a : Reg) (v : Word) : (m.setG a v).squashes = m.squashes := rfl
@[simp] theorem Slot.setG_mstat (m : Slot) (a : Reg) (v : Word) : (m.setG a v).mstat = m.mstat := rfl
@[simp] theorem Slot.setG_detlvl (m : Slot) (a : Reg) (v : Word) : (m.setG a v).detlvl = m.detlvl := rfl
@[simp] theorem Slot.setG_q (m : Slot) (a : Reg) (v : Word) : (m.setG a v).q = m.q := rfl
@[simp] theorem Slot.setG_fifo (m : Slot) (a : Reg) (v : Word) : (m.setG a v).fifo = m.fifo := rfl
@[simp] theorem Slot.setG_ids (m : Slot) (a : Reg) (v : Word) : (m.setG a v).ids = m.ids := rfl
@[simp] theorem Slot.setG_counters (m : Slot) (a : Reg) (v : Word) : (m.setG a v).counters = m.counters := rfl
@[simp] theorem Slot.setG_returns (m : Slot) (a : Reg) (v : Word) : (m.setG a v).returns = m.returns := rfl
@[simp] theorem Slot.setG_removed (m : Slot) (a : Reg) (v : Word) : (m.setG a v).removed = m.removed := rfl
@[simp] theorem Slot.setG_taken (m : Slot) (a : Reg) (v : Word) : (m.setG a v).taken = m.taken := rfl
@[simp] theorem Slot.setG_pulled (m : Slot) (a : Reg) (v : Word) : (m.setG a v).pulled = m.pulled := rfl
@[simp] theorem Slot.setG_chunks (m : Slot) (a : Reg) (v : Word) : (m.setG a v).chunks = m.chunks := rfl
@[simp] theorem Slot.setG_chunkNo (m : Slot) (a : Reg) (v : Word) : (m.setG a v).chunkNo = m.chunkNo := rfl
@[simp] theorem Slot.setG_streaks (m : Slot) (a : Reg) (v : Word) : (m.setG a v).streaks = m.streaks := rfl
@[simp] theorem Slot.setG_serial (m : Slot) (a : Reg) (v : Word) : (m.setG a v).serial = m.serial := rfl
@[simp] theorem Slot.setG_supBefore (m : Slot) (a : Reg) (v : Word) : (m.setG a v).supBefore = m.supBefore := rfl
@[simp] theorem Slot.setG_trap (m : Slot) (a : Reg) (v : Word) : (m.setG a v).trap = m.trap := rfl
@[simp] theorem Slot.setG_wait (m : Slot) (a : Reg) (v : Word) : (m.setG a v).wait = m.wait := rfl
@[simp] theorem Slot.setG_resume (m : Slot) (a : Reg) (v : Word) : (m.setG a v).resume = m.resume := rfl
@[simp] theorem Slot.setG_queued (m : Slot) (a : Reg) (v : Word) : (m.setG a v).queued = m.queued := rfl
@[simp] theorem Slot.setG_sent (m : Slot) (a : Reg) (v : Word) : (m.setG a v).sent = m.sent := rfl
@[simp] theorem Slot.setG_parity (m : Slot) (a : Reg) (v : Word) : (m.setG a v).parity = m.parity.filter (· != codeG a) := rfl
@[simp] theorem Slot.setG_checkOn (m : Slot) (a : Reg) (v : Word) : (m.setG a v).checkOn = m.checkOn := rfl
@[simp] theorem Slot.setG_outl (m : Slot) (a : Reg) (v : Word) : (m.setG a v).outl = m.outl := rfl
@[simp] theorem Slot.setG_scale (m : Slot) (a : Reg) (v : Word) : (m.setG a v).scale = m.scale := rfl
@[simp] theorem Slot.setG_vsum (m : Slot) (a : Reg) (v : Word) : (m.setG a v).vsum = m.vsum := rfl
@[simp] theorem Slot.setG_outstanding (m : Slot) (a : Reg) (v : Word) : (m.setG a v).outstanding = m.outstanding := rfl
@[simp] theorem Slot.setG_unacquired (m : Slot) (a : Reg) (v : Word) : (m.setG a v).unacquired = m.unacquired := rfl
@[simp] theorem Slot.setG_children (m : Slot) (a : Reg) (v : Word) : (m.setG a v).children = m.children := rfl
@[simp] theorem Slot.setG_cover (m : Slot) (a : Reg) (v : Word) : (m.setG a v).cover = m.cover := rfl
@[simp] theorem Slot.setG_released (m : Slot) (a : Reg) (v : Word) : (m.setG a v).released = m.released := rfl
@[simp] theorem Slot.setG_seen (m : Slot) (a : Reg) (v : Word) : (m.setG a v).seen = m.seen := rfl
@[simp] theorem Slot.setG_lvq (m : Slot) (a : Reg) (v : Word) : (m.setG a v).lvq = m.lvq := rfl
@[simp] theorem Slot.setG_lvqNo (m : Slot) (a : Reg) (v : Word) : (m.setG a v).lvqNo = m.lvqNo := rfl
@[simp] theorem Slot.setG_cmp (m : Slot) (a : Reg) (v : Word) : (m.setG a v).cmp = m.cmp := rfl
@[simp] theorem Slot.setG_issued (m : Slot) (a : Reg) (v : Word) : (m.setG a v).issued = m.issued := rfl
@[simp] theorem Slot.setG_plive (m : Slot) (a : Reg) (v : Word) : (m.setG a v).plive = m.plive := rfl

-- Slot.setF
@[simp] theorem Slot.setF_status (m : Slot) (a : Reg) (v : Single) : (m.setF a v).status = m.status := rfl
@[simp] theorem Slot.setF_task (m : Slot) (a : Reg) (v : Single) : (m.setF a v).task = m.task := rfl
@[simp] theorem Slot.setF_arch (m : Slot) (a : Reg) (v : Single) : (m.setF a v).arch = m.arch.setF a v := rfl
@[simp] theorem Slot.setF_squashes (m : Slot) (a : Reg) (v : Single) : (m.setF a v).squashes = m.squashes := rfl
@[simp] theorem Slot.setF_mstat (m : Slot) (a : Reg) (v : Single) : (m.setF a v).mstat = m.mstat := rfl
@[simp] theorem Slot.setF_detlvl (m : Slot) (a : Reg) (v : Single) : (m.setF a v).detlvl = m.detlvl := rfl
@[simp] theorem Slot.setF_q (m : Slot) (a : Reg) (v : Single) : (m.setF a v).q = m.q := rfl
@[simp] theorem Slot.setF_fifo (m : Slot) (a : Reg) (v : Single) : (m.setF a v).fifo = m.fifo := rfl
@[simp] theorem Slot.setF_ids (m : Slot) (a : Reg) (v : Single) : (m.setF a v).ids = m.ids := rfl
@[simp] theorem Slot.setF_counters (m : Slot) (a : Reg) (v : Single) : (m.setF a v).counters = m.counters := rfl
@[simp] theorem Slot.setF_returns (m : Slot) (a : Reg) (v : Single) : (m.setF a v).returns = m.returns := rfl
@[simp] theorem Slot.setF_removed (m : Slot) (a : Reg) (v : Single) : (m.setF a v).removed = m.removed := rfl
@[simp] theorem Slot.setF_taken (m : Slot) (a : Reg) (v : Single) : (m.setF a v).taken = m.taken := rfl
@[simp] theorem Slot.setF_pulled (m : Slot) (a : Reg) (v : Single) : (m.setF a v).pulled = m.pulled := rfl
@[simp] theorem Slot.setF_chunks (m : Slot) (a : Reg) (v : Single) : (m.setF a v).chunks = m.chunks := rfl
@[simp] theorem Slot.setF_chunkNo (m : Slot) (a : Reg) (v : Single) : (m.setF a v).chunkNo = m.chunkNo := rfl
@[simp] theorem Slot.setF_streaks (m : Slot) (a : Reg) (v : Single) : (m.setF a v).streaks = m.streaks := rfl
@[simp] theorem Slot.setF_serial (m : Slot) (a : Reg) (v : Single) : (m.setF a v).serial = m.serial := rfl
@[simp] theorem Slot.setF_supBefore (m : Slot) (a : Reg) (v : Single) : (m.setF a v).supBefore = m.supBefore := rfl
@[simp] theorem Slot.setF_trap (m : Slot) (a : Reg) (v : Single) : (m.setF a v).trap = m.trap := rfl
@[simp] theorem Slot.setF_wait (m : Slot) (a : Reg) (v : Single) : (m.setF a v).wait = m.wait := rfl
@[simp] theorem Slot.setF_resume (m : Slot) (a : Reg) (v : Single) : (m.setF a v).resume = m.resume := rfl
@[simp] theorem Slot.setF_queued (m : Slot) (a : Reg) (v : Single) : (m.setF a v).queued = m.queued := rfl
@[simp] theorem Slot.setF_sent (m : Slot) (a : Reg) (v : Single) : (m.setF a v).sent = m.sent := rfl
@[simp] theorem Slot.setF_parity (m : Slot) (a : Reg) (v : Single) : (m.setF a v).parity = m.parity.filter (· != codeF a) := rfl
@[simp] theorem Slot.setF_checkOn (m : Slot) (a : Reg) (v : Single) : (m.setF a v).checkOn = m.checkOn := rfl
@[simp] theorem Slot.setF_outl (m : Slot) (a : Reg) (v : Single) : (m.setF a v).outl = m.outl := rfl
@[simp] theorem Slot.setF_scale (m : Slot) (a : Reg) (v : Single) : (m.setF a v).scale = m.scale := rfl
@[simp] theorem Slot.setF_vsum (m : Slot) (a : Reg) (v : Single) : (m.setF a v).vsum = m.vsum := rfl
@[simp] theorem Slot.setF_outstanding (m : Slot) (a : Reg) (v : Single) : (m.setF a v).outstanding = m.outstanding := rfl
@[simp] theorem Slot.setF_unacquired (m : Slot) (a : Reg) (v : Single) : (m.setF a v).unacquired = m.unacquired := rfl
@[simp] theorem Slot.setF_children (m : Slot) (a : Reg) (v : Single) : (m.setF a v).children = m.children := rfl
@[simp] theorem Slot.setF_cover (m : Slot) (a : Reg) (v : Single) : (m.setF a v).cover = m.cover := rfl
@[simp] theorem Slot.setF_released (m : Slot) (a : Reg) (v : Single) : (m.setF a v).released = m.released := rfl
@[simp] theorem Slot.setF_seen (m : Slot) (a : Reg) (v : Single) : (m.setF a v).seen = m.seen := rfl
@[simp] theorem Slot.setF_lvq (m : Slot) (a : Reg) (v : Single) : (m.setF a v).lvq = m.lvq := rfl
@[simp] theorem Slot.setF_lvqNo (m : Slot) (a : Reg) (v : Single) : (m.setF a v).lvqNo = m.lvqNo := rfl
@[simp] theorem Slot.setF_cmp (m : Slot) (a : Reg) (v : Single) : (m.setF a v).cmp = m.cmp := rfl
@[simp] theorem Slot.setF_issued (m : Slot) (a : Reg) (v : Single) : (m.setF a v).issued = m.issued := rfl
@[simp] theorem Slot.setF_plive (m : Slot) (a : Reg) (v : Single) : (m.setF a v).plive = m.plive := rfl

-- Slot.setK
@[simp] theorem Slot.setK_status (m : Slot) (k : BitVec 2) (v : Word) : (m.setK k v).status = m.status := rfl
@[simp] theorem Slot.setK_task (m : Slot) (k : BitVec 2) (v : Word) : (m.setK k v).task = m.task := rfl
@[simp] theorem Slot.setK_arch (m : Slot) (k : BitVec 2) (v : Word) : (m.setK k v).arch = m.arch.setK k v := rfl
@[simp] theorem Slot.setK_squashes (m : Slot) (k : BitVec 2) (v : Word) : (m.setK k v).squashes = m.squashes := rfl
@[simp] theorem Slot.setK_mstat (m : Slot) (k : BitVec 2) (v : Word) : (m.setK k v).mstat = m.mstat := rfl
@[simp] theorem Slot.setK_detlvl (m : Slot) (k : BitVec 2) (v : Word) : (m.setK k v).detlvl = m.detlvl := rfl
@[simp] theorem Slot.setK_q (m : Slot) (k : BitVec 2) (v : Word) : (m.setK k v).q = m.q := rfl
@[simp] theorem Slot.setK_fifo (m : Slot) (k : BitVec 2) (v : Word) : (m.setK k v).fifo = m.fifo := rfl
@[simp] theorem Slot.setK_ids (m : Slot) (k : BitVec 2) (v : Word) : (m.setK k v).ids = m.ids := rfl
@[simp] theorem Slot.setK_counters (m : Slot) (k : BitVec 2) (v : Word) : (m.setK k v).counters = m.counters := rfl
@[simp] theorem Slot.setK_returns (m : Slot) (k : BitVec 2) (v : Word) : (m.setK k v).returns = m.returns := rfl
@[simp] theorem Slot.setK_removed (m : Slot) (k : BitVec 2) (v : Word) : (m.setK k v).removed = m.removed := rfl
@[simp] theorem Slot.setK_taken (m : Slot) (k : BitVec 2) (v : Word) : (m.setK k v).taken = m.taken := rfl
@[simp] theorem Slot.setK_pulled (m : Slot) (k : BitVec 2) (v : Word) : (m.setK k v).pulled = m.pulled := rfl
@[simp] theorem Slot.setK_chunks (m : Slot) (k : BitVec 2) (v : Word) : (m.setK k v).chunks = m.chunks := rfl
@[simp] theorem Slot.setK_chunkNo (m : Slot) (k : BitVec 2) (v : Word) : (m.setK k v).chunkNo = m.chunkNo := rfl
@[simp] theorem Slot.setK_streaks (m : Slot) (k : BitVec 2) (v : Word) : (m.setK k v).streaks = m.streaks := rfl
@[simp] theorem Slot.setK_serial (m : Slot) (k : BitVec 2) (v : Word) : (m.setK k v).serial = m.serial := rfl
@[simp] theorem Slot.setK_supBefore (m : Slot) (k : BitVec 2) (v : Word) : (m.setK k v).supBefore = m.supBefore := rfl
@[simp] theorem Slot.setK_trap (m : Slot) (k : BitVec 2) (v : Word) : (m.setK k v).trap = m.trap := rfl
@[simp] theorem Slot.setK_wait (m : Slot) (k : BitVec 2) (v : Word) : (m.setK k v).wait = m.wait := rfl
@[simp] theorem Slot.setK_resume (m : Slot) (k : BitVec 2) (v : Word) : (m.setK k v).resume = m.resume := rfl
@[simp] theorem Slot.setK_queued (m : Slot) (k : BitVec 2) (v : Word) : (m.setK k v).queued = m.queued := rfl
@[simp] theorem Slot.setK_sent (m : Slot) (k : BitVec 2) (v : Word) : (m.setK k v).sent = m.sent := rfl
@[simp] theorem Slot.setK_parity (m : Slot) (k : BitVec 2) (v : Word) : (m.setK k v).parity = m.parity.filter (· != codeK k) := rfl
@[simp] theorem Slot.setK_checkOn (m : Slot) (k : BitVec 2) (v : Word) : (m.setK k v).checkOn = m.checkOn := rfl
@[simp] theorem Slot.setK_outl (m : Slot) (k : BitVec 2) (v : Word) : (m.setK k v).outl = m.outl := rfl
@[simp] theorem Slot.setK_scale (m : Slot) (k : BitVec 2) (v : Word) : (m.setK k v).scale = m.scale := rfl
@[simp] theorem Slot.setK_vsum (m : Slot) (k : BitVec 2) (v : Word) : (m.setK k v).vsum = m.vsum := rfl
@[simp] theorem Slot.setK_outstanding (m : Slot) (k : BitVec 2) (v : Word) : (m.setK k v).outstanding = m.outstanding := rfl
@[simp] theorem Slot.setK_unacquired (m : Slot) (k : BitVec 2) (v : Word) : (m.setK k v).unacquired = m.unacquired := rfl
@[simp] theorem Slot.setK_children (m : Slot) (k : BitVec 2) (v : Word) : (m.setK k v).children = m.children := rfl
@[simp] theorem Slot.setK_cover (m : Slot) (k : BitVec 2) (v : Word) : (m.setK k v).cover = m.cover := rfl
@[simp] theorem Slot.setK_released (m : Slot) (k : BitVec 2) (v : Word) : (m.setK k v).released = m.released := rfl
@[simp] theorem Slot.setK_seen (m : Slot) (k : BitVec 2) (v : Word) : (m.setK k v).seen = m.seen := rfl
@[simp] theorem Slot.setK_lvq (m : Slot) (k : BitVec 2) (v : Word) : (m.setK k v).lvq = m.lvq := rfl
@[simp] theorem Slot.setK_lvqNo (m : Slot) (k : BitVec 2) (v : Word) : (m.setK k v).lvqNo = m.lvqNo := rfl
@[simp] theorem Slot.setK_cmp (m : Slot) (k : BitVec 2) (v : Word) : (m.setK k v).cmp = m.cmp := rfl
@[simp] theorem Slot.setK_issued (m : Slot) (k : BitVec 2) (v : Word) : (m.setK k v).issued = m.issued := rfl
@[simp] theorem Slot.setK_plive (m : Slot) (k : BitVec 2) (v : Word) : (m.setK k v).plive = m.plive := rfl

-- Slot.setQ
@[simp] theorem Slot.setQ_status (m : Slot) (q : Nat) (b : Binding) : (m.setQ q b).status = m.status := rfl
@[simp] theorem Slot.setQ_task (m : Slot) (q : Nat) (b : Binding) : (m.setQ q b).task = m.task := rfl
@[simp] theorem Slot.setQ_arch (m : Slot) (q : Nat) (b : Binding) : (m.setQ q b).arch = m.arch := rfl
@[simp] theorem Slot.setQ_squashes (m : Slot) (q : Nat) (b : Binding) : (m.setQ q b).squashes = m.squashes := rfl
@[simp] theorem Slot.setQ_mstat (m : Slot) (q : Nat) (b : Binding) : (m.setQ q b).mstat = m.mstat := rfl
@[simp] theorem Slot.setQ_detlvl (m : Slot) (q : Nat) (b : Binding) : (m.setQ q b).detlvl = m.detlvl := rfl
@[simp] theorem Slot.setQ_q (m : Slot) (q : Nat) (b : Binding) : (m.setQ q b).q = m.q.setIfInBounds q b := rfl
@[simp] theorem Slot.setQ_fifo (m : Slot) (q : Nat) (b : Binding) : (m.setQ q b).fifo = m.fifo := rfl
@[simp] theorem Slot.setQ_ids (m : Slot) (q : Nat) (b : Binding) : (m.setQ q b).ids = m.ids := rfl
@[simp] theorem Slot.setQ_counters (m : Slot) (q : Nat) (b : Binding) : (m.setQ q b).counters = m.counters := rfl
@[simp] theorem Slot.setQ_returns (m : Slot) (q : Nat) (b : Binding) : (m.setQ q b).returns = m.returns := rfl
@[simp] theorem Slot.setQ_removed (m : Slot) (q : Nat) (b : Binding) : (m.setQ q b).removed = m.removed := rfl
@[simp] theorem Slot.setQ_taken (m : Slot) (q : Nat) (b : Binding) : (m.setQ q b).taken = m.taken := rfl
@[simp] theorem Slot.setQ_pulled (m : Slot) (q : Nat) (b : Binding) : (m.setQ q b).pulled = m.pulled := rfl
@[simp] theorem Slot.setQ_chunks (m : Slot) (q : Nat) (b : Binding) : (m.setQ q b).chunks = m.chunks := rfl
@[simp] theorem Slot.setQ_chunkNo (m : Slot) (q : Nat) (b : Binding) : (m.setQ q b).chunkNo = m.chunkNo := rfl
@[simp] theorem Slot.setQ_streaks (m : Slot) (q : Nat) (b : Binding) : (m.setQ q b).streaks = m.streaks := rfl
@[simp] theorem Slot.setQ_serial (m : Slot) (q : Nat) (b : Binding) : (m.setQ q b).serial = m.serial := rfl
@[simp] theorem Slot.setQ_supBefore (m : Slot) (q : Nat) (b : Binding) : (m.setQ q b).supBefore = m.supBefore := rfl
@[simp] theorem Slot.setQ_trap (m : Slot) (q : Nat) (b : Binding) : (m.setQ q b).trap = m.trap := rfl
@[simp] theorem Slot.setQ_wait (m : Slot) (q : Nat) (b : Binding) : (m.setQ q b).wait = m.wait := rfl
@[simp] theorem Slot.setQ_resume (m : Slot) (q : Nat) (b : Binding) : (m.setQ q b).resume = m.resume := rfl
@[simp] theorem Slot.setQ_queued (m : Slot) (q : Nat) (b : Binding) : (m.setQ q b).queued = m.queued := rfl
@[simp] theorem Slot.setQ_sent (m : Slot) (q : Nat) (b : Binding) : (m.setQ q b).sent = m.sent := rfl
@[simp] theorem Slot.setQ_parity (m : Slot) (q : Nat) (b : Binding) : (m.setQ q b).parity = m.parity := rfl
@[simp] theorem Slot.setQ_checkOn (m : Slot) (q : Nat) (b : Binding) : (m.setQ q b).checkOn = m.checkOn := rfl
@[simp] theorem Slot.setQ_outl (m : Slot) (q : Nat) (b : Binding) : (m.setQ q b).outl = m.outl := rfl
@[simp] theorem Slot.setQ_scale (m : Slot) (q : Nat) (b : Binding) : (m.setQ q b).scale = m.scale := rfl
@[simp] theorem Slot.setQ_vsum (m : Slot) (q : Nat) (b : Binding) : (m.setQ q b).vsum = m.vsum := rfl
@[simp] theorem Slot.setQ_outstanding (m : Slot) (q : Nat) (b : Binding) : (m.setQ q b).outstanding = m.outstanding := rfl
@[simp] theorem Slot.setQ_unacquired (m : Slot) (q : Nat) (b : Binding) : (m.setQ q b).unacquired = m.unacquired := rfl
@[simp] theorem Slot.setQ_children (m : Slot) (q : Nat) (b : Binding) : (m.setQ q b).children = m.children := rfl
@[simp] theorem Slot.setQ_cover (m : Slot) (q : Nat) (b : Binding) : (m.setQ q b).cover = m.cover := rfl
@[simp] theorem Slot.setQ_released (m : Slot) (q : Nat) (b : Binding) : (m.setQ q b).released = m.released := rfl
@[simp] theorem Slot.setQ_seen (m : Slot) (q : Nat) (b : Binding) : (m.setQ q b).seen = m.seen := rfl
@[simp] theorem Slot.setQ_lvq (m : Slot) (q : Nat) (b : Binding) : (m.setQ q b).lvq = m.lvq := rfl
@[simp] theorem Slot.setQ_lvqNo (m : Slot) (q : Nat) (b : Binding) : (m.setQ q b).lvqNo = m.lvqNo := rfl
@[simp] theorem Slot.setQ_cmp (m : Slot) (q : Nat) (b : Binding) : (m.setQ q b).cmp = m.cmp := rfl
@[simp] theorem Slot.setQ_issued (m : Slot) (q : Nat) (b : Binding) : (m.setQ q b).issued = m.issued := rfl
@[simp] theorem Slot.setQ_plive (m : Slot) (q : Nat) (b : Binding) : (m.setQ q b).plive = m.plive := rfl

-- Slot.setFifo
@[simp] theorem Slot.setFifo_status (m : Slot) (k : Nat) (f : Fifo) : (m.setFifo k f).status = m.status := rfl
@[simp] theorem Slot.setFifo_task (m : Slot) (k : Nat) (f : Fifo) : (m.setFifo k f).task = m.task := rfl
@[simp] theorem Slot.setFifo_arch (m : Slot) (k : Nat) (f : Fifo) : (m.setFifo k f).arch = m.arch := rfl
@[simp] theorem Slot.setFifo_squashes (m : Slot) (k : Nat) (f : Fifo) : (m.setFifo k f).squashes = m.squashes := rfl
@[simp] theorem Slot.setFifo_mstat (m : Slot) (k : Nat) (f : Fifo) : (m.setFifo k f).mstat = m.mstat := rfl
@[simp] theorem Slot.setFifo_detlvl (m : Slot) (k : Nat) (f : Fifo) : (m.setFifo k f).detlvl = m.detlvl := rfl
@[simp] theorem Slot.setFifo_q (m : Slot) (k : Nat) (f : Fifo) : (m.setFifo k f).q = m.q := rfl
@[simp] theorem Slot.setFifo_fifo (m : Slot) (k : Nat) (f : Fifo) : (m.setFifo k f).fifo = m.fifo.setIfInBounds (k - 3) f := rfl
@[simp] theorem Slot.setFifo_ids (m : Slot) (k : Nat) (f : Fifo) : (m.setFifo k f).ids = m.ids := rfl
@[simp] theorem Slot.setFifo_counters (m : Slot) (k : Nat) (f : Fifo) : (m.setFifo k f).counters = m.counters := rfl
@[simp] theorem Slot.setFifo_returns (m : Slot) (k : Nat) (f : Fifo) : (m.setFifo k f).returns = m.returns := rfl
@[simp] theorem Slot.setFifo_removed (m : Slot) (k : Nat) (f : Fifo) : (m.setFifo k f).removed = m.removed := rfl
@[simp] theorem Slot.setFifo_taken (m : Slot) (k : Nat) (f : Fifo) : (m.setFifo k f).taken = m.taken := rfl
@[simp] theorem Slot.setFifo_pulled (m : Slot) (k : Nat) (f : Fifo) : (m.setFifo k f).pulled = m.pulled := rfl
@[simp] theorem Slot.setFifo_chunks (m : Slot) (k : Nat) (f : Fifo) : (m.setFifo k f).chunks = m.chunks := rfl
@[simp] theorem Slot.setFifo_chunkNo (m : Slot) (k : Nat) (f : Fifo) : (m.setFifo k f).chunkNo = m.chunkNo := rfl
@[simp] theorem Slot.setFifo_streaks (m : Slot) (k : Nat) (f : Fifo) : (m.setFifo k f).streaks = m.streaks := rfl
@[simp] theorem Slot.setFifo_serial (m : Slot) (k : Nat) (f : Fifo) : (m.setFifo k f).serial = m.serial := rfl
@[simp] theorem Slot.setFifo_supBefore (m : Slot) (k : Nat) (f : Fifo) : (m.setFifo k f).supBefore = m.supBefore := rfl
@[simp] theorem Slot.setFifo_trap (m : Slot) (k : Nat) (f : Fifo) : (m.setFifo k f).trap = m.trap := rfl
@[simp] theorem Slot.setFifo_wait (m : Slot) (k : Nat) (f : Fifo) : (m.setFifo k f).wait = m.wait := rfl
@[simp] theorem Slot.setFifo_resume (m : Slot) (k : Nat) (f : Fifo) : (m.setFifo k f).resume = m.resume := rfl
@[simp] theorem Slot.setFifo_queued (m : Slot) (k : Nat) (f : Fifo) : (m.setFifo k f).queued = m.queued := rfl
@[simp] theorem Slot.setFifo_sent (m : Slot) (k : Nat) (f : Fifo) : (m.setFifo k f).sent = m.sent := rfl
@[simp] theorem Slot.setFifo_parity (m : Slot) (k : Nat) (f : Fifo) : (m.setFifo k f).parity = m.parity := rfl
@[simp] theorem Slot.setFifo_checkOn (m : Slot) (k : Nat) (f : Fifo) : (m.setFifo k f).checkOn = m.checkOn := rfl
@[simp] theorem Slot.setFifo_outl (m : Slot) (k : Nat) (f : Fifo) : (m.setFifo k f).outl = m.outl := rfl
@[simp] theorem Slot.setFifo_scale (m : Slot) (k : Nat) (f : Fifo) : (m.setFifo k f).scale = m.scale := rfl
@[simp] theorem Slot.setFifo_vsum (m : Slot) (k : Nat) (f : Fifo) : (m.setFifo k f).vsum = m.vsum := rfl
@[simp] theorem Slot.setFifo_outstanding (m : Slot) (k : Nat) (f : Fifo) : (m.setFifo k f).outstanding = m.outstanding := rfl
@[simp] theorem Slot.setFifo_unacquired (m : Slot) (k : Nat) (f : Fifo) : (m.setFifo k f).unacquired = m.unacquired := rfl
@[simp] theorem Slot.setFifo_children (m : Slot) (k : Nat) (f : Fifo) : (m.setFifo k f).children = m.children := rfl
@[simp] theorem Slot.setFifo_cover (m : Slot) (k : Nat) (f : Fifo) : (m.setFifo k f).cover = m.cover := rfl
@[simp] theorem Slot.setFifo_released (m : Slot) (k : Nat) (f : Fifo) : (m.setFifo k f).released = m.released := rfl
@[simp] theorem Slot.setFifo_seen (m : Slot) (k : Nat) (f : Fifo) : (m.setFifo k f).seen = m.seen := rfl
@[simp] theorem Slot.setFifo_lvq (m : Slot) (k : Nat) (f : Fifo) : (m.setFifo k f).lvq = m.lvq := rfl
@[simp] theorem Slot.setFifo_lvqNo (m : Slot) (k : Nat) (f : Fifo) : (m.setFifo k f).lvqNo = m.lvqNo := rfl
@[simp] theorem Slot.setFifo_cmp (m : Slot) (k : Nat) (f : Fifo) : (m.setFifo k f).cmp = m.cmp := rfl
@[simp] theorem Slot.setFifo_issued (m : Slot) (k : Nat) (f : Fifo) : (m.setFifo k f).issued = m.issued := rfl
@[simp] theorem Slot.setFifo_plive (m : Slot) (k : Nat) (f : Fifo) : (m.setFifo k f).plive = m.plive := rfl

-- Slot.count
@[simp] theorem Slot.count_status (m : Slot) (n k : Nat) : (m.count n k).status = m.status := rfl
@[simp] theorem Slot.count_task (m : Slot) (n k : Nat) : (m.count n k).task = m.task := rfl
@[simp] theorem Slot.count_arch (m : Slot) (n k : Nat) : (m.count n k).arch = m.arch := rfl
@[simp] theorem Slot.count_squashes (m : Slot) (n k : Nat) : (m.count n k).squashes = m.squashes := rfl
@[simp] theorem Slot.count_mstat (m : Slot) (n k : Nat) : (m.count n k).mstat = m.mstat := rfl
@[simp] theorem Slot.count_detlvl (m : Slot) (n k : Nat) : (m.count n k).detlvl = m.detlvl := rfl
@[simp] theorem Slot.count_q (m : Slot) (n k : Nat) : (m.count n k).q = m.q := rfl
@[simp] theorem Slot.count_fifo (m : Slot) (n k : Nat) : (m.count n k).fifo = m.fifo := rfl
@[simp] theorem Slot.count_ids (m : Slot) (n k : Nat) : (m.count n k).ids = m.ids := rfl
@[simp] theorem Slot.count_counters (m : Slot) (n k : Nat) : (m.count n k).counters = m.counters.setIfInBounds n (w64 (min (((m.counters[n]?).getD 0).toNat + k) (2 ^ 64 - 1))) := rfl
@[simp] theorem Slot.count_returns (m : Slot) (n k : Nat) : (m.count n k).returns = m.returns := rfl
@[simp] theorem Slot.count_removed (m : Slot) (n k : Nat) : (m.count n k).removed = m.removed := rfl
@[simp] theorem Slot.count_taken (m : Slot) (n k : Nat) : (m.count n k).taken = m.taken := rfl
@[simp] theorem Slot.count_pulled (m : Slot) (n k : Nat) : (m.count n k).pulled = m.pulled := rfl
@[simp] theorem Slot.count_chunks (m : Slot) (n k : Nat) : (m.count n k).chunks = m.chunks := rfl
@[simp] theorem Slot.count_chunkNo (m : Slot) (n k : Nat) : (m.count n k).chunkNo = m.chunkNo := rfl
@[simp] theorem Slot.count_streaks (m : Slot) (n k : Nat) : (m.count n k).streaks = m.streaks := rfl
@[simp] theorem Slot.count_serial (m : Slot) (n k : Nat) : (m.count n k).serial = m.serial := rfl
@[simp] theorem Slot.count_supBefore (m : Slot) (n k : Nat) : (m.count n k).supBefore = m.supBefore := rfl
@[simp] theorem Slot.count_trap (m : Slot) (n k : Nat) : (m.count n k).trap = m.trap := rfl
@[simp] theorem Slot.count_wait (m : Slot) (n k : Nat) : (m.count n k).wait = m.wait := rfl
@[simp] theorem Slot.count_resume (m : Slot) (n k : Nat) : (m.count n k).resume = m.resume := rfl
@[simp] theorem Slot.count_queued (m : Slot) (n k : Nat) : (m.count n k).queued = m.queued := rfl
@[simp] theorem Slot.count_sent (m : Slot) (n k : Nat) : (m.count n k).sent = m.sent := rfl
@[simp] theorem Slot.count_parity (m : Slot) (n k : Nat) : (m.count n k).parity = m.parity := rfl
@[simp] theorem Slot.count_checkOn (m : Slot) (n k : Nat) : (m.count n k).checkOn = m.checkOn := rfl
@[simp] theorem Slot.count_outl (m : Slot) (n k : Nat) : (m.count n k).outl = m.outl := rfl
@[simp] theorem Slot.count_scale (m : Slot) (n k : Nat) : (m.count n k).scale = m.scale := rfl
@[simp] theorem Slot.count_vsum (m : Slot) (n k : Nat) : (m.count n k).vsum = m.vsum := rfl
@[simp] theorem Slot.count_outstanding (m : Slot) (n k : Nat) : (m.count n k).outstanding = m.outstanding := rfl
@[simp] theorem Slot.count_unacquired (m : Slot) (n k : Nat) : (m.count n k).unacquired = m.unacquired := rfl
@[simp] theorem Slot.count_children (m : Slot) (n k : Nat) : (m.count n k).children = m.children := rfl
@[simp] theorem Slot.count_cover (m : Slot) (n k : Nat) : (m.count n k).cover = m.cover := rfl
@[simp] theorem Slot.count_released (m : Slot) (n k : Nat) : (m.count n k).released = m.released := rfl
@[simp] theorem Slot.count_seen (m : Slot) (n k : Nat) : (m.count n k).seen = m.seen := rfl
@[simp] theorem Slot.count_lvq (m : Slot) (n k : Nat) : (m.count n k).lvq = m.lvq := rfl
@[simp] theorem Slot.count_lvqNo (m : Slot) (n k : Nat) : (m.count n k).lvqNo = m.lvqNo := rfl
@[simp] theorem Slot.count_cmp (m : Slot) (n k : Nat) : (m.count n k).cmp = m.cmp := rfl
@[simp] theorem Slot.count_issued (m : Slot) (n k : Nat) : (m.count n k).issued = m.issued := rfl
@[simp] theorem Slot.count_plive (m : Slot) (n k : Nat) : (m.count n k).plive = m.plive := rfl

-- Slot.closeChunk
@[simp] theorem Slot.closeChunk_status (m : Slot)  : m.closeChunk.status = m.status := rfl
@[simp] theorem Slot.closeChunk_task (m : Slot)  : m.closeChunk.task = m.task := rfl
@[simp] theorem Slot.closeChunk_arch (m : Slot)  : m.closeChunk.arch = m.arch := rfl
@[simp] theorem Slot.closeChunk_squashes (m : Slot)  : m.closeChunk.squashes = m.squashes := rfl
@[simp] theorem Slot.closeChunk_mstat (m : Slot)  : m.closeChunk.mstat = m.mstat := rfl
@[simp] theorem Slot.closeChunk_detlvl (m : Slot)  : m.closeChunk.detlvl = m.detlvl := rfl
@[simp] theorem Slot.closeChunk_q (m : Slot)  : m.closeChunk.q = m.q := rfl
@[simp] theorem Slot.closeChunk_fifo (m : Slot)  : m.closeChunk.fifo = m.fifo := rfl
@[simp] theorem Slot.closeChunk_ids (m : Slot)  : m.closeChunk.ids = m.ids := rfl
@[simp] theorem Slot.closeChunk_counters (m : Slot)  : m.closeChunk.counters = m.counters := rfl
@[simp] theorem Slot.closeChunk_returns (m : Slot)  : m.closeChunk.returns = m.returns := rfl
@[simp] theorem Slot.closeChunk_removed (m : Slot)  : m.closeChunk.removed = m.removed := rfl
@[simp] theorem Slot.closeChunk_taken (m : Slot)  : m.closeChunk.taken = m.taken := rfl
@[simp] theorem Slot.closeChunk_pulled (m : Slot)  : m.closeChunk.pulled = m.pulled := rfl
@[simp] theorem Slot.closeChunk_chunks (m : Slot)  : m.closeChunk.chunks = (m.chunks.filter (fun c => c.count != 0)).map (fun c => { c with closed := true }) := rfl
@[simp] theorem Slot.closeChunk_chunkNo (m : Slot)  : m.closeChunk.chunkNo = m.chunkNo := rfl
@[simp] theorem Slot.closeChunk_streaks (m : Slot)  : m.closeChunk.streaks = m.streaks := rfl
@[simp] theorem Slot.closeChunk_serial (m : Slot)  : m.closeChunk.serial = 0 := rfl
@[simp] theorem Slot.closeChunk_supBefore (m : Slot)  : m.closeChunk.supBefore = m.supBefore := rfl
@[simp] theorem Slot.closeChunk_trap (m : Slot)  : m.closeChunk.trap = m.trap := rfl
@[simp] theorem Slot.closeChunk_wait (m : Slot)  : m.closeChunk.wait = m.wait := rfl
@[simp] theorem Slot.closeChunk_resume (m : Slot)  : m.closeChunk.resume = m.resume := rfl
@[simp] theorem Slot.closeChunk_queued (m : Slot)  : m.closeChunk.queued = m.queued := rfl
@[simp] theorem Slot.closeChunk_sent (m : Slot)  : m.closeChunk.sent = m.sent := rfl
@[simp] theorem Slot.closeChunk_parity (m : Slot)  : m.closeChunk.parity = m.parity := rfl
@[simp] theorem Slot.closeChunk_checkOn (m : Slot)  : m.closeChunk.checkOn = m.checkOn := rfl
@[simp] theorem Slot.closeChunk_outl (m : Slot)  : m.closeChunk.outl = m.outl := rfl
@[simp] theorem Slot.closeChunk_scale (m : Slot)  : m.closeChunk.scale = m.scale := rfl
@[simp] theorem Slot.closeChunk_vsum (m : Slot)  : m.closeChunk.vsum = m.vsum := rfl
@[simp] theorem Slot.closeChunk_outstanding (m : Slot)  : m.closeChunk.outstanding = m.outstanding := rfl
@[simp] theorem Slot.closeChunk_unacquired (m : Slot)  : m.closeChunk.unacquired = m.unacquired := rfl
@[simp] theorem Slot.closeChunk_children (m : Slot)  : m.closeChunk.children = m.children := rfl
@[simp] theorem Slot.closeChunk_cover (m : Slot)  : m.closeChunk.cover = m.cover := rfl
@[simp] theorem Slot.closeChunk_released (m : Slot)  : m.closeChunk.released = m.released := rfl
@[simp] theorem Slot.closeChunk_seen (m : Slot)  : m.closeChunk.seen = m.seen := rfl
@[simp] theorem Slot.closeChunk_lvq (m : Slot)  : m.closeChunk.lvq = m.lvq := rfl
@[simp] theorem Slot.closeChunk_lvqNo (m : Slot)  : m.closeChunk.lvqNo = m.lvqNo := rfl
@[simp] theorem Slot.closeChunk_cmp (m : Slot)  : m.closeChunk.cmp = m.cmp := rfl
@[simp] theorem Slot.closeChunk_issued (m : Slot)  : m.closeChunk.issued = m.issued := rfl
@[simp] theorem Slot.closeChunk_plive (m : Slot)  : m.closeChunk.plive = m.plive := rfl

-- Slot.modOpen
@[simp] theorem Slot.modOpen_status (m : Slot) (f : Chunk → Chunk) : (m.modOpen f).status = m.status := rfl
@[simp] theorem Slot.modOpen_task (m : Slot) (f : Chunk → Chunk) : (m.modOpen f).task = m.task := rfl
@[simp] theorem Slot.modOpen_arch (m : Slot) (f : Chunk → Chunk) : (m.modOpen f).arch = m.arch := rfl
@[simp] theorem Slot.modOpen_squashes (m : Slot) (f : Chunk → Chunk) : (m.modOpen f).squashes = m.squashes := rfl
@[simp] theorem Slot.modOpen_mstat (m : Slot) (f : Chunk → Chunk) : (m.modOpen f).mstat = m.mstat := rfl
@[simp] theorem Slot.modOpen_detlvl (m : Slot) (f : Chunk → Chunk) : (m.modOpen f).detlvl = m.detlvl := rfl
@[simp] theorem Slot.modOpen_q (m : Slot) (f : Chunk → Chunk) : (m.modOpen f).q = m.q := rfl
@[simp] theorem Slot.modOpen_fifo (m : Slot) (f : Chunk → Chunk) : (m.modOpen f).fifo = m.fifo := rfl
@[simp] theorem Slot.modOpen_ids (m : Slot) (f : Chunk → Chunk) : (m.modOpen f).ids = m.ids := rfl
@[simp] theorem Slot.modOpen_counters (m : Slot) (f : Chunk → Chunk) : (m.modOpen f).counters = m.counters := rfl
@[simp] theorem Slot.modOpen_returns (m : Slot) (f : Chunk → Chunk) : (m.modOpen f).returns = m.returns := rfl
@[simp] theorem Slot.modOpen_removed (m : Slot) (f : Chunk → Chunk) : (m.modOpen f).removed = m.removed := rfl
@[simp] theorem Slot.modOpen_taken (m : Slot) (f : Chunk → Chunk) : (m.modOpen f).taken = m.taken := rfl
@[simp] theorem Slot.modOpen_pulled (m : Slot) (f : Chunk → Chunk) : (m.modOpen f).pulled = m.pulled := rfl
@[simp] theorem Slot.modOpen_chunks (m : Slot) (f : Chunk → Chunk) : (m.modOpen f).chunks = m.chunks.map (fun c => if c.closed then c else f c) := rfl
@[simp] theorem Slot.modOpen_chunkNo (m : Slot) (f : Chunk → Chunk) : (m.modOpen f).chunkNo = m.chunkNo := rfl
@[simp] theorem Slot.modOpen_streaks (m : Slot) (f : Chunk → Chunk) : (m.modOpen f).streaks = m.streaks := rfl
@[simp] theorem Slot.modOpen_serial (m : Slot) (f : Chunk → Chunk) : (m.modOpen f).serial = m.serial := rfl
@[simp] theorem Slot.modOpen_supBefore (m : Slot) (f : Chunk → Chunk) : (m.modOpen f).supBefore = m.supBefore := rfl
@[simp] theorem Slot.modOpen_trap (m : Slot) (f : Chunk → Chunk) : (m.modOpen f).trap = m.trap := rfl
@[simp] theorem Slot.modOpen_wait (m : Slot) (f : Chunk → Chunk) : (m.modOpen f).wait = m.wait := rfl
@[simp] theorem Slot.modOpen_resume (m : Slot) (f : Chunk → Chunk) : (m.modOpen f).resume = m.resume := rfl
@[simp] theorem Slot.modOpen_queued (m : Slot) (f : Chunk → Chunk) : (m.modOpen f).queued = m.queued := rfl
@[simp] theorem Slot.modOpen_sent (m : Slot) (f : Chunk → Chunk) : (m.modOpen f).sent = m.sent := rfl
@[simp] theorem Slot.modOpen_parity (m : Slot) (f : Chunk → Chunk) : (m.modOpen f).parity = m.parity := rfl
@[simp] theorem Slot.modOpen_checkOn (m : Slot) (f : Chunk → Chunk) : (m.modOpen f).checkOn = m.checkOn := rfl
@[simp] theorem Slot.modOpen_outl (m : Slot) (f : Chunk → Chunk) : (m.modOpen f).outl = m.outl := rfl
@[simp] theorem Slot.modOpen_scale (m : Slot) (f : Chunk → Chunk) : (m.modOpen f).scale = m.scale := rfl
@[simp] theorem Slot.modOpen_vsum (m : Slot) (f : Chunk → Chunk) : (m.modOpen f).vsum = m.vsum := rfl
@[simp] theorem Slot.modOpen_outstanding (m : Slot) (f : Chunk → Chunk) : (m.modOpen f).outstanding = m.outstanding := rfl
@[simp] theorem Slot.modOpen_unacquired (m : Slot) (f : Chunk → Chunk) : (m.modOpen f).unacquired = m.unacquired := rfl
@[simp] theorem Slot.modOpen_children (m : Slot) (f : Chunk → Chunk) : (m.modOpen f).children = m.children := rfl
@[simp] theorem Slot.modOpen_cover (m : Slot) (f : Chunk → Chunk) : (m.modOpen f).cover = m.cover := rfl
@[simp] theorem Slot.modOpen_released (m : Slot) (f : Chunk → Chunk) : (m.modOpen f).released = m.released := rfl
@[simp] theorem Slot.modOpen_seen (m : Slot) (f : Chunk → Chunk) : (m.modOpen f).seen = m.seen := rfl
@[simp] theorem Slot.modOpen_lvq (m : Slot) (f : Chunk → Chunk) : (m.modOpen f).lvq = m.lvq := rfl
@[simp] theorem Slot.modOpen_lvqNo (m : Slot) (f : Chunk → Chunk) : (m.modOpen f).lvqNo = m.lvqNo := rfl
@[simp] theorem Slot.modOpen_cmp (m : Slot) (f : Chunk → Chunk) : (m.modOpen f).cmp = m.cmp := rfl
@[simp] theorem Slot.modOpen_issued (m : Slot) (f : Chunk → Chunk) : (m.modOpen f).issued = m.issued := rfl
@[simp] theorem Slot.modOpen_plive (m : Slot) (f : Chunk → Chunk) : (m.modOpen f).plive = m.plive := rfl

end Sys2Proof.Machine
end

