-- ==== Sys2Proof/Laws/Tables.lean ====
section
/-!
SUPPORT. Tables: what a written table reads as, and that the last write of a key is the one that counts.
-/
namespace Sys2Proof.Machine

variable {α : Type}

@[simp] theorem tfind_tset_same (t : Tab α) (k : Nat) (v : α) : tfind (tset t k v) k = some v := by
  induction t with
  | nil => simp [tset, tfind]
  | cons e t ih =>
    obtain ⟨j, w⟩ := e
    unfold tset
    split
    · simp [tfind]
    · split
      · simp [tfind]
      · rename_i h; simp [tfind, h, ih]

theorem tfind_tset_other (t : Tab α) {k k' : Nat} (v : α) (h : k' ≠ k) : tfind (tset t k v) k' = tfind t k' := by
  induction t with
  | nil => simp [tset, tfind, h.symm]
  | cons e t ih =>
    obtain ⟨j, w⟩ := e
    unfold tset
    split
    · simp [tfind, h.symm]
    · split
      · rename_i hj; subst hj; simp [tfind, h.symm]
      · simp only [tfind, ih]

theorem tfind_tset (t : Tab α) (k k' : Nat) (v : α) :
    tfind (tset t k v) k' = if k = k' then some v else tfind t k' := by
  split
  · subst_vars; simp
  · rename_i h; exact tfind_tset_other t v (Ne.symm h)

@[simp] theorem tget_tset_same (t : Tab α) (d : α) (k : Nat) (v : α) : tget (tset t k v) d k = v := by
  simp [tget]

theorem tget_tset_other (t : Tab α) (d : α) {k k' : Nat} (v : α) (h : k' ≠ k) :
    tget (tset t k v) d k' = tget t d k' := by
  simp [tget, tfind_tset_other t v h]

@[simp] theorem tset_tset (t : Tab α) (k : Nat) (v w : α) : tset (tset t k v) k w = tset t k w := by
  induction t with
  | nil => simp [tset]
  | cons e t ih =>
    obtain ⟨j, x⟩ := e
    simp only [tset]
    split
    · simp [tset]
    · split
      · simp [tset]
      · rename_i h1 h2; simp [tset, h1, h2, ih]

end Sys2Proof.Machine
end

