-- ==== Sys2Proof/Laws/Slots.lean ====
section
/-!
SUPPORT. Cores, slots and registers: what a written slot reads as, that other slots stay, and that the last write of a
slot is the one that counts.
-/
namespace Sys2Proof.Machine

@[simp] theorem State.core_setCore (s : State) (c : Nat) (v : Core) : (s.setCore c v).core c = v := by
  simp [State.core]

theorem State.core_setCore_other (s : State) {c d : Nat} (v : Core) (h : d ≠ c) : (s.setCore c v).core d = s.core d := by
  simp [State.core, tget_tset_other _ _ _ h]

@[simp] theorem State.setCore_setCore (s : State) (c : Nat) (v w : Core) : (s.setCore c v).setCore c w = s.setCore c w := by
  simp [State.setCore]

@[simp] theorem Core.slot_setSlot (c : Core) {n : Nat} (v : Slot) (h : n < 8) : (c.setSlot n v).slot n = v := by
  simp [Core.slot, h]

theorem Core.slot_setSlot_other (c : Core) {n m : Nat} (v : Slot) (h : m ≠ n) : (c.setSlot n v).slot m = c.slot m := by
  simp [Core.slot, Ne.symm h]

@[simp] theorem Core.setSlot_setSlot (c : Core) (n : Nat) (v w : Slot) : (c.setSlot n v).setSlot n w = c.setSlot n w := by
  simp only [Core.setSlot, Core.mk.injEq, and_true, true_and]
  ext i hi
  simp only [Vector.getElem_setIfInBounds]
  split <;> rfl

@[simp] theorem State.slot_setSlot (s : State) {i : SlotId} (v : Slot) (h : i.slot < 8) : (s.setSlot i v).slot i = v := by
  simp [State.slot, State.setSlot, h]

theorem State.slot_setSlot_other (s : State) {i j : SlotId} (v : Slot) (h : j ≠ i) :
    (s.setSlot i v).slot j = s.slot j := by
  by_cases hc : j.core = i.core
  · have hs : j.slot ≠ i.slot := fun e => h (by cases i; cases j; simp_all)
    simp [State.slot, State.setSlot, hc, Core.slot_setSlot_other _ _ hs]
  · simp [State.slot, State.setSlot, State.core_setCore_other _ _ hc]

@[simp] theorem State.setSlot_setSlot (s : State) (i : SlotId) (v w : Slot) :
    (s.setSlot i v).setSlot i w = s.setSlot i w := by
  simp [State.setSlot]

@[simp] theorem State.setMe_eq (s : State) (v : Slot) : s.setMe v = s.setSlot s.cur v := rfl
@[simp] theorem State.modMe_eq (s : State) (f : Slot → Slot) : s.modMe f = s.setSlot s.cur (f s.me) := rfl
@[simp] theorem State.modSlot_eq (s : State) (i : SlotId) (f : Slot → Slot) : s.modSlot i f = s.setSlot i (f (s.slot i)) := rfl
@[simp] theorem State.modArch_eq (s : State) (f : Arch → Arch) :
    s.modArch f = s.setSlot s.cur { s.me with arch := f s.me.arch } := rfl

/-- The slot that an instruction acts on, after a write of it. -/
@[simp] theorem State.me_setSlot (s : State) (v : Slot) (h : s.cur.slot < 8) : (s.setSlot s.cur v).me = v :=
  State.slot_setSlot s v h

/-- R3: g[0] reads as 0 whatever has been written. -/
@[simp] theorem Arch.getG_zero (r : Arch) : r.getG 0 = 0 := rfl
@[simp] theorem Arch.setG_zero (r : Arch) (v : Word) : r.setG 0 v = r := rfl

theorem Arch.getG_setG (r : Arch) (a b : Reg) (v : Word) :
    (r.setG a v).getG b = if b = 0 then 0 else if a = b then v else r.getG b := by
  unfold Arch.getG Arch.setG
  by_cases hb : b = 0
  · rw [if_pos hb, if_pos hb]
  · rw [if_neg hb, if_neg hb, if_neg hb]
    by_cases hab : a = b
    · subst hab
      rw [if_neg hb, if_pos rfl]
      simp [reg32, Vector.get_eq_getElem]
    · have : a.toNat ≠ b.toNat := fun e => hab (BitVec.eq_of_toNat_eq e)
      rw [if_neg hab]
      split
      · rfl
      · simp [reg32, Vector.get_eq_getElem, this]

theorem Arch.getF_setF (r : Arch) (a b : Reg) (v : Single) :
    (r.setF a v).getF b = if a = b then v else r.getF b := by
  by_cases hab : a = b
  · subst hab; simp [Arch.getF, Arch.setF, reg32, Vector.get_eq_getElem]
  · have : a.toNat ≠ b.toNat := fun e => hab (BitVec.eq_of_toNat_eq e)
    simp [Arch.getF, Arch.setF, hab, reg32, Vector.get_eq_getElem, this]

/-- A write of a g register changes no other register of the slot. -/
theorem Arch.setG_rest (r : Arch) (a : Reg) (v : Word) : r.setG a v = { r with g := (r.setG a v).g } := by
  unfold Arch.setG; split <;> rfl

end Sys2Proof.Machine
end

