-- ==== Sys2Proof/Laws/Issue.lean ====
section
/-!
SUPPORT. What issuing an instruction does: the trap of a check, HAZARD, SOFT, or the instruction's own effect with the
slot past it; and what that leaves as it was.
-/
namespace Sys2Proof.Machine
open Sys2Proof.Claims

-- the checks

theorem Slot.hazard_eq_none {m : Slot} {codes : List Nat} (h : ∀ c ∈ codes, c ≠ 0 → c ∉ m.pendingCodes) :
    m.hazard codes = none := by
  simp only [Slot.hazard, List.find?_eq_none]
  intro c hc
  simp only [Bool.and_eq_true, bne_iff_ne, ne_eq, List.contains_iff_mem, not_and]
  exact h c hc

theorem Slot.soft_eq_none {m : Slot} {codes : List Nat} (h : ∀ c ∈ codes, c ≠ 0 → c ∉ m.parity) : m.soft codes = none := by
  simp only [Slot.soft, List.find?_eq_none]
  intro c hc
  simp only [Bool.and_eq_true, bne_iff_ne, ne_eq, List.contains_iff_mem, not_and]
  exact h c hc

/-- R139: a check of the words traps before anything else. -/
theorem issue_pre (s : State) (info : Info) (c : Cause) (v : Word) (body : State → Res) :
    issue s info (some (c, v)) body = .next (s.takeTrap s.cur c v s.pc) := rfl

/-- R105 rule 1: a pending register that the instruction reads or writes. -/
theorem issue_hazard (s : State) (info : Info) (body : State → Res) {code : Nat}
    (hc : if info.sync then s.me.chunks = [] else s.seriesWaits s.cur = false)
    (h : s.me.hazard (info.reads ++ info.writes) = some code) :
    issue s info none body = .next (s.takeTrap s.cur .hazard (w64 code) s.pc) := by
  cases hs : info.sync <;> simp_all [issue]

/-- What an instruction of its kind needs to issue: one of a chunk, or a synchronising one. -/
def Issues (s : State) (info : Info) : Prop :=
  Clear s info.reads info.writes ∧ if info.sync then s.me.chunks = [] else s.seriesWaits s.cur = false

/-- An instruction that nothing holds back comes to its own effect. -/
theorem issue_body (s : State) (info : Info) (body : State → Res) (h : Issues s info) :
    issue s info none body = .next (s.issueBody info body).1 := by
  obtain ⟨⟨-, hz, hp, ht⟩, hc⟩ := h
  have h1 := Slot.hazard_eq_none hz
  have h2 := Slot.soft_eq_none hp
  have h0 : (info.sync && !s.me.chunks.isEmpty) = false := by
    cases hs : info.sync <;> simp_all
  have h3 : (!info.sync && s.seriesWaits s.cur) = false := by
    cases hs : info.sync <;> simp_all
  unfold issue
  simp only [h0, h1, h2, h3]
  cases hm : s.me.task with
  | none => simp
  | some t => simp [ht t hm]

theorem issue_done (s : State) (info : Info) (body : State → Res) {s2 : State} (h : Issues s info)
    (hb : body (s.advance info) = .done s2) :
    issue s info none body = .next (s2.complete s.cur info) := by
  rw [issue_body s info body h]; simp [State.issueBody, hb]

theorem issue_acquired (s : State) (info : Info) (body : State → Res) {s2 : State} (h : Issues s info)
    (hb : body (s.advance info) = .acquired s2) :
    issue s info none body = .next (s2.complete s.cur { info with s := true }) := by
  rw [issue_body s info body h]; simp [State.issueBody, hb]

theorem issue_trap (s : State) (info : Info) (body : State → Res) {c : Cause} {v : Word}
    (h : Issues s info) (hb : body (s.advance info) = .trap c v) :
    issue s info none body = .next (s.takeTrap s.cur c v s.pc) := by
  rw [issue_body s info body h]; simp [State.issueBody, hb]

theorem issue_park (s : State) (info : Info) (body : State → Res) {w : Wait} {s2 : State}
    (h : Issues s info) (hb : body (s.advance info) = .park w s2) :
    issue s info none body = .next (s2.modSlot s.cur (fun m => m.parkAt s.pc w)) := by
  rw [issue_body s info body h]; simp [State.issueBody, hb]

-- what is left as it was

theorem slotFrame_refl (m : Slot) : SlotFrame m m := ⟨rfl, fun _ _ => rfl⟩

theorem slotFrame_trans {a b c : Slot} (h1 : SlotFrame a b) (h2 : SlotFrame b c) : SlotFrame a c := by
  refine ⟨?_, fun n hn => (h2.2 n hn).trans (h1.2 n hn)⟩
  have e1 := h1.1
  have e2 := h2.1
  rw [e2, e1]

theorem slotFrame_countIn (m : Slot) : SlotFrame m m.countIn := by
  unfold Slot.countIn; simp only; split <;> exact ⟨rfl, fun _ _ => rfl⟩

theorem slotFrame_count0 (m : Slot) (k : Nat) : SlotFrame m (m.count 0 k) :=
  ⟨rfl, fun n hn => by simp [Ne.symm hn]⟩

theorem slotFrame_afterIssue (m : Slot) (b : Bool) : SlotFrame m (m.afterIssue b) := by
  have h := slotFrame_count0 m 1
  unfold Slot.afterIssue
  simp only
  split
  · exact ⟨by rw [h.1], h.2⟩
  · split <;> exact ⟨by rw [h.1], h.2⟩

/-- Where a series of one-instruction chunks begins, only the count of its instructions and the streaks change. -/
theorem Slot.startSeries_eq (m : Slot) :
    m.startSeries = { m with serial := m.startSeries.serial, streaks := m.startSeries.streaks } := by
  unfold Slot.startSeries; simp only; split <;> rfl

/-- Opening a chunk changes the chunks, their numbers and the series. -/
theorem Slot.openChunk_eq (m : Slot) : m.openChunk = { m with
    chunks := m.openChunk.chunks, chunkNo := m.openChunk.chunkNo, serial := m.openChunk.serial
    streaks := m.openChunk.streaks } := by
  unfold Slot.openChunk
  split
  · rfl
  · simp only
    rw [Slot.startSeries_eq]

theorem slotFrame_openChunk (m : Slot) : SlotFrame m m.openChunk := by
  rw [Slot.openChunk_eq]; exact ⟨rfl, fun _ _ => rfl⟩

@[simp] theorem Slot.openChunk_arch (m : Slot) : m.openChunk.arch = m.arch := by rw [Slot.openChunk_eq]
@[simp] theorem Slot.openChunk_returns (m : Slot) : m.openChunk.returns = m.returns := by rw [Slot.openChunk_eq]
@[simp] theorem Slot.openChunk_status (m : Slot) : m.openChunk.status = m.status := by rw [Slot.openChunk_eq]
@[simp] theorem Slot.countIn_arch (m : Slot) : m.countIn.arch = m.arch := by
  unfold Slot.countIn; simp only; split <;> rfl
@[simp] theorem Slot.countIn_returns (m : Slot) : m.countIn.returns = m.returns := by
  unfold Slot.countIn; simp only; split <;> rfl
@[simp] theorem Slot.countIn_status (m : Slot) : m.countIn.status = m.status := by
  unfold Slot.countIn; simp only; split <;> rfl
@[simp] theorem Slot.afterIssue_arch (m : Slot) (b : Bool) : (m.afterIssue b).arch = m.arch := by
  unfold Slot.afterIssue; simp only; split
  · rfl
  · split <;> rfl
@[simp] theorem Slot.afterIssue_returns (m : Slot) (b : Bool) : (m.afterIssue b).returns = m.returns := by
  unfold Slot.afterIssue; simp only; split
  · rfl
  · split <;> rfl

/-- The slot past an instruction's words. -/
def Slot.past (m : Slot) (info : Info) : Slot :=
  let m := if info.sync then m else m.openChunk
  { m with arch := { m.arch with pc := m.arch.pc + w64 (2 * info.len) } }

/-- The slot once its instruction has completed. -/
def Slot.finish (m : Slot) (info : Info) : Slot :=
  ({ (if info.sync then m else m.countIn) with issued := m.issued + 1 } : Slot).afterIssue info.s

theorem State.advance_eq (s : State) (info : Info) : s.advance info = s.setSlot s.cur (s.me.past info) := rfl

theorem slotFrame_past (m : Slot) (info : Info) : SlotFrame m (m.past info) := by
  have h : SlotFrame m (if info.sync then m else m.openChunk) := by
    split
    · exact slotFrame_refl m
    · exact slotFrame_openChunk m
  exact slotFrame_trans h ⟨rfl, fun _ _ => rfl⟩

theorem slotFrame_finish (m : Slot) (info : Info) : SlotFrame m (m.finish info) := by
  have h : SlotFrame m (if info.sync then m else m.countIn) := by
    split
    · exact slotFrame_refl m
    · exact slotFrame_countIn m
  exact slotFrame_trans (slotFrame_trans h ⟨rfl, fun _ _ => rfl⟩) (slotFrame_afterIssue _ _)

@[simp] theorem Slot.past_arch (m : Slot) (info : Info) :
    (m.past info).arch = { m.arch with pc := m.arch.pc + w64 (2 * info.len) } := by
  unfold Slot.past; simp only; split <;> simp
@[simp] theorem Slot.past_returns (m : Slot) (info : Info) : (m.past info).returns = m.returns := by
  unfold Slot.past; simp only; split <;> simp
@[simp] theorem Slot.past_status (m : Slot) (info : Info) : (m.past info).status = m.status := by
  unfold Slot.past; simp only; split <;> simp
@[simp] theorem Slot.finish_arch (m : Slot) (info : Info) : (m.finish info).arch = m.arch := by
  unfold Slot.finish; simp only [Slot.afterIssue_arch]; split <;> simp
@[simp] theorem Slot.finish_returns (m : Slot) (info : Info) : (m.finish info).returns = m.returns := by
  unfold Slot.finish; simp only [Slot.afterIssue_returns]; split <;> simp

theorem Slot.finish_status (m : Slot) (info : Info) (h : m.status = .ready ∨ m.status = .parked) :
    (m.finish info).status = if info.s && (m.finish info).anyPending then .parked else .ready := by
  have ha : (m.finish info).anyPending = m.anyPending := by simp [Slot.anyPending]
  rw [ha]
  have hs : ∀ x : Slot, x.status = m.status → x.returns = m.returns →
      (x.afterIssue info.s).status = if info.s && m.anyPending then .parked else .ready := by
    intro x hx hr
    unfold Slot.afterIssue Slot.anyPending
    simp only [Slot.count_returns, hr, Slot.count_status, hx]
    generalize m.returns.any (fun r => !r.silent) = p
    rcases h with h | h <;> cases info.s <;> cases p <;> simp [h]
  apply hs
  · simp only; split <;> simp
  · simp only; split <;> simp

theorem State.byte_setSlot (s : State) (i : SlotId) (v : Slot) (k : Nat) : (s.setSlot i v).byte k = s.byte k := rfl

/-- An instruction whose effect is a change `m2` of its own slot completes in the sense of the statements. -/
theorem issue_completes (s : State) (info : Info) (body : State → Res) (m2 : Slot) (new : List Ret)
    (h : Issues s info) (hb : body (s.setSlot s.cur (s.me.past info)) = .done (s.setSlot s.cur m2))
    (hf : SlotFrame (s.me.past info) m2)
    (hr : m2.returns = s.me.returns ++ new) (hs : m2.status = s.me.status) :
    ∃ t, issue s info none body = .next t ∧ Completed s t info.s m2.arch new := by
  refine ⟨_, issue_done s info body h hb, ?_⟩
  have e : State.complete (s.setSlot s.cur m2) s.cur info = s.setSlot s.cur (m2.finish info) := by
    simp [State.complete, Slot.finish, h.1.1]
  rw [e]
  have hme : (s.setSlot s.cur (m2.finish info)).me = m2.finish info := State.me_setSlot s _ h.1.1
  refine ⟨?_, ?_, ?_, ?_, ?_, fun k => rfl⟩
  · rw [hme]; rfl
  · rw [hme]; exact slotFrame_trans (slotFrame_trans (slotFrame_past _ _) hf) (slotFrame_finish _ _)
  · rw [hme]; intro hm; exact Slot.finish_status m2 info (by rw [hs]; exact hm)
  · rw [hme]; simp
  · rw [hme]; simp [hr]

end Sys2Proof.Machine
end

