-- ==== Sys2Proof/Laws/Memory.lean ====
section
/-!
SUPPORT. Memory: a written byte reads as written, every other byte as before, and every operation keeps the canonical
form.
-/
namespace Sys2Proof.Machine

/-- The keys of a canonical memory lie at or above the first, and the rest is canonical. -/
theorem memWf_cons {a : Nat} {v : Byte} {t : Memory} (h : memWf ((a, v) :: t) = true) :
    v ≠ unwritten ∧ memWf t = true ∧ ∀ e ∈ t, a < e.1 := by
  induction t generalizing a v with
  | nil => simp_all [memWf]
  | cons e t ih =>
    obtain ⟨b, w⟩ := e
    simp only [memWf, Bool.and_eq_true, decide_eq_true_eq, bne_iff_ne] at h
    refine ⟨h.1.2, h.2, ?_⟩
    intro e he
    rcases List.mem_cons.mp he with rfl | he
    · exact h.1.1
    · exact Nat.lt_trans h.1.1 ((ih h.2).2.2 e he)

theorem memWf_of {a : Nat} {v : Byte} {t : Memory} (hv : v ≠ unwritten) (ht : memWf t = true) (ha : ∀ e ∈ t, a < e.1) :
    memWf ((a, v) :: t) = true := by
  cases t with
  | nil => simpa [memWf] using hv
  | cons e t =>
    obtain ⟨b, w⟩ := e
    have := ha (b, w) (by simp)
    simp_all [memWf]

/-- A key below every listed one reads as a byte that nothing has written. -/
theorem memGet_below {m : Memory} {a : Nat} (h : ∀ e ∈ m, a < e.1) : memGet m a = unwritten := by
  cases m with
  | nil => rfl
  | cons e t => obtain ⟨b, w⟩ := e; simp [memGet, show a < b from h (b, w) (by simp)]

theorem mem_memSet {m : Memory} {a : Nat} {v : Byte} {e : Host.Cell} (h : e ∈ memSet m a v) : e.1 = a ∨ e ∈ m := by
  induction m with
  | nil => simp only [memSet] at h; split at h <;> simp_all
  | cons c t ih =>
    obtain ⟨b, w⟩ := c
    simp only [memSet] at h
    split at h
    · split at h
      · exact .inr h
      · rcases List.mem_cons.mp h with rfl | h
        · exact .inl rfl
        · exact .inr h
    · split at h
      · split at h
        · exact .inr (List.mem_cons_of_mem _ h)
        · rcases List.mem_cons.mp h with rfl | h
          · exact .inl rfl
          · exact .inr (List.mem_cons_of_mem _ h)
      · rcases List.mem_cons.mp h with rfl | h
        · exact .inr (by simp)
        · rcases ih h with h | h
          · exact .inl h
          · exact .inr (List.mem_cons_of_mem _ h)

/-- A written byte keeps the canonical form. -/
theorem memSet_wf {m : Memory} (h : memWf m = true) (a : Nat) (v : Byte) : memWf (memSet m a v) = true := by
  induction m with
  | nil => simp only [memSet]; split <;> simp_all [memWf]
  | cons e t ih =>
    obtain ⟨b, w⟩ := e
    obtain ⟨hw, ht, hb⟩ := memWf_cons h
    simp only [memSet]
    split
    · rename_i hab
      split
      · exact h
      · rename_i hv
        refine memWf_of hv h (fun e he => ?_)
        rcases List.mem_cons.mp he with rfl | he
        · exact hab
        · exact Nat.lt_trans hab (hb e he)
    · split
      · subst_vars
        split
        · exact ht
        · rename_i hv; exact memWf_of hv ht hb
      · rename_i h1 h2
        refine memWf_of hw (ih ht) (fun e he => ?_)
        rcases mem_memSet he with h | he
        · omega
        · exact hb e he

/-- A canonical memory after a write: the written byte, and every other as before. -/
theorem memGet_memSet {m : Memory} (h : memWf m = true) (a b : Nat) (v : Byte) :
    memGet (memSet m a v) b = if a = b then v else memGet m b := by
  induction m with
  | nil =>
    by_cases hv : v = unwritten
    · simp [memSet, memGet, hv]
    · by_cases hab : a = b
      · subst hab; simp [memSet, memGet, hv]
      · simp only [memSet, hv, if_false, memGet, hab]
        split <;> simp [Ne.symm hab]
  | cons e t ih =>
    obtain ⟨c, w⟩ := e
    obtain ⟨hw, ht, hc⟩ := memWf_cons h
    simp only [memSet]
    split
    · rename_i hac
      by_cases hv : v = unwritten
      · simp only [hv, if_true]
        by_cases hab : a = b
        · subst hab; simp [memGet, hac]
        · simp [hab]
      · simp only [hv, if_false]
        by_cases hab : a = b
        · subst hab; simp [memGet]
        · simp only [hab, if_false]
          rw [memGet]
          split
          · have : b < c := by omega
            simp [memGet, this]
          · simp [Ne.symm hab]
    · split
      · rename_i hac
        subst hac
        have hlow : b < a → memGet t b = unwritten := fun hlt => memGet_below (fun e he => Nat.lt_trans hlt (hc e he))
        by_cases hab : a = b
        · subst hab
          by_cases hv : v = unwritten
          · simp [hv, memGet_below hc]
          · simp [hv, memGet]
        · by_cases hv : v = unwritten
          · rw [if_pos hv, if_neg hab]
            simp only [memGet, Ne.symm hab, if_false]
            split
            · rename_i hlt; exact hlow hlt
            · rfl
          · simp [hv, hab, memGet, Ne.symm hab]
      · rename_i h1 h2
        simp only [memGet]
        split
        · have : a ≠ b := by omega
          simp [this]
        · split
          · have : a ≠ b := by omega
            simp [this]
          · exact ih ht

/-- Several bytes written keep the canonical form. -/
theorem memSetAll_wf {m : Memory} (h : memWf m = true) (cells : List (Nat × Byte)) : memWf (memSetAll m cells) = true := by
  induction cells generalizing m with
  | nil => exact h
  | cons c cs ih => exact ih (memSet_wf h c.1 c.2)

/-- A part of a canonical memory is canonical. -/
theorem memWf_filter {m : Memory} (h : memWf m = true) (p : Host.Cell → Bool) : memWf (m.filter p) = true := by
  induction m with
  | nil => rfl
  | cons e t ih =>
    obtain ⟨b, w⟩ := e
    obtain ⟨hw, ht, hb⟩ := memWf_cons h
    rw [List.filter_cons]
    split
    · exact memWf_of hw (ih ht) (fun e he => hb e (List.mem_of_mem_filter he))
    · exact ih ht

/-- Several runs of bytes written keep the canonical form. -/
theorem memWf_foldl_cells {α : Type} {m : Memory} (h : memWf m = true) (ws : List α) (f : α → List (Nat × Byte)) :
    memWf (ws.foldl (fun m w => memSetAll m (f w)) m) = true := by
  induction ws generalizing m with
  | nil => exact h
  | cons w ws ih => exact ih (memSetAll_wf h (f w))

/-- Granted commits written at their homes keep the canonical form. -/
theorem State.landWrites_wf {s : State} (h : memWf s.mem = true) (n : Nat) : memWf (s.landWrites n).mem = true :=
  memWf_foldl_cells h _ _

theorem State.drainLines_wf {s : State} (h : memWf s.mem = true) (lines : List Nat) :
    memWf (s.drainLines lines).mem = true := State.landWrites_wf h _

theorem State.rawWrite_wf {s : State} (h : memWf s.mem = true) (cells : List (Nat × Byte)) :
    memWf (s.rawWrite cells).mem = true := memSetAll_wf (State.drainLines_wf h _) cells

@[simp] theorem State.setFull_mem (s : State) (g : Nat) (b : Bool) : (s.setFull g b).mem = s.mem := rfl
@[simp] theorem State.fillGranules_mem (s : State) (cells : List (Nat × Byte)) : (s.fillGranules cells).mem = s.mem := rfl
@[simp] theorem State.emptyRange_mem (s : State) (k n : Nat) : (s.emptyRange k n).mem = s.mem := rfl

end Sys2Proof.Machine
end

