-- ==== Sys2Proof/Tests/Slice0.lean ====
section
/-!
SUPPORT. Small tests: ill-formed terms that WellFormed refuses, words written out from the spec's encoding tables, single
steps with results from the spec's rules, and states that meet the hypotheses of the statements.
-/
namespace Sys2Proof.Tests
open Sys2Proof.Machine Sys2Proof.Claims

set_option Elab.async false

-- WellFormed: a term that passes, and one that each check refuses

theorem test_wf_accepts : (Instr.add ⟨false, false⟩ 5 6 (.imm [100]) false).wf = true
    ∧ (Instr.ldi false 5 ⟨[1, 2, 3, 4], 0⟩).wf = true ∧ (Instr.fma false 1 2 3 true true 3).wf = true := by decide
theorem test_wf_carried : (Instr.add ⟨false, false⟩ 5 6 (.imm [1]) true).wf = false
    ∧ (Instr.fadd ⟨false, false⟩ 1 2 3 false 0).wf = false ∧ (Instr.lrw ⟨false, false⟩ 5 6 1).wf = false := by decide
theorem test_wf_src : (Instr.sub ⟨false, false⟩ 5 6 (.reg 7) false).wf = false
    ∧ (Instr.sub ⟨false, false⟩ 5 6 (.imm []) false).wf = false := by decide
theorem test_wf_fits : (Instr.ldi false 5 ⟨[1, 2, 3, 4, 5], 0⟩).wf = false
    ∧ (Instr.add ⟨false, true⟩ 5 6 (.imm [1, 2, 3, 4]) false).wf = false
    ∧ (Instr.fldi false 3 ⟨[1, 2, 3, 4], 0⟩).wf = false
    ∧ (Instr.asel ⟨false, true⟩ 5 0 ⟨[1, 2, 3], 0⟩).wf = false := by decide
theorem test_wf_pair : (Instr.mmI8P ⟨false, true⟩ 2 3 31 4 none).wf = false
    ∧ (Instr.mmI8P ⟨false, true⟩ 2 3 30 4 none).wf = true := by decide
theorem test_wf_planes : (Instr.mmI4P ⟨false, true⟩ 2 3 6 1 none).wf = false
    ∧ (Instr.mmBFB ⟨false, true⟩ 2 3 6 2 none).wf = false := by decide
theorem test_wf_values : (Instr.mov ⟨false, true⟩ 5 6 0 true).wf = false ∧ (Instr.set ⟨false, true⟩ 5 6 (.reg 7) 6).wf = false
    ∧ (Instr.bfx ⟨false, true⟩ 5 6 (.reg 7) true true).wf = false ∧ (Instr.cnt ⟨false, true⟩ 5 6 3 false).wf = false
    ∧ (Instr.st ⟨false, true⟩ 5 6 true false 0 false []).wf = false ∧ (Instr.fence ⟨false, true⟩ 7 0).wf = false
    ∧ (Instr.fence ⟨false, true⟩ 1 3).wf = false := by decide
theorem test_wf_values_fp : (Instr.fmov ⟨false, true⟩ 1 2 3).wf = false ∧ (Instr.fcmp ⟨false, true⟩ 1 2 3 5).wf = false
    ∧ (Instr.fcvt ⟨false, true⟩ 1 2 10 0).wf = false ∧ (Instr.fsgn ⟨false, true⟩ 1 2 3 3 false).wf = false
    ∧ (Instr.msetx ⟨false, true⟩ 5 true).wf = false ∧ (Instr.amo ⟨false, true⟩ 5 6 7 9).wf = false
    ∧ (Instr.famo ⟨false, true⟩ 1 6 3 3).wf = false ∧ (Instr.symg ⟨false, true⟩ 5 6 7 3).wf = false
    ∧ (Instr.asel ⟨false, true⟩ 5 3 ⟨[], 0⟩).wf = false := by decide
theorem test_wf_events : (Instr.sfuTake 4096).wf = false ∧ (Instr.trapEntry ⟨0, 8⟩).wf = false
    ∧ (Instr.revokeArrive ⟨⟨0, 0, 16⟩, ⟨0, 0⟩⟩).wf = false ∧ (Instr.tail 16 0 0).wf = false ∧ (Instr.tail 0 64 0).wf = false
    ∧ (Instr.laneFailure 128).wf = false ∧ (Instr.uncorrectableDieFault 4).wf = false ∧ (Instr.floodEnd 16).wf = false
    ∧ (Instr.ackTimer 256 0).wf = false ∧ (Instr.powerCapSet 1210).wf = false ∧ (Instr.frequencyStep [520] 3).wf = false
    ∧ (Instr.queueConfigure 0 0 0 3).wf = false ∧ (Instr.mapEntryWrite 0 0 64 0).wf = false
    ∧ (Instr.hostMemAccess true 60 [0, 0, 0, 0, 0]).wf = false ∧ (Instr.bridgeLaneFailure 0 5).wf = false := by decide

-- words of the spec's tables and of its worked encodings (spec/15_encoding.md to spec/22_isa_page6_system.md)

theorem test_words_page0 : decode [0x7C64, 0x08A6] = .ok (.add ⟨false, false⟩ 5 6 (.imm [100]) false)
    ∧ decode [0x7E91, 0x1868] = .ok (.div ⟨false, true⟩ 3 8 (.reg 9) true false)
    ∧ decode [0x1422] = .ok (.mulh ⟨false, false⟩ 1 2 (.reg 0) false)
    ∧ decode [0x7C1F, 0x44A8] = .ok (.ldi false 5 ⟨[31], 8⟩)
    ∧ decode [0x7DF6, 0x5894] = .ok (.bz ⟨false, false⟩ 4 0 ⟨[502], 20⟩)
    ∧ decode [0x7C01, 0x5C28] = .ok (.jal false 1 ⟨[1], 8⟩) ∧ decode [0x6001] = .ok (.jr false 0 1)
    ∧ decode [0x7405] = .ok (.fence ⟨false, false⟩ 5 0) := by decide
theorem test_words_control : decode [0x7800] = .ok (.nop false) ∧ decode [0x7801] = .ok (.tend false)
    ∧ decode [0x7802] = .ok (.chunk false) ∧ decode [0x7803] = .ok (.brk false) ∧ decode [0xF800] = .ok (.nop true) := by decide
theorem test_words_page1 : decode [0xFC01, 0x7E30, 0x0822] = .ok (.fadd ⟨false, true⟩ 1 2 3 false 0)
    ∧ decode [0xFC01, 0x7E61, 0x1885] = .ok (.fdiv ⟨false, true⟩ 4 5 6 1)
    ∧ decode [0xFC01, 0x1CE8] = .ok (.fsqrt ⟨false, false⟩ 7 8 0)
    ∧ decode [0xFC01, 0x7E40, 0x2C49] = .ok (.fcvt ⟨false, true⟩ 2 9 4 0)
    ∧ decode [0xFC01, 0x7E30, 0x1422] = .ok (.fma false 1 2 3 false false 0)
    ∧ decode [0xFC01, 0x4C7F] = .ok (.fldi false 3 ⟨[], 31⟩)
    ∧ decode [0xFC01, 0xD044] = .ok (.fld ⟨true, false⟩ 2 4 false false false false []) := by decide
theorem test_words_page2 : decode [0xFC02, 0x0485] = .ok (.vadd false 4 5) ∧ decode [0xFC02, 0x2080] = .ok (.vcvt false 4 0)
    ∧ decode [0xFC02, 0xCCC0] = .ok (.vfence true 6) := by decide
theorem test_words_page3 : decode [0xFC03, 0x7E04, 0x8443] = .ok (.mmI8P ⟨true, true⟩ 2 3 0 4 none)
    ∧ decode [0xFC03, 0x7E64, 0x7C01, 0x0443] = .ok (.mmI8P ⟨false, true⟩ 2 3 6 4 (some 1))
    ∧ decode [0xFC03, 0x1C00] = .ok (.mzero false) ∧ decode [0xFC03, 0x2025] = .ok (.mskip false 1 5)
    ∧ decode [0xFC03, 0x7E03, 0x3085] = .ok (.mrel ⟨false, true⟩ 4 5 true true)
    ∧ decode [0xFC03, 0xB400] = .ok (.mwait true) := by decide
theorem test_words_page4 : decode [0xFC04, 0x0465] = .ok (.qbind false 3 5)
    ∧ decode [0xFC04, 0x7C04, 0x0CC2] = .ok (.qgrant ⟨false, false⟩ 6 2 (.imm [4]))
    ∧ decode [0xFC04, 0x7E01, 0x1D2A] = .ok (.inb ⟨false, true⟩ 9 10 true false)
    ∧ decode [0xFC04, 0x7E70, 0x2CA6] = .ok (.recast false 5 6 7)
    ∧ decode [0xFC04, 0x7E70, 0x38A6] = .ok (.dgx false 5 6 7) := by decide
theorem test_words_page5 : decode [0xFC05, 0x7E01, 0x04A6] = .ok (.lrw ⟨false, true⟩ 5 6 1)
    ∧ decode [0xFC05, 0x7E71, 0x10A6] = .ok (.amo ⟨false, true⟩ 5 6 7 1)
    ∧ decode [0xFC05, 0x7E31, 0x1846] = .ok (.famo ⟨false, true⟩ 2 6 3 1)
    ∧ decode [0xFC05, 0x7E71, 0x30A6] = .ok (.symg ⟨false, true⟩ 5 6 7 1)
    ∧ decode [0xFC05, 0x50A6] = .ok (.capq false 5 6) := by decide
theorem test_words_page6 : decode [0xFC06, 0x7E70, 0x04A6] = .ok (.fork ⟨false, true⟩ 5 6 7)
    ∧ decode [0xFC06, 0x0CA6] = .ok (.launch false 5 6) ∧ decode [0xFC06, 0x10A4] = .ok (.idr false 5 4)
    ∧ decode [0xFC06, 0x1402] = .ok (.plive false ⟨[], 2⟩) ∧ decode [0xFC06, 0x1805] = .ok (.trap false ⟨[], 5⟩)
    ∧ decode [0xFC06, 0x1C00] = .ok (.xret false)
    ∧ decode [0xFC06, 0x7E01, 0x20A3] = .ok (.asel ⟨false, true⟩ 5 1 ⟨[], 3⟩)
    ∧ decode [0xFC06, 0x7E91, 0x249A] = .ok (.abr ⟨false, true⟩ 4 9 true ⟨[], 26⟩)
    ∧ decode [0xFC06, 0x7E01, 0x30A1] = .ok (.cntr ⟨false, true⟩ 5 1 true)
    ∧ decode [0xFC06, 0x7E70, 0x34A6] = .ok (.tctl ⟨false, true⟩ 5 6 7)
    ∧ decode [0xFC06, 0x7E01, 0x38A0] = .ok (.finj ⟨false, true⟩ 5 true) := by decide
/-- R250, R251: the illegal chains of spec/15_encoding.md. -/
theorem test_illegal_chains : decode [0xFC03, 0x7E12, 0x1C00] = .error .rgxUse ∧ decode [0x7E12, 0xFC03, 0x0485] = .error .prefixOrder
    ∧ decode [0xFC01, 0x7C05, 0x7E00, 0x0822] = .error .prefixOrder
    ∧ decode [0xFC02, 0x7C01, 0x7C02, 0x7C03, 0x7C04, 0x0485] = .error .fifthPrefix
    ∧ decode [0xFC00, 0x0485] = .error .prefixOrder ∧ decode [0xFC07, 0x0485] = .error .prefixOrder
    ∧ decode [0xFE00, 0x0485] = .error .prefixKind ∧ decode [0xFC03, 0x3800] = .error .major
    ∧ decode [0xFC01] = .error .truncated := by decide
/-- notes/assumptions/8.md: a row of the opcode table with its two halves. -/
theorem test_table_words : decodeTableWord 16 0x7801 = some (.tend false)
    ∧ decodeTableWord 32 0xFC020485 = some (.vadd false 4 5) := by decide
/-- R7: an instruction that the encoder writes is decoded to itself, with a suffix behind it. -/
theorem test_round_trip : let i := Instr.ld ⟨true, true⟩ 5 6 true true 2 true true [3]
    i.wf = true ∧ decode (encode i ++ [0x7801]) = .ok i := by decide

-- a small state: context 0 runs on core 0, whose BM page 0 is mapped; slot 0 owns a task of launch 0

/-- n bytes of a list from an offset replaced by a number, low byte first. -/
def put (bs : List Byte) (off n v : Nat) : List Byte := bs.take off ++ toBytes v n ++ bs.drop (off + n)
/-- Several fields, each an offset, a size and a value. -/
def puts (bs : List Byte) (fs : List (Nat × Nat × Nat)) : List Byte := fs.foldl (fun b f => put b f.1 f.2.1 f.2.2) bs
def zeros (n : Nat) : List Byte := List.replicate n 0

/-- R81: one dimension of 2 tiles, two levels, KCB at BM 0x1000, completion word at BM 0x3000, supervisor entry 0x40. -/
def rec0 : List Byte := puts (zeros 256)
  [(8, 8, 0x1000), (0x10, 4, 2), (0x20, 4, 1), (0x34, 4, 1), (0x3C, 4, 1), (0x70, 8, 0x40), (0x78, 8, 0x3000),
   (0x8C, 1, 1), (0x8D, 1, 2)]
/-- R83: a KCB of version 1. -/
def kcb0 : List Byte := puts (zeros 64) [(0x0C, 1, 1), (0x0D, 1, 1)]
def bm (off : Nat) : Nat := pa spBM 0 off
def lm (off : Nat) : Nat := pa spLM 0 off
/-- Global addresses of core 0 (R162). -/
def gaBM (off : Nat) : Word := w64 off
def gaLM (off : Nat) : Word := w64 (2 ^ 41 + off)
def gaSY (v : Nat) : Word := w64 (5 * 2 ^ 41 + 16 * v)

def launch0 : Launch :=
  { order := 0, record := rec0, kcb := kcb0, roles := [], level := 0, weight := 16, number := 0, host := none, origin := none
    remoteFrom := none, first := 0, count := 2, dealt := [], live := [], exited := [], tends := [], killed := []
    sups := [(0, ⟨none, false, false⟩)], targets := [], partialEnd := false, flooded := false, reported := []
    exiting := [], acks := [], covers := [], gens := [], former := [], more := [], partOver := false }
def task0 : Task := { probeTask with maxfork := 1, nlvl := 2 }
def slot0 : Slot := { Slot.reset with status := .ready, task := some task0 }
def core0 : Core := { Core.reset.setSlot 0 slot0 with pageMap := [(0, 0x84000000)], cyc := 8 }
def ctx0 : Ctx :=
  { Ctx.reset with started := true, win := [(0, 0x0101)], cte := [(0, 0x8000)], hostLimit := 2 ^ 20, launches := [(0, launch0)] }
def base : State := { State.reset with cores := [(0, core0)], ctxs := [(0, ctx0)], now := 1000 }

def chunk1 : Chunk := ⟨0, Arch.start, 1, 16, [], [], [], [], [], false, false, false, []⟩
/-- The state with a register of slot 0 set, with slot 0, core 0, context 0 or die 0 changed. -/
def g (s : State) (n : Reg) (v : Word) : State := s.modMe (fun m => { m with arch := m.arch.setG n v })
def slot (s : State) (f : Slot → Slot) : State := s.modMe f
def arch (s : State) (f : Arch → Arch) : State := s.modMe (fun m => { m with arch := f m.arch })
def core (s : State) (f : Core → Core) : State := s.modCore 0 f
def ctx (s : State) (f : Ctx → Ctx) : State := s.modCtx 0 f
def die (s : State) (f : Die → Die) : State := s.modDie 0 f
/-- A context that shows nothing of the random key (R78). -/
def H : Hdr := ⟨false, true⟩

/-- A slot of the eight with nothing on its way, no bad parity and no redundant partner, whose turn it is if it re-runs a
chunk, may issue an instruction of a chunk. -/
def calm (s : State) : Bool :=
  decide (s.cur.slot < 8) && s.me.returns.isEmpty && s.me.parity.isEmpty && s.me.task.all (fun t => t.n != 2)
    && !s.seriesWaits s.cur
/-- With no chunk left it may issue anything. -/
def quiet (s : State) : Bool := calm s && s.me.chunks.isEmpty
theorem may {s : State} (h : calm s = true) (r w : List Nat) : MayIssue s r w := by
  simp only [calm, Bool.and_eq_true, decide_eq_true_eq, List.isEmpty_iff, Bool.not_eq_true'] at h
  obtain ⟨⟨⟨⟨h1, h2⟩, h3⟩, h4⟩, h5⟩ := h
  refine ⟨⟨h1, ?_, ?_, ?_⟩, h5⟩
  · intro c _ _; simp [Slot.pendingCodes, h2]
  · intro c _ _; simp [h3]
  · intro t ht; rw [ht] at h4; simpa using h4
theorem alone {s : State} (h : quiet s = true) (r w : List Nat) : MayIssueAlone s r w := by
  simp only [quiet, Bool.and_eq_true, List.isEmpty_iff] at h
  exact ⟨(may h.1 r w).1, h.2⟩
/-- Such a slot traps at once. -/
def quietTrap (s : State) (i : SlotId) : Bool :=
  decide (i.slot < 8) && (s.partner i).isNone && (s.slot i).returns.isEmpty && (s.slot i).chunks.isEmpty
theorem atOnce {s : State} {i : SlotId} (h : quietTrap s i = true) : TrapsAtOnce s i := by
  simp only [quietTrap, Bool.and_eq_true, decide_eq_true_eq, List.isEmpty_iff, Option.isNone_iff_eq_none] at h
  obtain ⟨⟨⟨h1, h2⟩, h3⟩, h4⟩ := h
  exact ⟨h1, h2, by simp [h3], by simp [h4]⟩

theorem test_base_quiet : quiet base = true ∧ quietTrap base ⟨0, 0⟩ = true := by decide +kernel

-- states that meet the hypotheses of the statements, clause by clause

theorem witness_IntegerResultsWritten : (intResult base (.add H 5 0 (.reg 0) true)).isSome ∧ MayIssue base [codeG 0, codeG 0] [codeG 5]
    ∧ (intResult base (.mov H 0 31 0 false)).isSome ∧ MayIssue base [codeG 31] [codeG 0] :=
  ⟨rfl, may (by decide +kernel) _ _, rfl, may (by decide +kernel) _ _⟩
theorem witness_DivisionReturns : MayIssue base (codeG 3 :: Src.codes (.imm [1])) [codeG 31] := may (by decide +kernel) _ _
theorem witness_BranchesGoWhereR273Says : MayIssue base [] [] ∧ MayIssue base [codeG 4] [] ∧ MayIssue base [] [codeG 1]
    ∧ MayIssue base [codeG 1] [codeG 1] ∧ ((4 : Reg) ≠ 0 ∧ MayIssue base [codeG 4] [codeG 4]) :=
  ⟨may (by decide +kernel) _ _, may (by decide +kernel) _ _, may (by decide +kernel) _ _, may (by decide +kernel) _ _,
    by decide, may (by decide +kernel) _ _⟩
theorem witness_FloatResultsWritten : (floatResult base (.fma false 1 2 3 true false 3)).isSome
    ∧ MayIssue base [codeF 1, codeF 2, codeF 3] [codeF 1] := ⟨rfl, may (by decide +kernel) _ _⟩
theorem witness_RoundToNearestIsNearest : (valueOf 24 0x3F800000).isSome ∧ (valueOf 24 0x7F7FFFFF).isSome
    ∧ (valueOf 24 (fAdd 24 0 0x3F800000 0x3F800000).1).isSome := ⟨rfl, rfl, rfl⟩
theorem witness_SfuRequestsQueued : (sfuForm (.fdiv H 4 5 6 1)).isSome ∧ MayIssue base [codeF 5, codeF 6] [codeF 4]
    ∧ base.myCore.sfuQ.length < 16
    ∧ (let s := core base (fun c => { c with sfuQ := List.replicate 16 ⟨1, 0, 0, 0, 0, 0, none, 0, false⟩ })
      MayIssue s [codeF 5, codeF 6] [codeF 4] ∧ 16 ≤ s.myCore.sfuQ.length) :=
  ⟨rfl, may (by decide +kernel) _ _, by decide +kernel, may (by decide +kernel) _ _, by decide +kernel⟩
theorem witness_PlainLoadsReturn :
    (let s := g base 4 (gaLM 0xFFF8);
      (loadShape (.ld H 5 4 false false 0 false false [])).isSome ∧ MayIssue s [codeG 4] [codeG 5]
        ∧ s.scalarEa (s.g 4) 0 8 false false false = .ok (.here (lm 0xFFF8), (gaLM 0xFFF8).toNat))
    ∧ (let s := g base 4 (w64 (7 * 2 ^ 41));
      MayIssue s [codeG 4] [codeG 5] ∧ s.scalarEa (s.g 4) 0 8 false false false = .ok (.cf 0 0, 7 * 2 ^ 41))
    ∧ (let s := g base 4 (gaLM 0xFFF9);
      MayIssue s [codeG 4] [codeG 5] ∧ s.scalarEa (s.g 4) 0 8 false false false = .error (.align, gaLM 0xFFF9)) :=
  ⟨⟨rfl, may (by decide +kernel) _ _, by decide +kernel⟩, ⟨may (by decide +kernel) _ _, by decide +kernel⟩,
    ⟨may (by decide +kernel) _ _, by decide +kernel⟩⟩
theorem witness_FarLoadsBecomeGets :
    let s := g (ctx base (fun c => { c with reach := 2 })) 4 (w64 (2 ^ 56 + 8))
    (loadShape (.fld H 5 4 false false false false [])).isSome ∧ MayIssue s [codeG 4] [codeF 5]
      ∧ s.scalarEa (s.g 4) 0 4 false false false = .ok (.far (2 ^ 56 + 8), 2 ^ 56 + 8) ∧ s.ownWriteTo 1 (2 ^ 56 + 8) 4 = false
      ∧ (s.ctx s.myCtx).flooded = false ∧ s.flowFailed 1 clUNO = false ∧ s.flowOpen 1 clUNO = true ∧ (s.takeReturning 1).isSome :=
  ⟨rfl, may (by decide +kernel) _ _, by decide +kernel, by decide +kernel, by decide +kernel, by decide +kernel, by decide +kernel, by decide +kernel⟩
theorem witness_PlainStoresEnterTheChunk :
    (let s := g base 4 (gaBM 0x1FFFF8);
      (storeShape s (.st H 5 4 false false 0 false [])).isSome ∧ MayIssue s [codeG 4, codeG 5] []
        ∧ s.hasRoom (s.storeUnits (s.g 4) 0 8 false) 0 = true
        ∧ s.scalarEa (s.g 4) 0 8 false true false = .ok (.here (bm 0x1FFFF8), 0x1FFFF8))
    ∧ (let s := g (ctx base (fun c => { c with reach := 2 })) 4 (w64 (2 ^ 56 + 8));
      MayIssue s [codeG 4, codeG 5] [] ∧ s.hasRoom (s.storeUnits (s.g 4) 0 8 false) 0 = true
        ∧ s.scalarEa (s.g 4) 0 8 false true false = .ok (.far (2 ^ 56 + 8), 2 ^ 56 + 8)
        ∧ s.flowFailed 1 clORD = false)
    ∧ (let s := g base 4 (gaBM 0x200000);
      MayIssue s [codeG 4, codeG 5] [] ∧ s.hasRoom (s.storeUnits (s.g 4) 0 8 false) 0 = true
        ∧ s.scalarEa (s.g 4) 0 8 false true false = .error (.xlate, gaBM 0x200000))
    ∧ (let c := { chunk1 with writes := (upFrom 0 64).map (fun n => (lm (16 * n), 0)) };
      let s := g (slot base (fun m => { m with chunks := [c] })) 4 (gaLM 0x400);
      MayIssue s [codeG 4, codeG 5] [] ∧ s.hasRoom (s.storeUnits (s.g 4) 0 8 false) 0 = false) :=
  ⟨⟨rfl, may (by decide +kernel) _ _, by decide +kernel⟩,
    ⟨may (by decide +kernel) _ _, by decide +kernel, by decide +kernel⟩, ⟨may (by decide +kernel) _ _, by decide +kernel⟩,
    ⟨may (by decide +kernel) _ _, by decide +kernel⟩⟩
theorem witness_QualifiedAccessesServedAtHome :
    let s := g base 4 (gaLM 0x20)
    paCore (lm 0x20) = s.cur.core ∧ s.myCore.sealed = none ∧ s.myCore.granQ = [] ∧ s.me.resume = none
      ∧ (loadShape (.ld H 5 4 false true 0 false false [])).isSome ∧ MayIssueAlone s [codeG 4] [codeG 5]
      ∧ s.scalarEa (s.g 4) 0 8 false false true = .ok (.here (lm 0x20), (gaLM 0x20).toNat)
      ∧ (storeShape s (.st H 5 4 true true 0 false [])).isSome ∧ MayIssueAlone s [codeG 4, codeG 5] []
      ∧ memWf s.mem = true ∧ s.scalarEa (s.g 4) 0 8 false true true = .ok (.here (lm 0x20), (gaLM 0x20).toNat)
      ∧ s.isFull (unitOf (lm 0x20)) = false
      ∧ ({ s with full := [unitOf (lm 0x20)] } : State).isFull (unitOf (lm 0x20)) = true := by
  refine ⟨by decide +kernel, by decide +kernel, by decide +kernel, by decide +kernel, rfl, alone (by decide +kernel) _ _, by decide +kernel, rfl,
    alone (by decide +kernel) _ _, by decide +kernel, by decide +kernel, by decide +kernel, by decide +kernel⟩
theorem witness_AddrFormsTheAddress :
    let s := g base 6 (gaLM 0x100)
    MayIssue s [codeG 6] [codeG 5] ∧ (0 ≤ ((s.g 6).toNat % 2 ^ 41 : Nat) + imxVal [255])
      ∧ (if true then s.absolute (gaLM 0x100).toNat else some 0) = some (gaLM 0x100).toNat
      ∧ s.absolute (31 * 2 ^ 44 + 2 ^ 41) = none
      ∧ ((((g base 6 (gaLM 0)).g 6).toNat % 2 ^ 41 : Nat) + imxVal [511] : Int) < 0 :=
  ⟨may (by decide +kernel) _ _, by decide +kernel, by decide +kernel, by decide +kernel, by decide +kernel⟩
theorem witness_SystemRegisterAccess :
    MayIssue base [] [codeG 5] ∧ MayIssue base [codeG 5] [] ∧ (0x012, 256) ∈ sysValues base
      ∧ base.me.arch.sup = false ∧ (∀ p ∈ sysValues base, p.1 ≠ 0x021) ∧ (0x030, base.myCore.cyc) ∈ sysValues base ∧ base.me.chunks = []
      ∧ (let s := arch base (fun r => { r with sup := true }); (0x01B, s.myCore.preemptdl) ∈ sysValues s ∧ s.me.arch.sup = true)
      ∧ (20 : Reg).toNat ≤ 20 ∧ 20 < (21 : Reg).toNat := by
  refine ⟨may (by decide +kernel) _ _, may (by decide +kernel) _ _, by decide +kernel, by decide +kernel, by decide +kernel, by decide +kernel,
    by decide +kernel, by decide +kernel, by decide, by decide⟩
def bindQ (s : State) (n : Nat) (b : Binding) : State := slot s (fun m => m.setQ n b)
def end1 : Binding := ⟨1, 0, 1, 2, 16, [], 0, false, 0⟩
def end2 : Binding := ⟨2, 0, 1, 0, 4, [some 7], 0, false, 0⟩
theorem witness_QueueRegistersBindAndUnbind_bind :
    (let s := g base 5 (w64 (1 + 2 ^ 20 + 2 ^ 24));
      MayIssueAlone s [codeG 5] [codeQ 15] ∧ (s.me.qreg 15).kind = 0 ∧ bindingOk (s.g 5) = true
        ∧ (bindingOf (s.g 5)).kind.toNat ≤ 2 ∧ (s.ctx s.myCtx).phys (bindingOf (s.g 5)).peer.toNat = some 0)
    ∧ (let s := g base 5 3;
      MayIssueAlone s [codeG 5] [codeQ 0] ∧ (s.me.qreg 0).kind = 0 ∧ bindingOk (s.g 5) = true
        ∧ 3 ≤ (bindingOf (s.g 5)).kind.toNat ∧ ∀ n, n < 16 → (s.me.qreg n).kind ≠ (bindingOf (s.g 5)).kind)
    ∧ (((bindQ base 0 end1).me.qreg 0).kind ≠ 0 ∧ ∀ k, (bindQ base 0 end1).me.task = some k → k.trailing = false)
    ∧ (let s := bindQ (g base 5 (w64 (1 + 2 ^ 20 + 2 ^ 24))) 0 end1;
      MayIssueAlone s [codeG 5] [codeQ 15] ∧ bindingOk (s.g 5) = true ∧ (bindingOf (s.g 5)).kind = 1 ∧ ⟨0, 0⟩ ∈ s.allSlots
        ∧ s.sendsTo ⟨0, 0⟩ ⟨0, (bindingOf (s.g 5)).pslot.toNat, (bindingOf (s.g 5)).pq.toNat⟩ ≠ []
        ∧ ∀ i ∈ base.allSlots, base.sendsTo i ⟨0, (bindingOf (s.g 5)).pslot.toNat, (bindingOf (s.g 5)).pq.toNat⟩ = []) :=
  ⟨⟨alone (by decide +kernel) _ _, by decide +kernel⟩, ⟨alone (by decide +kernel) _ _, by decide +kernel⟩,
    ⟨by decide +kernel, fun k h => by cases h; rfl⟩, ⟨alone (by decide +kernel) _ _, by decide +kernel⟩⟩
theorem witness_QueueRegistersBindAndUnbind_rest :
    (let s := bindQ base 3 end1; MayIssueAlone s [] [codeQ 3] ∧ (s.me.qreg 3).kind ≠ 0 ∧ (s.me.qreg 3).kind.toNat < 3
        ∧ (s.ctx s.myCtx).phys (s.me.qreg 3).peer.toNat = some 0 ∧ (s.me.qreg 3).allow ≠ 0)
    ∧ (let s := bindQ base 3 { end1 with kind := 6 }; quiet s = true ∧ (s.me.qreg 3).kind = 6 ∧ s.opsHeld s.cur 6 = 0)
    ∧ (base.me.qreg 3).kind = 0
    ∧ (let s := bindQ base 2 end2; MayIssueAlone s (codeQ 2 :: Src.codes (.imm [4])) [codeG 6] ∧ (s.me.qreg 2).kind = 2
        ∧ min (Src.val (.imm [4]) s).toNat (16 - 1 - 4) ≠ 0)
    ∧ ((bindQ base 3 end1).me.qreg 3).kind ≠ 2 :=
  ⟨⟨alone (by decide +kernel) _ _, by decide +kernel⟩, by decide +kernel, by decide +kernel,
    ⟨alone (by decide +kernel) _ _, by decide +kernel⟩, by decide +kernel⟩
theorem witness_ChannelStateReads :
    (let s := g (bindQ base 2 end2) 6 0xC;
      MayIssueAlone s [codeG 6] [codeG 5] ∧ (s.g 6).getLsbD 2 = true ∧ s.me.qReady 2 = true
        ∧ ∀ m, m < 2 → (s.g 6).getLsbD m = true → s.me.qReady m = false)
    ∧ (MayIssueAlone base [codeG 6] [codeG 5] ∧ (base.g 6).toNat % 2 ^ 16 = 0)
    ∧ (MayIssue base [codeQ 15] [codeG 5] ∧ MayIssue base [] [codeG 5])
    ∧ (let s := g (slot base (fun m => { m with resume := some ⟨0, none, none, false⟩ })) 7 8;
      MayIssueAlone s [codeG 6, codeG 7] [codeG 5] ∧ ((s.ctx s.myCtx).phys ((s.g 6).toNat % 2 ^ 12)).isSome
        ∧ s.me.resume = some ⟨0, none, none, false⟩ ∧ 1 ≤ (s.g 7).toNat % 16 ∧ (s.g 7).toNat % 16 ≤ 8)
    ∧ (MayIssueAlone (g base 7 9) [codeG 6, codeG 7] [codeG 5] ∧ 8 < ((g base 7 9).g 7).toNat % 16) :=
  ⟨⟨alone (by decide +kernel) _ _, by decide +kernel⟩, ⟨alone (by decide +kernel) _ _, by decide +kernel⟩,
    ⟨may (by decide +kernel) _ _, may (by decide +kernel) _ _⟩, ⟨alone (by decide +kernel) _ _, by decide +kernel⟩,
    ⟨alone (by decide +kernel) _ _, by decide +kernel⟩⟩
theorem witness_QueuePushAndPop :
    (let s := bindQ base 3 end1; MayIssue s [codeG 5, codeQ 3] [] ∧ s.hasRoom [] 1 = true ∧ s.me.wait = none ∧ (s.me.qreg 3).kind = 1 ∧ (s.me.qreg 3).dead = false
        ∧ 0 < (s.me.qreg 3).allow ∧ (s.ctx s.myCtx).phys (s.me.qreg 3).peer.toNat = some 0)
    ∧ (let s := bindQ (slot base (fun m => m.setFifo 3 ⟨List.replicate 7 0, [5]⟩)) 3 { end1 with kind := 3 };
      MayIssueAlone s [codeG 5, codeQ 3] [] ∧ (s.me.qreg 3).kind = 3 ∧ (s.me.fifoOf 3).ops.length < 8
        ∧ MayIssueAlone s [codeQ 3] [codeG 5] ∧ (s.me.fifoOf 3).res = [5])
    ∧ (let s := bindQ base 2 end2; MayIssueAlone s [codeQ 2] [codeG 5] ∧ (s.me.qreg 2).kind = 2 ∧ (s.me.qreg 2).entries = [some 7])
    ∧ (base.me.qreg 2).kind = 0
    ∧ (let s := bindQ base 2 { end2 with entries := [none] };
      MayIssueAlone s [codeQ 2] [codeG 5] ∧ (s.me.qreg 2).entries = [none]) :=
  ⟨⟨may (by decide +kernel) _ _, by decide +kernel⟩,
    ⟨alone (by decide +kernel) _ _, by decide +kernel, by decide +kernel, alone (by decide +kernel) _ _, by decide +kernel⟩,
    ⟨alone (by decide +kernel) _ _, by decide +kernel⟩, by decide +kernel, ⟨alone (by decide +kernel) _ _, by decide +kernel⟩⟩
theorem witness_TrapBrkAndXret :
    (let s := arch base (fun r => { r with xvec := 0x100 });
      MayIssue s [] [] ∧ MayIssueAlone s [] [] ∧ TrapsAtOnce s s.cur ∧ s.me.arch.xvec ≠ 0 ∧ s.me.arch.trapped = false
        ∧ (s.ctx s.myCtx).debugArm = false ∧ ([1, 2, 3] : Imx).length ≤ 3)
    ∧ (let s := ctx base (fun c => { c with debugArm := true }); MayIssueAlone s [] [] ∧ (s.ctx s.myCtx).debugArm = true)
    ∧ (let s := arch base (fun r => { r with trapped := true, sup := true });
      MayIssueAlone s [] [] ∧ s.me.arch.trapped = true ∧ s.me.arch.sup = true)
    ∧ base.me.arch.trapped = false :=
  ⟨⟨may (by decide +kernel) _ _, alone (by decide +kernel) _ _, atOnce (by decide +kernel), by decide +kernel⟩,
    ⟨alone (by decide +kernel) _ _, by decide +kernel⟩, ⟨alone (by decide +kernel) _ _, by decide +kernel⟩, by decide +kernel⟩
def ret5 : Ret := { Ret.plain 5 7 with due := some 9 }
theorem witness_TrapEntrySavesAndRedirects :
    (let s := arch base (fun r => { r with xvec := 0x100 });
      TrapsAtOnce s ⟨0, 0⟩ ∧ (s.slot ⟨0, 0⟩).arch.xvec ≠ 0 ∧ (s.slot ⟨0, 0⟩).arch.trapped = false)
    ∧ (TrapsAtOnce base ⟨0, 7⟩ ∧ (base.slot ⟨0, 7⟩).arch.xvec = 0 ∧ (base.core 0).sealed = none)
    ∧ (let s := slot base (fun m => { m with returns := [ret5] });
      (0 < 8 ∧ s.partner ⟨0, 0⟩ = none ∧ (s.slot ⟨0, 0⟩).returns = [ret5] ∧ ret5.sfu = false)
      ∧ (intResult s (.add H 6 5 (.reg 0) false)).isSome
      ∧ ([codeG 5, codeG 0] ++ [codeG 6]).find? (fun c => c != 0 && s.me.pendingCodes.contains c) = some 5
      ∧ (floatResult s (.fmov H 1 5 1)).isSome
      ∧ ([codeG 5] ++ [codeF 1]).find? (fun c => c != 0 && s.me.pendingCodes.contains c) = some 5) :=
  ⟨⟨atOnce (by decide +kernel), by decide +kernel⟩, ⟨atOnce (by decide +kernel), by decide +kernel⟩,
    by decide +kernel⟩
theorem witness_FencesAndChunkEnds :
    (MayIssue base [] [] ∧ MayIssueAlone base [] [] ∧ base.inSfu base.cur = false ∧ (base.ctx base.myCtx).preempt = none
      ∧ (base.lostWrite base.me.cover = none ∧ base.coverHere = false ∧ base.coverFar = false ∧ base.me.returns = []
        ∧ (base.ctx base.myCtx).releaseCheck = false) ∧ base.me.chunks = [] ∧ base.me.serial = 0
      ∧ (tget base.me.streaks (0, 0) base.me.chunkNo).1 < 4)
    ∧ (let s := ctx base (fun c => { c with preempt := some 0 }); MayIssue s [] [] ∧ (s.ctx s.myCtx).preempt ≠ none
      ∧ 0 ≤ immVal ⟨[], 15⟩)
    ∧ (let s := slot base (fun m => { m with chunks := [chunk1] }); MayIssue s [] [] ∧ s.me.chunks = [chunk1] ∧ chunk1.closed = false) :=
  ⟨⟨may (by decide +kernel) _ _, alone (by decide +kernel) _ _, by decide +kernel⟩, ⟨may (by decide +kernel) _ _, by decide +kernel⟩,
    ⟨may (by decide +kernel) _ _, by decide +kernel⟩⟩
theorem witness_TendEndsTheTask : MayIssueAlone base [] [] ∧ base.me.task = some task0 ∧ base.slotIdle base.cur = true
    ∧ ∀ q, q < 16 → 3 ≤ (base.me.qreg q).kind.toNat → (base.me.fifoOf (base.me.qreg q).kind.toNat).ops = [] :=
  ⟨alone (by decide +kernel) _ _, by decide +kernel⟩
def child1 : Child := ⟨childPath 0 0, true, false, 42, []⟩
theorem witness_ForkAddsAChild :
    (let s := g base 6 0x40;
      MayIssueAlone s [codeG 6, codeG 7] [codeG 5] ∧ s.checkAt (s.g 6) 2 [spBM] = none ∧ s.me.task = some task0
        ∧ s.launch 0 0 = some launch0 ∧ task0.sup = false ∧ depthOf task0.ref.path + 1 ≤ task0.maxfork
        ∧ s.me.children.length < 16 ∧ forkCore s task0 launch0 = some 0 ∧ s.sealOf 0 0 = none ∧ wbits (forkWord s) 7 0 = 0)
    ∧ (let s := g (slot base (fun m => { m with task := some { task0 with maxfork := 0 } })) 6 0x40;
      quiet s = true ∧ s.checkAt (s.g 6) 2 [spBM] = none ∧ forkWord s = 1)
    ∧ (let s := g (slot base (fun m => { m with children := List.replicate 16 child1 })) 6 0x40;
      quiet s = true ∧ s.checkAt (s.g 6) 2 [spBM] = none ∧ forkWord s = 2)
    ∧ (let s := g (slot base (fun m => { m with task := some { task0 with sup := true } })) 6 0x40;
      quiet s = true ∧ s.checkAt (s.g 6) 2 [spBM] = none ∧ forkWord s = 3)
    ∧ (let s := g base 6 0x41; MayIssueAlone s [codeG 6, codeG 7] [codeG 5] ∧ s.checkAt (s.g 6) 2 [spBM] = some (.align, 0x41)) :=
  ⟨⟨alone (by decide +kernel) _ _, by decide +kernel⟩, by decide +kernel, by decide +kernel, by decide +kernel,
    ⟨alone (by decide +kernel) _ _, by decide +kernel⟩⟩
theorem witness_JoinCollectsChildren :
    let s := g (slot base (fun m => { m with children := [child1] })) 6 1
    MayIssueAlone s [codeG 6, codeG 0] [codeG 5] ∧ s.me.task = some task0 ∧ (s.g 6).toNat = 1
      ∧ s.descendantLives 0 0 child1.path = false ∧ s.rootExiting task0.ref = false
      ∧ (let u := g s 7 (gaLM 0xFFF8); MayIssueAlone u [codeG 6, codeG 7] [codeG 5] ∧ (7 : Reg) ≠ 0 ∧ memWf u.mem = true
        ∧ u.ownTarget (u.g 7) 8 (8 * ((([0] : List Nat).getLast?).getD 0 + 1)) = .ok 0xFFF8)
      ∧ (base.g 6).toNat = 0 ∧ 2 ^ 16 ≤ ((g base 6 0x10000).g 6).toNat ∧ ((g base 6 1).g 6).toNat.testBit 0 = true
      ∧ base.me.children.length ≤ 0 :=
  ⟨alone (by decide +kernel) _ _, by decide +kernel, by decide +kernel, by decide +kernel, by decide +kernel,
    ⟨alone (by decide +kernel) _ _, by decide +kernel⟩, by decide +kernel⟩
/-- The KCB and the record of a launch in memory. -/
def loaded : State := { base with mem := memSetAll [] (cellsOf (bm 0x1000) kcb0 ++ cellsOf (bm 0x2000) rec0) }
def slot00 : WdWho := .slot ⟨0, 0⟩
theorem test_record_passes : (loaded.checkRecord slot00 0 rec0).bad = none := by decide +kernel
theorem witness_LaunchAnswers :
    (let s := g loaded 6 (gaBM 0x2000);
      MayIssueAlone s [codeG 6] [codeG 5] ∧ s.checkAt (s.g 6) 256 [spBM, spHW] = none ∧ s.agentRead 0 0x2000 256 = .ok rec0
        ∧ (s.wdNext slot00 0 (roleNeeds (s.wdSee slot00 0) rec0)).isNone = true
        ∧ (s.checkRecord slot00 0 rec0).bad = none ∧ field (s.checkRecord slot00 0 rec0).kcb 8 4 ≤ 4
        ∧ (s.ctx 0).launches.length < 256 ∧ field rec0 0x88 4 = 0 ∧ s.dealCores 0 ≠ []
        ∧ fitsIdle (s.checkRecord slot00 0 rec0).kcb = true)
    ∧ (loaded.checkRecord slot00 0 (put rec0 0x10 4 0)).bad = some 0x10
    ∧ (let s : State := { loaded with mem := memSetAll loaded.mem (cellsOf (bm 0x1008) [5]) };
      (s.checkRecord slot00 0 rec0).bad = none ∧ 4 < field (s.checkRecord slot00 0 rec0).kcb 8 4)
    ∧ 256 ≤ ((ctx loaded (fun c => { c with launches := (upFrom 0 256).map (fun n => (n, launch0)) })).ctx 0).launches.length :=
  ⟨⟨alone (by decide +kernel) _ _, by decide +kernel⟩, by decide +kernel, by decide +kernel, by decide +kernel⟩
def kill0 : Word × Nat × Bool × Job := (0, 0, false, .again 0 0)
def supB : State := arch base (fun r => { r with sup := true })
theorem witness_CountersAndControl :
    (MayIssue base [] [codeG 5] ∧ (7 : Reg).toNat ≤ 7 ∧ 7 < (8 : Reg).toNat ∧ base.me.arch.sup = false)
    ∧ (supB.me.arch.sup = true ∧ MayIssueAlone supB [codeG 6, codeG 7] [codeG 5] ∧ MayIssueAlone supB [codeG 5] [])
    ∧ (let s := g supB 7 255; (s.g 7).toNat < 256 ∧ tctlStatus s (s.g 6) (s.g 7).toNat = 4 ∧ 256 ≤ ((g supB 7 256).g 7).toNat)
    ∧ (let l := { launch0 with killed := [kill0] }; let on (l : Launch) : State := ctx supB (fun c => { c with launches := [(0, l)] });
      tctlStatus supB 0 0 = 1 ∧ tctlStatus (on l) 0 0 = 2 ∧ tctlStatus (on { l with kcb := put kcb0 0x0E 1 1 }) 0 0 = 0
        ∧ tctlStatus (core (on { l with kcb := put kcb0 0x0E 1 1 }) (fun c => { c with sealed := some 1 })) 0 0 = 3
        ∧ (let r := { l with kcb := put kcb0 0x0E 1 1 }; (on r).launch (on r).myCtx 0 = some r ∧ r.killOf 0 = some kill0 ∧ r.restart = true
          ∧ (on r).leastLoaded (on r).myCtx (restartCores (on r) r kill0.2.1) = some 0))
    ∧ (base.me.readable 7 = true ∧ (base.g 7).toNat < 256 ∧ ¬((g base 5 99).g 5).toNat % 128 = 0 ∧ 99 % 128 < 100)
    ∧ (let s := g supB 5 (w64 (99 + 2 ^ 7 * 7)); (s.g 5).toNat = 99 + 2 ^ 7 * 7 ∧ 99 ≠ 0 ∧ 96 ≤ 99 ∧ 99 < 100 ∧ 7 < 8
      ∧ ((g supB 5 0).g 5).toNat % 128 = 0 ∧ 64 ≤ ((g supB 5 64).g 5).toNat % 128 ∧ ((g supB 5 95).g 5).toNat % 128 < 96
      ∧ 2 ^ 10 ≤ ((g supB 5 1024).g 5).toNat) :=
  ⟨⟨may (by decide +kernel) _ _, by decide +kernel⟩,
    ⟨by decide +kernel, alone (by decide +kernel) _ _, alone (by decide +kernel) _ _⟩, by decide +kernel, by decide +kernel,
    by decide +kernel, by decide +kernel⟩
/-- An assay image of two slots in BM: one of kind BRANCH, one of kind 2. -/
def img0 : AssayImage := ⟨[bm 0x4000, bm 0x4010], 2, 0, 0, [0], []⟩
def assayed : State :=
  { slot base (fun m => { m with task := some { task0 with handle := 1 } }) with
    images := [(1, img0)], mem := memSetAll [] (cellsOf (bm 0x4000) (puts (zeros 32) [(0, 4, 1), (4, 4, 9), (16, 4, 2)])) }
theorem witness_AssayInstructions :
    (MayIssue assayed [] [codeG 5] ∧ assayed.assaySlot 0 = .slot 1 9 0 ∧ immVal ⟨[], 0⟩ = (0 : Nat) ∧ 1 = adviceKind 0
      ∧ immVal ⟨[], 1⟩ = (1 : Nat) ∧ (assayed.assaySlot 1).suits [adviceKind 0] = false)
    ∧ (base.assaySlot 1 = .noImage ∧ MayIssue base [] [codeG 5])
    ∧ (let s : State := { die assayed (fun d => { d with fenced := true }) with
        images := [(1, { img0 with snapshot := puts (zeros 32) [(0, 4, 1)] })] }
      calm s = true ∧ s.assaySlot 0 = .lost 1 0 ∧ 1 = adviceKind 0)
    ∧ (MayIssue assayed [codeG 5, codeG 7] [] ∧ 0 = (assayed.g 7).toNat ∧ (assayed.assaySlot 0).suits [1] = true
      ∧ ((assayed.g 5 = 0) ↔ false = false) ∧ ¬((assayed.g 5 = 0) ↔ true = false))
    ∧ (let s := g assayed 7 1; MayIssue s [codeG 5, codeG 7] [] ∧ 1 = (s.g 7).toNat ∧ (s.assaySlot 1).suits [1] = false)
    ∧ (MayIssue assayed [codeG 5] [] ∧ immVal ⟨[], 1⟩ = (1 : Nat) ∧ assayed.assaySlot 1 = .slot 2 0 0
      ∧ (assayed.assaySlot 0).suits [1, 2, 3] = true ∧ immVal ⟨[], 2⟩ = (2 : Nat)
      ∧ (assayed.assaySlot 2).suits [1, 2, 3] = false)
    ∧ (let s := g (g assayed 7 1) 6 (gaLM 8); MayIssue s [codeG 6, codeG 7] [codeG 5] ∧ 1 = (s.g 7).toNat
      ∧ (s.assaySlot 1).suits [2] = true ∧ s.scalarEa (s.g 6) 0 8 false false false = .ok (.here (lm 8), (gaLM 8).toNat))
    ∧ (let s := g (g assayed 7 1) 6 (gaLM 9); MayIssue s [codeG 6, codeG 7] [codeG 5]
      ∧ s.scalarEa (s.g 6) 0 8 false false false = .error (.align, gaLM 9))
    ∧ (let s := g assayed 7 2; MayIssue s [codeG 6, codeG 7] [codeG 5] ∧ 2 = (s.g 7).toNat
      ∧ (s.assaySlot 2).suits [2] = false) :=
  ⟨⟨may (by decide +kernel) _ _, by decide +kernel⟩, ⟨by decide +kernel, may (by decide +kernel) _ _⟩, by decide +kernel,
    ⟨may (by decide +kernel) _ _, by decide +kernel⟩, ⟨may (by decide +kernel) _ _, by decide +kernel⟩,
    ⟨may (by decide +kernel) _ _, by decide +kernel⟩, ⟨may (by decide +kernel) _ _, by decide +kernel⟩,
    ⟨may (by decide +kernel) _ _, by decide +kernel⟩, ⟨may (by decide +kernel) _ _, by decide +kernel⟩⟩
def v2 : VarId := ⟨0, 2⟩
def withMode (s : State) (m : Mode) : State := s.setMode v2 m
/-- The level-0 group of the task of slot 0, and that of task 1. -/
def me0 : GroupRef := groupAt launch0 ⟨0, 0, 0⟩ 0
def other0 : GroupRef := mkRef 0 0 0 5
def entry0 (r : GroupRef) (kind : BitVec 2) : Estate := { Estate.free with hid := gaSY 2, kind := kind, holder := r }
def holding (s : State) (r : GroupRef) (kind : BitVec 2) : State := s.setEntry 0 0 (entry0 r kind)
def lockB : State := g base 6 (gaSY 2)
def held (r : GroupRef) (q : List (SlotId × GroupRef)) : State := holding (withMode lockB (.lock .held false q)) r 1
theorem witness_LockRequestHoldsOrWaits :
    (MayIssueAlone lockB [codeG 6] [codeG 5] ∧ lockB.syncVar (lockB.g 6) = .ok v2 ∧ lockB.me.resume = none
      ∧ lockB.myGroup 0 = some me0 ∧ lockB.mode v2 = .plain ∧ firstGap (lockB.die 0).estates 0 < 65536)
    ∧ (let s := held me0 []; quiet s = true ∧ s.syncVar (s.g 6) = .ok v2 ∧ s.mode v2 = .lock .held false []
      ∧ s.varEntry v2 = some (0, entry0 me0 1) ∧ s.meHolds (entry0 me0 1) = true ∧ (entry0 me0 1).brv = false)
    ∧ (let s := held other0 [(⟨0, 7⟩, other0)]; quiet s = true ∧ s.mode v2 = .lock .held false [(⟨0, 7⟩, other0)]
      ∧ s.varEntry v2 = some (0, entry0 other0 1) ∧ s.meHolds (entry0 other0 1) = false ∧ ∀ w ∈ [((⟨0, 7⟩ : SlotId), other0)], w.1 ≠ s.cur) :=
  ⟨⟨alone (by decide +kernel) _ _, by decide +kernel⟩, by decide +kernel, by decide +kernel⟩
theorem witness_LockReleaseAndHandover :
    (let s := held me0 []; MayIssueAlone s [codeG 6] [codeG 5] ∧ s.syncVar (s.g 6) = .ok v2 ∧ (s.ctx s.myCtx).releaseCheck = false
      ∧ s.lockHeld v2 = .ok (0, entry0 me0 1, []) ∧ s.releaseWait (s.scopeOf me0) = none)
    ∧ (let s := held me0 [(⟨0, 7⟩, other0)]; quiet s = true ∧ s.lockHeld v2 = .ok (0, entry0 me0 1, [(⟨0, 7⟩, other0)])
      ∧ (⟨0, 7⟩ : SlotId) ≠ s.cur)
    ∧ (let r := mkRef 0 0 1 1; let s := g (held me0 [(⟨0, 7⟩, other0)]) 7 (r.setWidth 64);
      MayIssueAlone s [codeG 6, codeG 7] [codeG 5] ∧ s.refOf (s.g 7) = some r
        ∧ s.lockHeld v2 = .ok (0, entry0 me0 1, [(⟨0, 7⟩, other0)]) ∧ r ≠ me0 ∧ s.exited r = false
        ∧ s.slotIn r ⟨0, 7⟩ = false ∧ s.releaseWait (s.scopeOf me0) = none)
    ∧ (let s := withMode lockB (.lock .free false []); MayIssueAlone s [codeG 6] [codeG 5] ∧ s.mode v2 = .lock .free false []) :=
  ⟨⟨alone (by decide +kernel) _ _, by decide +kernel⟩, by decide +kernel, ⟨alone (by decide +kernel) _ _, by decide +kernel⟩,
    ⟨alone (by decide +kernel) _ _, by decide +kernel⟩⟩
theorem witness_AtomicsOnMemory :
    (let s := g base 6 (gaBM 0x1FFFF8); AtomicTarget s (s.g 6) 8 (bm 0x1FFFF8) none ∧ MayIssueAlone s [codeG 6, codeG 7] [codeG 5]
      ∧ MayIssueAlone s [codeG 5, codeG 6, codeG 7] [codeG 5] ∧ MayIssueAlone s [codeG 6, codeG 7] [])
    ∧ (let s := g base 6 (gaSY 2); AtomicTarget s (s.g 6) 4 (pa spSY 0 32) (some v2) ∧ MayIssueAlone s [codeG 6, codeF 7] [codeF 5]
      ∧ MayIssueAlone s [codeG 6, codeF 7] []) := by
  refine ⟨⟨⟨by decide +kernel, by decide +kernel, by decide +kernel, by decide +kernel, by decide +kernel, by decide +kernel,
    by decide +kernel, by decide +kernel, by simp⟩, alone (by decide +kernel) _ _, alone (by decide +kernel) _ _, alone (by decide +kernel) _ _⟩,
    ⟨⟨by decide +kernel, by decide +kernel, by decide +kernel, by decide +kernel, by decide +kernel, by decide +kernel,
    by decide +kernel, by decide +kernel, ?_⟩, alone (by decide +kernel) _ _, alone (by decide +kernel) _ _⟩⟩
  intro v h; cases h; decide +kernel
def barB (count n : Nat) (ph : BitVec 16) (ws : List (SlotId × BitVec 16)) : State := withMode lockB (.barrier count n ph 0 [] ws)
theorem witness_BarriersCountArrivals :
    (let s := barB 2 1 0xFFFF [(⟨0, 7⟩, 0xFFFF)];
      MayIssueAlone s [codeG 6] [codeG 5] ∧ s.syncVar (s.g 6) = .ok v2 ∧ s.me.resume = none
        ∧ s.mode v2 = .barrier 2 1 0xFFFF 0 [] [(⟨0, 7⟩, 0xFFFF)] ∧ s.releaseWait (s.levelScope s.cur 0) = none
        ∧ (s.ctx s.myCtx).releaseCheck = false ∧ (5 : Reg) ≠ 0 ∧ s.me.arch.ap = false ∧ 2 ≤ 1 + 1)
    ∧ (let s := barB 2 0 3 []; quiet s = true ∧ s.mode v2 = .barrier 2 0 3 0 [] [] ∧ 0 + 1 < 2 ∧ (0 : Reg) = 0)
    ∧ (let s := g (barB 2 0 3 []) 7 (w64 (2 * 2 ^ 16)); MayIssueAlone s [codeG 6, codeG 7] [codeG 5]
      ∧ 1 ≤ ((3 : BitVec 16) - BitVec.ofNat 16 ((s.g 7).toNat / 2 ^ 16)).toNat
      ∧ ((3 : BitVec 16) - BitVec.ofNat 16 ((s.g 7).toNat / 2 ^ 16)).toNat ≤ 32767) :=
  ⟨⟨alone (by decide +kernel) _ _, by decide +kernel⟩, by decide +kernel, ⟨alone (by decide +kernel) _ _, by decide +kernel⟩⟩
theorem witness_SymgSetsTheMode :
    (let s := g lockB 7 1; MayIssueAlone s [codeG 6, codeG 7] [codeG 5] ∧ s.syncVar (s.g 6) = .ok v2 ∧ symgOk 1 (s.g 7) = true
      ∧ s.mode v2 = .plain ∧ (s.myGroup ((s.g 7).toNat / 2 ^ 32 % 8)).isSome)
    ∧ symgOk 2 (w64 (4 + 10 * 2 ^ 40)) = true
    ∧ (lockB.g 7 = 0 ∧ lockB.symgBusy v2 = false ∧ memWf lockB.mem = true) ∧ symgOk 1 0 = false :=
  ⟨⟨alone (by decide +kernel) _ _, by decide +kernel⟩, by decide +kernel, by decide +kernel, by decide +kernel⟩
theorem witness_PromisesArePromised :
    (MayIssueAlone lockB [codeG 6] [codeG 5] ∧ lockB.syncVar (lockB.g 6) = .ok v2 ∧ lockB.me.resume = none
      ∧ (lockB.ctx lockB.myCtx).releaseCheck = false ∧ lockB.myGroup 0 = some me0 ∧ lockB.mode v2 = .plain
      ∧ firstGap (lockB.die 0).estates 0 < 65536)
    ∧ (let s := holding (withMode lockB (.promise .pending)) me0 3; quiet s = true ∧ s.mode v2 = .promise .pending
      ∧ s.varEntry v2 = some (0, entry0 me0 3) ∧ s.meHolds (entry0 me0 3) = true ∧ s.releaseWait (s.scopeOf me0) = none)
    ∧ ((withMode lockB (.promise .fulfilled)).mode v2 = .promise .fulfilled ∧ quiet (withMode lockB (.promise .fulfilled)) = true
      ∧ ((withMode lockB (.promise .fulfilled)).die 0).pwait = [])
    ∧ ((withMode lockB (.promise .broken)).mode v2 = .promise .broken ∧ quiet (withMode lockB (.promise .broken)) = true)
    ∧ (let s := die (holding (withMode lockB (.promise .pending)) other0 3) (fun d => { d with pwait := [(⟨0, 7⟩, 2)] });
      quiet s = true ∧ s.mode v2 = .promise .pending ∧ s.varEntry v2 = some (0, entry0 other0 3) ∧ s.meHolds (entry0 other0 3) = false
        ∧ ∀ w ∈ (s.die 0).pwait, w.1 ≠ s.cur) :=
  ⟨⟨alone (by decide +kernel) _ _, by decide +kernel⟩, by decide +kernel, by decide +kernel, by decide +kernel, by decide +kernel⟩
theorem witness_EstateHeirAndQuery :
    (let s := g (held me0 []) 7 (BitVec.allOnes 64);
      MayIssueAlone s [codeG 6, codeG 7] [codeG 5] ∧ s.holdingOperand (s.g 6) true false = .ok (0, (gaSY 2).toNat)
        ∧ s.hidEntry 0 (gaSY 2).toNat = some (0, entry0 me0 1) ∧ s.meHolds (entry0 me0 1) = true ∧ s.refOf (s.g 7) = none)
    ∧ (let s := g (held me0 []) 7 (other0.setWidth 64);
      quiet s = true ∧ s.refOf (s.g 7) = some other0 ∧ s.g 7 ≠ BitVec.allOnes 64 ∧ refSup other0 = false)
    ∧ (let s := g (held me0 []) 7 (gaLM 0xFFD0); quiet s = true ∧ refCtx me0 = s.myCtx ∧ s.ownTarget (s.g 7) 16 48 = .ok 0xFFD0
      ∧ memWf s.mem = true) :=
  ⟨⟨alone (by decide +kernel) _ _, by decide +kernel⟩, by decide +kernel, by decide +kernel⟩
def objE (r : GroupRef) (o : Option GroupRef) : Estate := { entry0 r 2 with hid := gaLM 0, offer := o }
def capB (r : GroupRef) (o : Option GroupRef) : State := (g base 6 (gaLM 0)).setEntry 0 0 (objE r o)
theorem witness_CapabilitiesOfferTakeQuery :
    (let s := g (capB me0 none) 7 (other0.setWidth 64);
      MayIssueAlone s [codeG 6, codeG 7] [codeG 5] ∧ s.holdingOperand (s.g 6) false true = .ok (0, (gaLM 0).toNat)
        ∧ s.objEntry 0 s.myCtx (gaLM 0).toNat = some (0, objE me0 none) ∧ s.me.resume = none ∧ s.refOf (s.g 7) = some other0
        ∧ s.g 7 ≠ BitVec.allOnes 64 ∧ s.meHolds (objE me0 none) = true ∧ other0 ≠ me0 ∧ s.releaseWait (s.scopeOf me0) = none
        ∧ (s.ctx s.myCtx).releaseCheck = false ∧ (s.die 0).capWait = [])
    ∧ (let s := capB other0 (some me0); MayIssueAlone s [codeG 6] [codeG 5]
      ∧ s.objEntry 0 s.myCtx (gaLM 0).toNat = some (0, objE other0 (some me0)) ∧ s.meHolds (objE other0 (some me0)) = false ∧ s.meIn me0 = true
      ∧ ∀ w ∈ (s.die 0).capWait, w.1 ≠ s.cur)
    ∧ (let x : Holder := ⟨0, gaLM 0, me0, true, false⟩; let s := core (capB me0 none) (fun c => { c with holders := [x] });
      quiet s = true ∧ (s.ctx s.myCtx).phys (gaCore (gaLM 0).toNat) = some 0 ∧ s.holderOf s.myCtx 0 (gaLM 0).toNat = some x) :=
  ⟨⟨alone (by decide +kernel) _ _, by decide +kernel⟩, ⟨alone (by decide +kernel) _ _, by decide +kernel⟩, by decide +kernel⟩
/-- Cells put into memory. -/
def inMem (s : State) (k : Nat) (bs : List Byte) : State := { s with mem := memSetAll s.mem (cellsOf k bs) }
/-- R295: one FP32 element, D at LM 0x200, X at LM 0x210, Y the scalar; and a record with SRM.CMPL. -/
def vrec : List Byte := puts (zeros 128)
  [(0, 2, 1), (2, 2, 1), (4, 2, 1), (0x20, 1, 1), (0x24, 4, 0x200), (0x38, 1, 1), (0x3C, 4, 0x210), (0x50, 1, 9)]
def vstate (r : List Byte) : State := inMem (g base 6 (gaLM 0xFF80)) (lm 0xFF80) r
def vcmd0 (r : List Byte) : VCmd := ⟨0, 1, r, 0xFF80, 0x3F800000, 0, 0, [[], [], [], []], [], false, false, false, 0, false, 0, 0, some ⟨0, 0, 0⟩⟩
theorem witness_VectorCommandsQueued :
    (let s := vstate vrec; (vectorForm (.vadd false 6 7)).isSome ∧ MayIssueAlone s [codeG 6, codeG 7] []
      ∧ s.ownRecord (s.g 6) 16 128 = .ok 0xFF80 ∧ s.bytes (s.ownKey spLM 0xFF80) 128 = vrec ∧ s.vCheck 1 vrec = none
      ∧ s.myCore.vec = [] ∧ s.me.outstanding < 4)
    ∧ (let s := core (vstate vrec) (fun c => { c with vec := List.replicate 4 (vcmd0 vrec) });
      quiet s = true ∧ s.vCheck 1 vrec = none ∧ 4 ≤ (s.myCore.vec.filter (fun v => v.slot == s.cur.slot)).length)
    ∧ (let s := vstate (put vrec 0x3C 4 0xFFFE); quiet s = true ∧ (s.vCheck 1 (put vrec 0x3C 4 0xFFFE)).isSome)
    ∧ (let s := core base (fun c => { c with vec := [{ vcmd0 vrec with slot := 7 }] }); MayIssueAlone s [] [codeG 5]
      ∧ ∀ v ∈ s.myCore.vec, v.slot ≠ s.cur.slot) :=
  ⟨⟨rfl, alone (by decide +kernel) _ _, by decide +kernel⟩, by decide +kernel, by decide +kernel, ⟨alone (by decide +kernel) _ _, by decide +kernel⟩⟩
/-- R209: extents 1 by 1 by 1, pitches 16, block stride 1. -/
def tens : State := arch base (fun r => { r with txm := 1, txn := 1, txk := 1, tc := w64 (16 + 16 * 2 ^ 32 + 2 ^ 48) })
theorem witness_TensorCommandsAccepted :
    (∀ x ∈ [(Instr.mmI8P H 2 3 6 4 none), .mzero false, .mcks H false, .mrel H 2 3 false true, .moutl false 2 3],
      (tensShape tens x).isSome = true)
    ∧ MayIssueAlone tens [codeG 2, codeG 3, codeF 6, codeF 7] [] ∧ (∀ k, tens.me.task = some k → k.trailing = false)
    ∧ (tens.tensFull tens.cur = false ∧ (tens.me.fifoOf 3).ops = []
      ∧ (tens.tensCmd tens.cur 1 4 0 0 6 none false).reason none false = 0
      ∧ (tens.tensCmd tens.cur 7 0 0 0 0 none false).reason none false = 0
      ∧ (tens.tensCmd tens.cur 1 4 0 0 6 (some 1) false).reason (some 0xFFFE) false = 0
      ∧ (base.tensCmd base.cur 1 4 0 0 6 none false).reason none false ≠ 0)
    ∧ MayIssue base [codeG 5] [] ∧ MayIssue base [] [] ∧ MayIssue base [codeG 5] [codeK 1]
    ∧ (MayIssueAlone base [] [] ∧ (∀ c ∈ base.myCore.tens, c.slot ≠ base.cur.slot) ∧ (base.me.fifoOf 3).ops = [])
    ∧ (let s := core base (fun c => { c with tens := [tens.tensCmd tens.cur 7 0 0 0 0 none false] });
      MayIssueAlone s [] [] ∧ ∃ c ∈ s.myCore.tens, c.slot = s.cur.slot) := by
  refine ⟨by decide +kernel, alone (by decide +kernel) _ _, ?_, by decide +kernel, may (by decide +kernel) _ _, may (by decide +kernel) _ _,
    may (by decide +kernel) _ _, ⟨alone (by decide +kernel) _ _, by decide +kernel⟩, ⟨alone (by decide +kernel) _ _, by decide +kernel⟩⟩
  intro k h
  have : tens.me.task = some task0 := by decide +kernel
  rw [this] at h; cases h; rfl
/-- R338: one row of 8 bytes from LM 0x100 to BM 0x5000. -/
def copyRec : List Byte := puts (zeros 64) [(0, 8, 2 ^ 41 + 0x100), (8, 8, 0x5000), (16, 4, 8), (20, 4, 1)]
/-- R342: 8 bytes from BM 0x5000 to LM 0x100. -/
def getrRec : List Byte := puts (zeros 32) [(0, 8, 0x5000), (8, 8, 2 ^ 41 + 0x100), (16, 4, 8)]
def msg1 : InMsg := ⟨0, ⟨0x12, 2, 3, 4⟩, true⟩
theorem witness_EngineOperationsAndInbox :
    (let s := inMem (g base 5 (gaLM 0x40)) (lm 0x40) copyRec; MayIssueAlone s [codeG 5, codeG 6] []
      ∧ s.ownRecord (s.g 5) 64 64 = .ok 0x40 ∧ fieldTrap (copyFields (s.bytes (s.ownKey spLM 0x40) 64)) = none ∧ s.me.outstanding < 4)
    ∧ (fieldTrap (copyFields (put copyRec 20 4 0))).isSome
    ∧ (let s := inMem (g base 5 (gaLM 0x40)) (lm 0x40) getrRec; MayIssueAlone s [codeG 5, codeG 6] []
      ∧ s.ownRecord (s.g 5) 32 32 = .ok 0x40 ∧ fieldTrap (s.getrFields (s.bytes (s.ownKey spLM 0x40) 32)) = none
      ∧ gaPkg (dSRC getrRec) = s.pkg.toNat ∧ (fieldTrap (s.getrFields (put getrRec 16 4 0))).isSome)
    ∧ (let s := g base 5 0xFFC0; MayIssueAlone s [codeG 5] [] ∧ (s.g 5).toNat % 64 = 0 ∧ (s.g 5).toNat + 64 ≤ 65536
      ∧ (s.die 0).jig.length < 64)
    ∧ ((g base 5 0xFFC1).g 5).toNat % 64 ≠ 0 ∧ 65536 < ((g base 5 0x10000).g 5).toNat + 64
    ∧ (let s := g (core base (fun c => { c with inbox := [msg1] })) 6 (gaLM 0xFFE0); MayIssueAlone s [codeG 6] [codeG 5]
      ∧ s.ownTarget (s.g 6) 32 32 = .ok 0xFFE0 ∧ memWf s.mem = true
      ∧ s.myCore.inbox.find? (fun x => x.slot == s.cur.slot) = some msg1 ∧ wbits msg1.msg.w0 7 0 ≠ 0 ∧ s.myCore.niWait = [])
    ∧ (let e : InMsg := ⟨0, ⟨0, 0, 0, 0⟩, false⟩; let s := core base (fun c => { c with inbox := [e] }); MayIssueAlone s [] [codeG 5]
      ∧ s.myCore.inbox.find? (fun x => x.slot == s.cur.slot) = some e ∧ wbits e.msg.w0 7 0 = 0)
    ∧ (MayIssueAlone base [] [codeG 5] ∧ ∀ x ∈ base.myCore.inbox, x.slot ≠ base.cur.slot) :=
  ⟨⟨alone (by decide +kernel) _ _, by decide +kernel⟩, by decide +kernel, ⟨alone (by decide +kernel) _ _, by decide +kernel⟩,
    ⟨alone (by decide +kernel) _ _, by decide +kernel⟩, by decide +kernel, by decide +kernel,
    ⟨alone (by decide +kernel) _ _, by decide +kernel⟩, ⟨alone (by decide +kernel) _ _, by decide +kernel⟩,
    ⟨alone (by decide +kernel) _ _, by decide +kernel⟩⟩
/-- R340: 4 bytes from LM 0x100 to BM 0x5000, the signal at BM 0x6000. -/
def putsgRec (dst sig : Nat) : List Byte := puts (zeros 32) [(0, 8, 2 ^ 41 + 0x100), (8, 8, dst), (16, 4, 4), (24, 8, sig)]
/-- R46: a valid group of BF16 or FP32 elements in pairs; DGEQ, two children at ports 1 and 2, own contribution of one signal. -/
def grp (cfg : GroupCfg) : State := { base with groups := [(255, { Group.reset with cfg := cfg })] }
theorem witness_DigestsAndSignalledPut_dgst :
    let s := g base 5 (gaSY 2); MayIssueAlone s [codeG 5, codeG 6] [] ∧ memWf s.mem = true ∧ s.syncOperand (s.g 5) = .ok (some v2) :=
  ⟨alone (by decide +kernel) _ _, by decide +kernel⟩
theorem witness_DigestsAndSignalledPut_putsg :
    (let r := putsgRec 0x5000 0x6000; let s := inMem (g base 5 (gaLM 0x40)) (lm 0x40) r;
      MayIssueAlone s [codeG 5, codeG 6] [] ∧ s.ownRecord (s.g 5) 32 32 = .ok 0x40 ∧ s.bytes (s.ownKey spLM 0x40) 32 = r
      ∧ (∀ f ∈ s.putsgFields r, f.2 = true) ∧ s.agentRead 0 (field r 0 8) (field r 16 4) = .ok [0, 0, 0, 0]
      ∧ boundsFault 0x5000 4 = none ∧ boundsFault 0x6000 8 = none ∧ gaPkg 0x5000 = s.pkg.toNat
      ∧ s.coordOk 0 0x5000 = true ∧ s.coordOk 0 0x6000 = true ∧ s.fencedAt 0 0x5000 = false ∧ s.fencedAt 0 0x6000 = false
      ∧ s.lostWrite s.me.cover = none ∧ s.coverFar = false ∧ (s.ctx 0).releaseCheck = false ∧ (s.ctx 0).flooded = false
      ∧ isWindow 0x5000 = false ∧ s.unitWrites = [] ∧ s.signals = []
      ∧ s.agentKeys 0 0x5000 true 0 4 = .ok (upFrom (bm 0x5000) 4) ∧ s.myAgent.check = none)
    ∧ (let r := putsgRec (2 ^ 56 + 0x5000) (2 ^ 56 + 0x6000); let s := inMem (g (ctx base (fun c => { c with reach := 2 })) 5 (gaLM 0x40)) (lm 0x40) r;
      quiet s = true ∧ (∀ f ∈ s.putsgFields r, f.2 = true) ∧ s.coordOk 0 (2 ^ 56 + 0x5000) = true ∧ s.coordOk 0 (2 ^ 56 + 0x6000) = true
      ∧ gaPkg (2 ^ 56 + 0x5000) ≠ s.pkg.toNat ∧ s.flowFailed 1 0 = false ∧ s.flowOpen 1 0 = true)
    ∧ (let e : LateSignal := ⟨4, .engine 0 0 kPUTSG, base.myAgent, 1, 0x6000, 5, []⟩; let s : State := { base with signals := [e] };
      s.signals = [e] ∧ s.homeWrites = [] ∧ s.unitWrites = [] ∧ s.landing e.owner = false ∧ isWindow e.sig = false ∧ e.sop ≤ 1
        ∧ gaPkg e.sig = s.pkg.toNat ∧ gaSpace e.sig ≠ 6 ∧ e.agent.check = none ∧ (s.ctx e.agent.ctx).flooded = false ∧ s.agentKeys e.agent.ctx e.sig true 0 8 = .ok (upFrom (bm 0x6000) 8)
        ∧ (upFrom (bm 0x6000) 8).Nodup ∧ memWf s.mem = true) :=
  ⟨⟨alone (by decide +kernel) _ _, by decide +kernel⟩, by decide +kernel, by decide +kernel⟩
def cfgD : GroupCfg := BitVec.ofNat 256 (1 + 8 + 128 + 2 ^ 17 + 2 ^ 32 + 2 ^ 40)
theorem witness_DigestsAndSignalledPut_dgx :
    (let s := g (g (grp cfgD) 6 (gaSY 2)) 7 255; MayIssueAlone s [codeG 6, codeG 7] [codeG 5] ∧ (s.g 7).toNat < 256
      ∧ s.syncVar (s.g 6) = .ok v2
      ∧ (let g := s.group 255; (gVALID g.cfg = true ∧ gOk g.cfg = true ∧ gDgeq g.cfg = true ∧ gOWN g.cfg = true ∧ gOWNCNT g.cfg = 1)
        ∧ g.cur.ownDone = false ∧ g.cur.kids = [] ∧ gKids g.cfg ≠ [] ∧ s.childLost g.cfg = false ∧ memWf s.mem = true))
    ∧ gVALID ((grp 0).group 255).cfg = false
    ∧ (let r := { RedStep.empty with ownDone := true };
      let s := { base with groups := [(255, { Group.reset with cfg := cfgD, cur := r, nxt := r })] };
      (s.group 255).cur.ownDone = true ∧ (s.group 255).nxt.ownDone = true ∧ gVALID (s.group 255).cfg = true)
    ∧ (MayIssueAlone (g base 7 256) [codeG 6, codeG 7] [codeG 5] ∧ 256 ≤ ((g base 7 256).g 7).toNat) :=
  ⟨⟨alone (by decide +kernel) _ _, by decide +kernel⟩, by decide +kernel, by decide +kernel, ⟨alone (by decide +kernel) _ _, by decide +kernel⟩⟩

-- event steps

def isl (v : Island) : State := { base with islands := [(0, v)] }
def okR : Sensors := ⟨Vector.replicate 520 99999, Vector.replicate 520 750, 54000, 3200, 45000, 60000, 3000⟩
theorem witness_ClocksPowerAndDieFaults_clocks :
    (519 < 520 ∧ 12 ≤ 13 ∧ 12 ≤ (base.island 519).ceiling ∧ 12 ≠ (base.island 519).step ∧ (base.island 519).relock = none
      ∧ (base.island 519).hot = false)
    ∧ ((∀ e ∈ base.cores, islandOf e.1 = 0 → e.2.cyc.toNat % 8 = 0)
      ∧ (let s := core base (fun c => { c with cyc := 9 });
        ∃ e ∈ s.cores, islandOf e.1 = 0 ∧ e.2.cyc.toNat % 8 ≠ 0 ∧ s.clocked e.1 = true))
    ∧ (let s := isl { Island.reset with relock := some (12, none) }; (s.island 0).relock = some (12, none)
      ∧ ∀ e ∈ s.cores, islandOf e.1 = 0 → e.2.cyc.toNat % 8 = 0)
    ∧ (let s := isl { Island.reset with relock := some (12, some 900) }; (s.island 0).relock = some (12, some 900) ∧ 900 ≤ s.now
      ∧ (s.cores.map Prod.fst).Nodup)
    ∧ (let s := isl { Island.reset with hot := true }; (s.island 0).hot = true ∧ 99999 < 100000 ∧ 117999 < 118000 ∧ 0 < (s.island 0).step
      ∧ (s.island 0).relock = none ∧ (s.island 0).lastStep = none) := by decide +kernel
theorem witness_ClocksPowerAndDieFaults_power :
    (3200 < (3201 : BitVec 32).toNat ∧ (47999 : BitVec 32).toNat < 48000)
    ∧ (1200 ≤ 1200 ∧ 1200 ≤ 3200 ∧ 1200 % 25 = 0) ∧ 3200 ≤ base.hf.powerCap
    ∧ (let s : State := { base with now := 13000 }; s.hf.powerCap < 3201 ∧ 0 < (s.island 519).step ∧ (s.island 519).relock = none
      ∧ (s.island 519).lastStep = none)
    ∧ (let s : State := { base with now := 130000 }; s.hf.sampled < (s.now - s.hf.hftBase) / 130000 ∧ (0x11, 0) ∉ s.hf.outside
      ∧ ¬ base.hf.sampled < (base.now - base.hf.hftBase) / 130000)
    ∧ (let r := { okR with hot := okR.hot.set 0 105000 }; (r.hot[0]?).getD 0 = 105000 ∧ (base.island 0).hot = false
      ∧ (48000 ≤ okR.milliVolt ∧ okR.milliVolt ≤ 58000 ∧ okR.watt ≤ 3200 ∧ okR.inlet ≤ 45000)
      ∧ { okR with flow := 2999 }.flow < 3000) := by decide +kernel
/-- Every island at step 0. -/
def slow : State := { base with islands := (upFrom 0 520).map (fun i => (i, { Island.reset with step := 0 })) }
theorem tfind_upFrom (v : Island) (n a j : Nat) (h : a ≤ j ∧ j < a + n) :
    tfind ((upFrom a n).map (fun i => (i, v))) j = some v := by
  induction n generalizing a with
  | zero => omega
  | succ n ih =>
    simp only [upFrom, List.map_cons, tfind]
    split
    · rfl
    · exact ih (a + 1) (by omega)
theorem witness_ClocksPowerAndDieFaults_slow : slow.hf.powerCap < 3201 ∧ ∀ j, j < 520 → (slow.island j).step = 0 := by
  refine ⟨by decide, fun j h => ?_⟩
  have : tfind slow.islands j = some { Island.reset with step := 0 } := tfind_upFrom _ 520 0 j (by omega)
  simp [State.island, tget, this]
theorem witness_Nominal : Nominal okR ∧ ∀ n ∈ okR.hot.toList, n < 100000 := by
  refine ⟨⟨?_, ?_, ?_, ?_, ?_⟩, ?_⟩ <;> decide +kernel
theorem witness_ClocksPowerAndDieFaults_dies :
    (3 < 4 ∧ (base.die 3).fenced = false)
    ∧ (let s : State := { base with electAt := some 5, dies := [(0, { Die.reset with fenced := true })] };
      s.electAt.isSome = true ∧ (s.die 1).fenced = false ∧ ∀ e, e < 1 → (s.die e).fenced = true)
    ∧ ((3, 4) ∈ [(0, 1), (2, 3), (0, 2), (1, 3), (0, 4), (1, 4), (2, 4), (3, 4)] ∧ (3, 4) ∉ base.narrow) := by decide +kernel
def portB (p : Port) : State := { base with ports := [(15, p)] }
def upP : Port := { Port.reset with up := true }
/-- A flit of a one-flit packet: sequence number 0, HEAD and TAIL, with its CRC as the sender writes it. -/
def flitF (d : Nat) : Flit := mkFlit 0 false 0 true true (puts (zeros 64) [(3, 1, d)])
theorem witness_LinksCarryFlits_lanes :
    ((portB upP).port 15).up = true ∧ ((portB upP).port 15).lanes = 8 ∧ 7 ∉ ((portB upP).port 15).badLanes ∧ (8, 4) ∈ [(8, 4), (4, 2)]
    ∧ ((portB { upP with lanes := 2 }).port 15).lanes = 2
    ∧ (let s := portB { upP with lanes := 4, training := true }; (s.port 15).training = true ∧ 4 ∈ [8, 4, 2] ∧ 4 ≤ (s.port 15).lanes
      ∧ 4 ≤ sound s 15 ∧ ∀ v ∈ [8, 4, 2], v ≤ (s.port 15).lanes → v ≤ sound s 15 → v ≤ 4)
    ∧ (let s : State := { portB upP with flowsOut := [(4 * 1 + 3, FlowSrc.reset)], routes := [(8, (15, true))] };
      tfind s.flowsOut (4 * 1 + 3) = some FlowSrc.reset ∧ (s.route 1 0).1.toNat = 15 ∧ (s.route 1 0).2 = true ∧ FlowSrc.reset.failed = false) := by
  decide +kernel
/-- R27: the sender's CRC holds. -/
theorem flitOk_mkFlit (q : BitVec 8) (ctl : Bool) (vc : Nat) (hd tl : Bool) (body : List Byte) :
    flitOk (mkFlit q ctl vc hd tl body) = true := by
  simp only [flitOk, mkFlit, flitCrc, beq_iff_eq]
  generalize hl : 8 * tl.toNat + 16 * hd.toNat + 32 * (vc % 4) + 128 * ctl.toNat = lo
  have hlo : lo < 256 := by cases tl <;> cases hd <;> cases ctl <;> simp at hl <;> omega
  generalize hc : crc16 (q :: BitVec.ofNat 8 lo :: body) = crc
  have h1 := q.isLt
  have h2 := crc.isLt
  have e1 : (BitVec.ofNat 32 (crc.toNat * 65536 + q.toNat * 256 + lo)).extractLsb' 8 8 = q := by
    apply BitVec.eq_of_toNat_eq; simp [BitVec.extractLsb'_toNat, Nat.shiftRight_eq_div_pow]; omega
  have e2 : (BitVec.ofNat 32 (crc.toNat * 65536 + q.toNat * 256 + lo)).extractLsb' 0 8 = BitVec.ofNat 8 lo := by
    apply BitVec.eq_of_toNat_eq; simp [BitVec.extractLsb'_toNat]; omega
  rw [e1, e2, hc]
  simp [bits]; omega
theorem witness_LinksCarryFlits_flits :
    ((portB upP).port 15).up = true
    ∧ flitOk ⟨0, []⟩ = false
    ∧ flitOk (mkFlit 255 false 0 true true []) = true ∧ flitOk (mkFlit 1 false 0 true true []) = true
    ∧ (flitSeq (mkFlit 1 false 0 true true []) ≠ ((portB upP).port 15).rxSeq
      ∧ 128 ≤ (flitSeq (mkFlit 255 false 0 true true []) - ((portB upP).port 15).rxSeq).toNat
      ∧ ¬ 128 ≤ (flitSeq (mkFlit 1 false 0 true true []) - ((portB upP).port 15).rxSeq).toNat)
    ∧ flitOk (flitF 3) = true ∧ (let f := flitF 3; flitCtl f = false ∧ flitSeq f = ((portB upP).port 15).rxSeq ∧ flitHead f = true
      ∧ flitTail f = true ∧ (pktParse (f.body.take 32) (f.body.drop 32) []).dst ≠ base.pkg)
    ∧ (let f := mkFlit 0 false 0 true true (puts (zeros 64) [(0, 1, 0x12)]); flitTail f = true
      ∧ (pktParse (f.body.take 32) (f.body.drop 32) []).dst = base.pkg
      ∧ (packetEvent 15 (pktParse (f.body.take 32) (f.body.drop 32) [])).isSome) :=
  ⟨by decide +kernel, by decide +kernel, flitOk_mkFlit _ _ _ _ _ _, flitOk_mkFlit _ _ _ _ _ _, by decide +kernel,
    flitOk_mkFlit _ _ _ _ _ _, by decide +kernel, by decide +kernel⟩
/-- A packet to package 0 from package 1, made whole by its flit count and its check. -/
def pkt (typ : BitVec 8) (f : Packet → Packet) : Packet :=
  pktSeal (f ⟨typ, 0, 0, 1, 0, 0, 0, 0, 0, 0, 0, 0, 0, 0, 0, 0, zeros 32, []⟩)
/-- R29: ECRC covers all but itself, so that a sealed packet checks. -/
theorem sealed_checks (p : Packet) : pktCheck (pktSeal p) = (pktSeal p).ecrc := by
  simp [pktSeal, pktCheck, pktHeader, pktData, toBytes]
theorem witness_LinksCarryFlits_rest :
    (let f := flitF 3; let s := portB { upP with replay := [(4, f), (5, f)] }; (s.port 15).up = true
      ∧ (s.port 15).replay = [(4, f)] ++ (5, f) :: [] ∧ (∀ e ∈ [((4 : BitVec 8), f)], e.1 ≠ 5))
    ∧ (let f := flitF 3; let s := portB { upP with replay := [(5, f)], fails := 7 };
      (s.port 15).replay = [] ++ (5, f) :: [] ∧ 7 ≤ (s.port 15).fails)
    ∧ (let k := pkt 1 (fun p => { p with dst := 7, hops := 16 }); k.dst ≠ base.pkg ∧ k.hops.toNat = 16)
    ∧ (let k := pkt 1 (fun p => { p with dst := 7, hops := 15 });
      let s : State := { portB { upP with training := true } with routes := [(56, (15, true))] };
      k.hops.toNat ≠ 16 ∧ s.route k.dst.toNat k.rsel.toNat = (15, true) ∧ (s.port 15).up = true ∧ (s.port 15).training = true)
    ∧ (let x : Transit := ⟨pkt 1 id, 15, 0, some 7⟩; let s : State := { base with transit := [x], now := 2600 };
      s.transit[0]? = some x ∧ x.since + 2600 ≤ s.now)
    ∧ (let k := pkt 1 (fun p => { p with dst := 7 }); let s : State := { base with arrivals := [(k, 15, 0)], now := 2600 };
      s.transit.length ≤ 0 ∧ s.arrivals[0 - s.transit.length]? = some (k, 15, 0) ∧ k.dst ≠ s.pkg ∧ 0 + 2600 ≤ s.now) ∧ 6 < 7 := by decide +kernel
/-- What InOrder asks for beside the check of a sealed packet. -/
def orderly (s : State) (p : Packet) (typ : Nat) : Bool :=
  let f := s.flowIn p.src.toNat p.cls.toNat
  p.typ.toNat == typ && p.dst == s.pkg && decide ((p.gen - f.rgen).toNat < 128) && p.seq == f.rnext && f.above.isEmpty
    && decide (f.unacked < 31) && s.unitWrites.isEmpty && s.signals.isEmpty
def whole (p : Packet) : Bool :=
  (packetEvent 0 p).isSome && p.len.toNat == pktFlits p && pktFlits p == expectFlits p && !badOpc p && !badLength p
theorem whole_ok {typ : BitVec 8} {f : Packet → Packet} (h : whole (pkt typ f) = true) : malformed (pkt typ f) = false := by
  simp only [whole, Bool.and_eq_true, beq_iff_eq, Bool.not_eq_true'] at h
  obtain ⟨⟨⟨⟨h1, h2⟩, h3⟩, h4⟩, h5⟩ := h
  have hc : pktCheck (pkt typ f) = (pkt typ f).ecrc := sealed_checks _
  simp [malformed, h1, h2, h3, h4, h5, hc]
theorem orderly_ok {s : State} {typ : BitVec 8} {f : Packet → Packet} {n : Nat} (h : orderly s (pkt typ f) n = true)
    (w : whole (pkt typ f) = true) : InOrder s (pkt typ f) n := by
  simp only [orderly, Bool.and_eq_true, decide_eq_true_eq, beq_iff_eq, List.isEmpty_iff] at h
  obtain ⟨⟨⟨⟨⟨⟨⟨h1, h2⟩, h4⟩, h5⟩, h6⟩, h7⟩, h8⟩, h9⟩ := h
  exact ⟨h1, h2, whole_ok w, h4, h5, h6, h7, by simp [h8], by simp [h9]⟩
theorem plain_ok (m : List Byte) (h : ((w64 (fromBytes (m.take 8))).getLsbD 63 || (w64 (fromBytes (m.take 8))).getLsbD 61) = false) :
    PlainMark m := by
  simpa [PlainMark, Bool.or_eq_false_iff] using h
def pPut : Packet := pkt 1 (fun p => { p with addr := gaBM 0x5000, aux := 16, data := zeros 64 })
def pPutsg : Packet := pkt 2 (fun p => { p with addr := gaBM 0x5000, aux := 4, data := zeros 64, inl := put (zeros 32) 0 8 0x6000 })
def pGet : Packet := pkt 3 (fun p => { p with addr := gaBM 0x5000, aux := 8 })
def pAt (t : BitVec 8) : Packet := pkt t (fun p => { p with addr := gaBM 0x5000 })
theorem witness_RequestPacketsPerformed :
    (InOrder base pPut 1 ∧ PlainMark (pPut.inl.drop 24) ∧ base.ctxOf pPut = some 0 ∧ (base.ctx 0).flooded = false
      ∧ base.agentKeys 0 0x5000 true 0 16 = .ok (upFrom (bm 0x5000) 16) ∧ (pktBytes pPut 16).length = 16)
    ∧ (InOrder base pPutsg 2 ∧ PlainMark (pPutsg.inl.drop 17) ∧ (pktBytes pPutsg 4).length = 4)
    ∧ (let s := ctx base (fun c => { c with flooded := true }); s.ctxOf pPut = some 0 ∧ (s.ctx 0).flooded = true
      ∧ ∀ t ∈ [(pPut, 1), (pPutsg, 2), (pGet, 3)], orderly s t.1 t.2 = true ∧ whole t.1 = true)
    ∧ (InOrder base pGet 3 ∧ (pGet.inl[0]?).getD 0 = 0 ∧ base.agentRead 0 0x5000 8 = .ok (zeros 8))
    ∧ ((∀ t ∈ [(4 : BitVec 8), 5, 6, 7, 8], orderly base (pAt t) t.toNat = true ∧ whole (pAt t) = true) ∧ RemoteTarget base (pAt 4) 0 (bm 0x5000)) := by
  refine ⟨⟨orderly_ok (by decide +kernel) (by decide +kernel), plain_ok _ (by decide +kernel), by decide +kernel⟩, ⟨orderly_ok (by decide +kernel) (by decide +kernel),
    plain_ok _ (by decide +kernel), by decide +kernel⟩, by decide +kernel, ⟨orderly_ok (by decide +kernel) (by decide +kernel), by decide +kernel⟩, by decide +kernel,
    by decide +kernel, by decide +kernel, by decide +kernel, by decide +kernel, ⟨none, by decide +kernel, by simp⟩, by decide +kernel,
    plain_ok _ (by decide +kernel), by decide +kernel⟩
def heldOf (t : BitVec 8) (who : Option (SlotId × Nat)) : Held :=
  ⟨pkt t (fun p => { p with src := 0, dst := 1, cls := 1, cslot := 5 }), 0, false, none, who, 0⟩
def outB (f : FlowSrc) (cls : Nat) : State := { base with flowsOut := [(4 + cls, f)] }
def pRsp : Packet := pkt 0x10 (fun p => { p with cls := 3, cslot := 5 })
theorem witness_ResponsesAndAcknowledgements :
    (let r := { ret5 with value := none, due := none, remote := some (1, 5) }; let h := heldOf 3 (some (⟨0, 0⟩, 5));
      let s := slot (outB { FlowSrc.reset with held := [h] } 1) (fun m => { m with returns := [r] });
      InOrder s pRsp 0x10 ∧ ((s.flowOut 1 0).held = [] ∧ s.lnchWaits = [] ∧ (h.p.inl[0]?).getD 0 = 0
        ∧ (s.flowOut 1 1).held.find? (fun x => isReturning x.p && x.p.cslot == pRsp.cslot && x.p.seq.toNat == pRsp.aux.toNat) = some h
        ∧ h.who = some (⟨0, 0⟩, 5) ∧ (pRsp.inl[8]?).getD 0 = 0 ∧ h.p.typ.toNat = 3
        ∧ (s.slot ⟨0, 0⟩).returns.find? (fun r => r.remote == some (1, 5)) = some r))
    ∧ (let h := heldOf 4 (some (⟨0, 0⟩, 5)); let s := slot (outB { FlowSrc.reset with held := [h] } 1) (fun m => { m with sent := true });
      orderly s pRsp 0x10 = true ∧ whole pRsp = true ∧ h.p.typ.toNat = 4 ∧ (s.slot ⟨0, 0⟩).sent = true ∧ s.away 0 h.ctx = false)
    ∧ (let p := pkt 0x11 (fun p => { p with aux := 3 }); p.typ.toNat = 0x11 ∧ p.dst = base.pkg ∧ whole p = true
      ∧ (base.flowOut 1 0).failed = false ∧ (base.flowOut 1 0).stalled = [] ∧ p.aux.getLsbD 31 = false)
    ∧ (let p := pkt 0x11 (fun p => { p with aux := 0x80000003 }); whole p = true ∧ p.aux.getLsbD 31 = true)
    ∧ (let p := pkt 0x12 (fun p => { p with floor := 9 }); p.typ.toNat = 0x12 ∧ p.dst = base.pkg ∧ whole p = true) :=
  ⟨⟨orderly_ok (by decide +kernel) (by decide +kernel), by decide +kernel⟩, by decide +kernel, by decide +kernel, by decide +kernel, by decide +kernel⟩
/-- R44: an offer of tasks 0 and 1 of the record from package 1, launch number 77 there, whose KCB is read there. -/
def recFar : List Byte := puts rec0 [(15, 1, 1)]
def pLnch : Packet := pkt 0x20 (fun p => { p with data := recFar, inl := puts (zeros 32) [(8, 8, 2), (16, 4, 77)] })
def kcbRead : LnchWait := ⟨pLnch, 0, cellsOf (2 ^ 56 + 0x1000) kcb0, [], []⟩
theorem witness_LaunchAndReductionPackets_lnch :
    (InOrder base pLnch 0x20 ∧ base.ctxOf pLnch = some 0 ∧ kcbPlaced (pLnch.data.take 256) pLnch.src.toNat = true
      ∧ gaPkg (field (pLnch.data.take 256) 8 8) ≠ base.pkg.toNat
      ∧ (let s := ctx base (fun c => { c with reach := 2 }); s.coordOk 0 (field (pLnch.data.take 256) 8 8) = true) ∧ base.flowFailed pLnch.src.toNat 1 = false ∧ base.lnchWaits = []
      ∧ tget base.retSlots [] pLnch.src.toNat = [] ∧ field (pLnch.data.take 256) 0x90 8 = 0)
    ∧ (let k := recordCheck (base.lnchRead kcbRead) 1 recFar; pLnch.data.take 256 = recFar ∧ (base.ctx 0).started = true
      ∧ (base.ctx 0).flooded = false ∧ k.bad = none ∧ field k.kcb 8 4 ≤ 4 ∧ (base.ctx 0).launches.length < 256
      ∧ field recFar 0x88 4 = 0 ∧ base.dealCores 0 ≠ [] ∧ fitsIdle k.kcb = true ∧ field pLnch.inl 8 8 ≠ 0) :=
  ⟨⟨orderly_ok (by decide +kernel) (by decide +kernel), by decide +kernel⟩, by decide +kernel⟩
def tgt : Target := ⟨1, 0, 2, none, 0, 0, none⟩
def tgts (ts : List Target) : Launch := { launch0 with targets := ts }
def pRrpt : Packet := pkt 0x21 (fun p => { p with inl := puts (zeros 32) [(0, 4, 16 * 2 ^ 14), (16, 8, 2)] })
theorem witness_LaunchAndReductionPackets_rrpt :
    (let x := { tgt with accepted := some 2 }; let s := ctx base (fun c => { c with launches := [(0, tgts [x])] });
      InOrder s pRrpt 0x21 ∧ s.launch 0 0 = some (tgts [x]) ∧ field pRrpt.inl 4 2 < 0x100 ∧ (tgts [x]).remoteFrom = none
        ∧ (tgts [x]).lid 0 (field pRrpt.inl 0 4 % 256) = field pRrpt.inl 0 4 ∧ field pRrpt.inl 0 4 / 256 % 16 = 0
        ∧ [x].find? (fun x => x.pkg == pRrpt.src.toNat && x.first == field pRrpt.inl 8 8 && !(x.accepted == some 0)) = some x
        ∧ x.accepted.isSome = true)
    ∧ (let y := { tgt with pkg := 2 }; [tgt, y].find? (fun x => x.pkg == pRrpt.src.toNat && x.first == field pRrpt.inl 8 8 && !(x.accepted == some 0)) = some tgt
      ∧ tgt.accepted = none ∧ (y.pkg == pRrpt.src.toNat && y.first == field pRrpt.inl 8 8) = false ∧ y.accepted = none) :=
  ⟨⟨orderly_ok (by decide +kernel) (by decide +kernel), by decide +kernel⟩, by decide +kernel⟩
/-- R46: a group of 4 FP32 sums, not the root, own contribution, a child at port 15, results at BM 0x7000, signal at BM 0x7100. -/
def cfgS : GroupCfg := BitVec.ofNat 256
  (1 + 128 + 2 ^ 31 + 2 ^ 32 + 4 * 2 ^ 40 + 65535 * 2 ^ 64 + 0x7000 * 2 ^ 128 + 0x7100 * 2 ^ 192)
def pRed (t : BitVec 8) : Packet := pkt t (fun p => { p with aux := BitVec.ofNat 32 (255 + 65535 * 2 ^ 8), data := zeros 64 })
theorem witness_LaunchAndReductionPackets_reduction :
    (let s := grp cfgS; let g := s.group 255; InOrder s (pRed 0x30) 0x30
      ∧ (gVALID g.cfg = true ∧ gOk g.cfg = true ∧ 15 ∈ gKids g.cfg ∧ bits (pRed 0x30).aux.toNat 23 8 = gSTEP g.cfg ∧ g.cur.kids = [] ∧ s.childLost g.cfg = false
        ∧ gOWN g.cfg = true ∧ g.cur.ownDone = false))
    ∧ (let s := grp cfgS; let g := s.group 255; let p := pRed 0x31; InOrder s p 0x31
      ∧ (gROOT g.cfg = false ∧ bits p.aux.toNat 23 8 = gSTEP g.cfg ∧ (fromBytes (p.inl.take 8)) / 2 ^ 31 % 2 = 0 ∧ p.addr = 0
        ∧ gELEMS g.cfg * gResSize g.cfg = 16 ∧ p.data.length = 64 ∧ g.nxt = RedStep.empty ∧ bits p.aux.toNat 24 24 = 0
        ∧ ((s.ctxs.find? (fun e => e.2.dctx == p.dctx)).map Prod.fst) = some 0
        ∧ s.agentKeys 0 (gRESADDR g.cfg) true 0 16 = .ok (upFrom (bm 0x7000) 16)
        ∧ s.agentKeys 0 (gSIGADDR g.cfg) true 0 8 = .ok (upFrom (bm 0x7100) 8)))
    ∧ (let s : State := { base with groups := [(255, { Group.reset with cfg := cfgS, cur := { RedStep.empty with started := true } })], now := 13000000 };
      (s.group 255).cur.started = true ∧ (s.group 255).cur.sentUp = false ∧ redComplete cfgS (s.group 255).cur = false
        ∧ s.redto ≤ s.now - (s.group 255).cur.since ∧ (s.group 255).nxt = RedStep.empty) :=
  ⟨⟨orderly_ok (by decide +kernel) (by decide +kernel), by decide +kernel⟩,
    ⟨orderly_ok (by decide +kernel) (by decide +kernel), by decide +kernel⟩, by decide +kernel⟩
theorem witness_FlowTimersAndReplay :
    (let s : State := { base with flowsIn := [(1023, { FlowDst.reset with unacked := 1 })] }; 255 < 256 ∧ 3 < 4 ∧ (s.flowIn 255 3).unacked ≠ 0 ∧ s.unitWrites = [] ∧ s.signals = [])
    ∧ (let s : State := { outB { FlowSrc.reset with floor := 5 } 0 with now := 10400 };
      (s.flowOut 1 0).failed = false ∧ (s.flowOut 1 0).floor ≠ (s.flowOut 1 0).floorSent ∧ (s.flowOut 1 0).lastSent + 10400 ≤ s.now)
    ∧ (let h := heldOf 1 none; let s : State := { outB { FlowSrc.reset with held := [h] } 0 with now := 26000 };
      (s.flowOut 1 0).failed = false ∧ (s.flowOut 1 0).wanted = none ∧ (s.flowOut 1 0).held = [h] ∧ h.sentAt + 26000 ≤ s.now)
    ∧ (let s := outB { FlowSrc.reset with wanted := some 1000, noProg := 7 } 0;
      (s.flowOut 1 0).wanted = some 1000 ∧ 1000 ≤ s.now ∧ (s.flowOut 1 0).noProg ≠ 8)
    ∧ (let s := outB { FlowSrc.reset with wanted := some 1000, noProg := 8 } 0; (s.flowOut 1 0).noProg = 8 ∧ (s.flowOut 1 0).failed = false)
    ∧ ((outB { FlowSrc.reset with failed := true } 0).flowOut 1 0).failed = true := by decide +kernel
def queue0 : Queue := { Queue.reset with run := true, base := 0x100, size := 16, tail := 1 }
/-- Context 0 with a queue 63 and host memory from 0. -/
def qB (u : Queue) : State := ctx base (fun c => { c with queues := [(63, u)] })
def pktB (t x : Nat) (a v m : Nat) : List Byte := puts (zeros 64) [(0, 1, t), (1, 1, x), (8, 8, a), (16, 8, v), (24, 8, m)]
/-- The queue's ring, with a packet at HEAD. -/
def ringB (p : List Byte) : State := inMem (qB queue0) (paHost 0x100) p
theorem witness_HostMemoryAndDoorbells :
    (2 ^ 39 - 1 < 2 ^ 39 ∧ (2 ^ 39 - 1) % 64 + [(0 : Byte)].length ≤ 64 ∧ [(0 : Byte)] ≠ [] ∧ base.poisoned 0 = false ∧ memWf base.mem = true
      ∧ base.poisoned (2 ^ 39 - 1) = true)
    ∧ (15 < 16 ∧ 63 < 64 ∧ 4 ≤ 4 ∧ 16 ≤ 16)
    ∧ (let s := qB queue0; s.queue 0 63 = some queue0 ∧ (15 : BitVec 32).toNat % 65536 < queue0.size ∧ queue0.size ≤ (16 : BitVec 32).toNat % 65536
      ∧ queue0.packet = none ∧ { queue0 with packet := some [] }.packet.isSome = true ∧ (2 : BitVec 32).getLsbD 1 = true)
    ∧ (let p := pktB 2 0 0x8000 1 255; let s := ringB p; (s.ctx 0).started = true ∧ queue0.run = true ∧ queue0.err = false ∧ queue0.head ≠ queue0.tail
      ∧ s.agentRead 0 (gaOf s.pkg.toNat 0 spHW (queue0.base + 64 * queue0.head.toNat)) 64 = .ok p
      ∧ (∃ u ∈ (pkUses (byteAt p 0)).toList, pkZeros p u.1 u.2 = true))
    ∧ (let p := pktB 8 0 0 0 0; (ringB p).agentRead 0 (gaOf 0 0 spHW 0x100) 64 = .ok p ∧ 7 < byteAt p 0)
    ∧ (let p := pktB 5 1 1 0 0; ∃ u ∈ (pkUses (byteAt p 0)).toList, pkZeros p u.1 u.2 = false)
    ∧ ((ringB []).agentRead 0 (gaOf 0 0 spHW (2 ^ 20)) 64).toOption = none := by decide +kernel
theorem witness_QueuePacketsPerformed :
    (let p := pktB 1 0 0x2000 0 0; let u := { queue0 with packet := some p }; let s := ctx loaded (fun c => { c with queues := [(63, u)] });
      (s.queue 0 63 = some u ∧ u.packet = some p ∧ byteAt p 0 = 1 ∧ u.err = false)
      ∧ field p 8 8 % 256 = 0 ∧ [0, 6].contains (gaSpace (field p 8 8)) = true ∧ s.agentRead 0 (field p 8 8) 256 = .ok rec0
      ∧ gaPkg (field p 8 8) = s.pkg.toNat
      ∧ (s.wdNext (.queue 0 63) 0 ((0x2000, 256) :: roleNeeds (s.wdSee (.queue 0 63) 0) rec0)).isNone = true
      ∧ (s.checkRecord (.queue 0 63) 0 rec0).bad = none ∧ (s.checkRecord (.queue 0 63) 0 (put rec0 0x10 4 0)).bad = some 0x10
      ∧ (s.checkRecord (.queue 0 63) 0 (put rec0 0x10 4 0)).unread = false)
    ∧ (let p := pktB 2 2 (6 * 2 ^ 41 + 0x8000) 1 255; let u := { queue0 with packet := some p }; let s := qB u;
      s.queue 0 63 = some u ∧ byteAt p 0 = 2 ∧ u.lastRead = none ∧ field p 8 8 % 8 = 0 ∧ [0, 6].contains (gaSpace (field p 8 8)) = true
        ∧ byteAt p 1 % 4 ≠ 3 ∧ gaPkg (field p 8 8) = s.pkg.toNat ∧ (s.wdOf (.queue 0 63) 0).gets = [] ∧ s.agentRead 0 (field p 8 8) 8 = .ok (zeros 8) ∧ ¬ (field p 16 8 &&& field p 24 8 ≤ 0)
        ∧ { u with lastRead := some 5 }.lastRead ≠ none)
    ∧ (let p := pktB 3 0 0x8000 5 0; let s := qB { queue0 with packet := some p }; byteAt p 0 = 3 ∧ field p 8 8 % 8 = 0 ∧ gaPkg (field p 8 8) = s.pkg.toNat
      ∧ s.agentKeys 0 0x8000 true 0 8 = .ok (upFrom (bm 0x8000) 8) ∧ (upFrom (bm 0x8000) 8).Nodup ∧ ∀ k ∈ upFrom (bm 0x8000) 8, hasFull k = false)
    ∧ (let p := pktB 4 2 0 0 0; let s := qB { queue0 with packet := some p }; byteAt p 0 = 4 ∧ byteAt p 1 ≤ 2 ∧ s.queueRuns 0 63 = false)
    ∧ (byteAt (pktB 5 255 0 0 0) 0 = 5 ∧ byteAt (pktB 5 255 0 0 0) 1 ≠ 0 ∧ 2 < byteAt (pktB 4 3 0 0 0) 1 ∧ byteAt (pktB 5 0 0 0 0) 1 = 0) := by
  decide +kernel
/-- R68: the descriptor of an image of one slot at BM 0x9000. -/
def desc : List Byte := puts (zeros 64) [(0, 8, 0x9000), (8, 4, 1), (12, 4, 1)]
theorem witness_AssayImagesAndCompletion :
    (let p := pktB 6 0 0xA000 0 0; let u := { queue0 with packet := some p }; let s := inMem (qB u) (bm 0xA000) desc;
      s.queue 0 63 = some u ∧ u.packet = some p ∧ byteAt p 0 = 6 ∧ u.err = false ∧ s.descriptor 0 (field p 8 8) = .ok desc
        ∧ s.agentKeys 0 (gaSum 0xA000 12) true 0 4 = .ok (upFrom (bm 0xA00C) 4) ∧ field desc 32 16 = 0 ∧ field desc 16 8 = 0
        ∧ s.nextHandle < 2 ^ 32 ∧ s.agentKeys 0 (field desc 0 8) true 0 (16 * field desc 8 4) = .ok (upFrom (bm 0x9000) 16))
    ∧ (let p := pktB 7 0 0xA000 0 0; let u := { queue0 with packet := some p };
      let s : State := { inMem (qB u) (bm 0xA000) desc with images := [(1, { img0 with refs := [0] })] };
      byteAt p 0 = 7 ∧ s.descriptor 0 (field p 8 8) = .ok desc ∧ tfind s.images (field desc 12 4) = some { img0 with refs := [0] }
        ∧ s.queueChainRuns 0 63 = false ∧ s.imageInUse (field desc 12 4) = false
        ∧ { s with images := [(1, { img0 with refs := [0, 0] })] }.imageInUse 1 = false)
    ∧ (let l := { launch0 with exited := [0, 1], tends := [0, 1] }; let s := ctx base (fun c => { c with launches := [(0, l)] });
      s.launch 0 0 = some l ∧ s.launchDone 0 0 l = true ∧ l.targets = [] ∧ l.remoteFrom = none
        ∧ gaPkg (field l.record 0x78 8) = s.pkg.toNat
        ∧ s.agentKeys 0 (field l.record 0x78 8) true 0 8 = .ok (upFrom (bm 0x3000) 8) ∧ (upFrom (bm 0x3000) 8).Nodup
        ∧ l.tends.length < 2 ^ 32 ∧ memWf s.mem = true)
    ∧ (let r : Ring := ⟨0, true, 2, 0xFFFFFFFF, 0⟩; ((2 : BitVec 32) - r.cons).toNat ≤ (r.prod - r.cons).toNat
      ∧ (r.prod - r.cons).toNat < ((3 : BitVec 32) - r.cons).toNat) := by decide +kernel
theorem witness_HeadframeAgesMarksAndStarts :
    (511 < 512 ∧ (base.island 511).relock = none ∧ (base.now - base.hf.hftBase) / 13000000000 ≤ (base.island 511).measured
      ∧ (let s : State := { base with now := 13000000000 }; (s.island 511).measured < (s.now - s.hf.hftBase) / 13000000000))
    ∧ (bucketExists (.bank 4095 15) = true ∧ bucketExists (.lane 15 7) = true ∧ bucketExists (.cluster 511) = true)
    ∧ (let b := Bucket.lane 15 7; let s : State := { base with hf := { base.hf with fec := [(b, 0, 1000000)], buckets := [(b, 31, 0)] } };
      1000000 ≤ symbols s b ∧ s.bucket b = 31 ∧ ¬ 1000000 ≤ symbols base b)
    ∧ (let s : State := { base with hf := { base.hf with buckets := [(.lane 15 7, 5, 0), (.cluster 0, 5, 0)] }, now := 4680000000000 };
      s.bucketAt (.lane 15 7) = some (5, 0) ∧ s.bucketAt (.cluster 0) = some (5, 0) ∧ 0 < (s.now - s.hf.hftBase) / 4680000000000
        ∧ (base.now - base.hf.hftBase) / 780000000000 ≤ 0)
    ∧ (base.hf.boot = [] ∧ memWf base.mem = true ∧ 8 ≤ unmarked base 15) := by decide +kernel
/-- Whatever the count at birth is, each of the four losses is met by some count (R74; a loss of 0 for one below 0). -/
theorem witness_HeadframeAgesMarksAndStarts_loss (b : Nat) (h : 0 < b) :
    ∃ c : Nat, 100 * ((b : Int) - c) < 3 * b := ⟨b, by omega⟩
def img (v : BitVec 32) : Image := ⟨v, 0, false, []⟩
theorem witness_MailboxServesSystemSoftware :
    base.hf.updating = false ∧ (∃ e ∈ ({ base with images := [(1, { img0 with refs := [15] })] } : State).images, 15 ∈ e.2.refs)
    ∧ (let s : State := { base with hf := { base.hf with updating := true, floor := 2 } }; s.hf.updating = true
      ∧ SlotState.inactive ≠ .active ∧ (img 1).version.toNat < s.hf.floor.toNat
      ∧ s.hf.firmware = [(.active, ⟨0, 0, false, []⟩), (.inactive, ⟨0, 0, false, []⟩)])
    ∧ (15 < 16 ∧ (base.ctx 15).started = false ∧ (∀ e ∈ base.images, 15 ∉ e.2.refs) ∧ base.hf.marks = []
      ∧ (∀ e ∈ base.cores, tfind e.2.saved 15 = none) ∧ (base.ctx 0).started = true ∧ (∀ e ∈ base.cores, tfind e.2.saved 0 = none))
    ∧ (let s := core base (fun c => { c with saved := [(0, { Saved.empty with slots := [⟨slot0, 0, 0, true⟩] })] });
      ∃ e ∈ s.cores, (tfind e.2.saved 0).any (fun v => !v.slots.isEmpty) = true)
    ∧ (let s := ctx base (fun c => { c with started := false }); (s.ctx 0).hasWin 0 = true ∧ (s.ctx 0).started = false
      ∧ tfind (s.die ((s.ctx 0).physDie 0)).modeBy 2 = none) := by decide +kernel
def parkedW : Wait := ⟨true, true, 0, 0, false, false, false⟩
def parkedR : State :=
  slot base (fun m => { m with returns := [{ ret5 with due := some 8 }], status := Status.parked, wait := some parkedW })
def retF : Ret := { Ret.plain (codeF 4) 0 with sfu := true, value := none }
def sfuR : SfuReq := ⟨0, 1, 4, 0x40800000, 0, 0, none, 0, false⟩
theorem witness_SlotEventsHappen_registers :
    (0 < 8 ∧ (let r := { ret5 with due := some 8 }; (parkedR.slot ⟨0, 0⟩).returns[0]? = some r ∧ r.value = some 7 ∧ r.sfu = false
      ∧ 8 ≤ (parkedR.core 0).cyc.toNat ∧ r.assay = none ∧ r.marksBrv = false ∧ r.bereaved = none ∧ r.reg.toNat = codeG 5
      ∧ (parkedR.slot ⟨0, 0⟩).status = .parked))
    ∧ (let s := core base (fun c => { c with sfuQ := [sfuR], sfuRun := [(sfuR, 8)] });
      let s := slot s (fun m => { m with returns := [retF] });
      (s.slot ⟨0, 0⟩).returns.find? (fun e => e.sfu && e.reg.toNat == codeF sfuR.dest) = some retF ∧ retF.marksBrv = false
        ∧ retF.bereaved = none ∧
      (s.core 0).sfuQ = [sfuR] ∧ (s.core 0).sfuNext ≤ (s.core 0).cyc.toNat
        ∧ (s.core 0).sfuRun.find? (fun e => e.2 ≤ (s.core 0).cyc.toNat) = some (sfuR, 8) ∧ sfuR.dropped = false ∧ sfuR.slot = 0) := by
  decide +kernel
theorem witness_SlotEventsHappen_traps :
    (let s := slot base (fun m => { m with status := .trapping, trap := some (.align, 1, 2), arch := { m.arch with xvec := 8 } });
      (s.slot ⟨0, 0⟩).status = .trapping ∧ (s.slot ⟨0, 0⟩).trap = some (.align, 1, 2) ∧ s.partner ⟨0, 0⟩ = none
        ∧ (s.slot ⟨0, 0⟩).returns = [] ∧ (s.slot ⟨0, 0⟩).chunks = [] ∧ (s.slot ⟨0, 0⟩).arch.xvec ≠ 0 ∧ (s.slot ⟨0, 0⟩).arch.trapped = false)
    ∧ (base.core 0).sealed = none ∧ gaSpace (gaSY 2).toNat = spSY ∧ gaSpace (gaLM 0).toNat ≠ spSY
    ∧ (let w := (⟨false, true, 0, 2 ^ 32 + 1, false, false, false⟩ : Wait); let s := slot base (fun m => { m with status := .parked, wait := some w, arch := { m.arch with xvec := 8 } });
      quietTrap s ⟨0, 0⟩ = true ∧ (s.slot ⟨0, 0⟩).status = .parked ∧ (s.slot ⟨0, 0⟩).wait = some w ∧ w.counted = true ∧ w.regs = false
        ∧ (s.slot ⟨0, 0⟩).resume = none ∧ (s.slot ⟨0, 0⟩).sent = false ∧ (s.slot ⟨0, 0⟩).arch.waitlim ≠ 0 ∧ (s.slot ⟨0, 0⟩).arch.waitlim.toNat < w.count)
    ∧ ((slot base (fun m => { m with status := .halted })).slot ⟨0, 0⟩).status = .halted := by decide +kernel
def e15 : EndId := ⟨0, 7, 15⟩
/-- A RECV in slot 7 that names slot 0, whose register 3 is the SEND. -/
def chanB : State := (bindQ base 3 { end1 with pslot := 7, pq := 15 }).modSlot ⟨0, 7⟩ (fun m => m.setQ 15 { end2 with pslot := 0 })
theorem witness_ChannelMessagesAndMail :
    (7 < 8 ∧ 15 < 16 ∧ chanB.recvNames e15 ⟨0, 0⟩ = true ∧ (chanB.core 0).sealed = none ∧ chanB.recvNames e15 ⟨0, 1⟩ = false
      ∧ ((chanB.slot ⟨0, 7⟩).qreg 15).gen = 0 ∧ chanB.sendsTo ⟨0, 0⟩ e15 = [3] ∧ base.sendsTo ⟨0, 0⟩ e15 = [] ∧ ⟨0, 0⟩ ∈ chanB.allSlots)
    ∧ (let s := slot base (fun m => { m with sent := true }); (s.slot ⟨0, 0⟩).sent = true
      ∧ ¬ (s.core 0).emptySince + 8 * (s.core 0).recastwait.toNat ≤ (s.core 0).cyc.toNat)
    ∧ (let s := core base (fun c => { c with cyc := 512 }); (s.core 0).recvEmpty = true
      ∧ (s.core 0).emptySince + 8 * (s.core 0).recastwait.toNat ≤ (s.core 0).cyc.toNat)
    ∧ (let s := core base (fun c => { c with sealed := some 1 }); (s.core 0).sealed.isSome = true ∧ (s.core 1).sealed = none
      ∧ (s.slot ⟨0, 0⟩).task = some task0 ∧ (s.slot ⟨0, 7⟩).task = none)
    ∧ ((base.core 0).niWait = [] ∧ (base.core 0).shared < 32 ∧ base.whereIs ⟨0, 0, 0⟩ = .running ⟨0, 0⟩)
    ∧ (let s := core base (fun c => { c with inbox := List.replicate 32 { msg1 with own := false } }); 32 ≤ (s.core 0).shared) := by
  decide +kernel
def chunkW : Chunk := { chunk1 with writes := [(lm 8, 1)], closed := true, assay := [⟨1, 0, 1, 1⟩] }
/-- Slot 1 has read the line that slot 0 writes. -/
def chunkB : State := (slot base (fun m => { m with chunks := [chunkW] })).modSlot ⟨0, 1⟩ (fun m =>
  { m with chunks := [{ chunk1 with reads := [lineOf (lm 8)] }] })
def probeKey (hid home : Nat) : Nat := 2 ^ 80 + hid + 2 ^ 68 * home
theorem witness_ChunksCommitOrSquash :
    (chunkB.mayCommit ⟨0, 0⟩ = true ∧ (chunkB.slot ⟨0, 0⟩).chunks = [chunkW] ∧ (∀ w ∈ chunkW.writes, isFar w.1 = false)
      ∧ (chunkW.writes.map Prod.fst).Nodup ∧ (chunkB.cores.map Prod.fst).Nodup ∧ ⟨0, 1⟩ ∈ chunkB.allSlots
      ∧ (chunkB.slot ⟨0, 1⟩).hitBy [lineOf (lm 8)] = some 0 ∧ (chunkB.slot ⟨0, 2⟩).hitBy [lineOf (lm 8)] = none)
    ∧ base.mayCommit ⟨0, 0⟩ = false
    ∧ (let c := { chunkW with probes := [probeKey 0 0] }; let s := slot base (fun m => { m with chunks := [c] });
      (s.slot ⟨0, 0⟩).chunks = [c] ∧ c.closed = true ∧ c.probed = false ∧ c.probes ≠ [] ∧ s.partner ⟨0, 0⟩ = none
        ∧ c.probes.all (s.probeOk (s.slot ⟨0, 0⟩) c) = true)
    ∧ (let c := { chunkW with probes := [probeKey 0x200000 0] }; let s := slot base (fun m => { m with chunks := [c] });
      c.cuts = [] ∧ c.probes.all (s.probeOk (s.slot ⟨0, 0⟩) c) = false)
    ∧ (let k : Cut := ⟨probeKey 0x200000 0, Arch.start, 0, [], 0, 0, 0, []⟩;
      let c := { chunkW with probes := [probeKey 0x200000 0], cuts := [k] }; let s := slot base (fun m => { m with chunks := [c] });
      c.probes.all (s.probeOk (s.slot ⟨0, 0⟩) c) = false
        ∧ c.cuts.find? (fun k => c.probes.contains k.key && !s.probeOk (s.slot ⟨0, 0⟩) c k.key) = some k)
    ∧ (let w : HomeWrite := ⟨3, 0, 0, [(lm 8, 1)]⟩; ({ base with homeWrites := [⟨2, 0, 0, []⟩, w] } : State).homeWrites = [⟨2, 0, 0, []⟩] ++ w :: []
      ∧ ∀ x ∈ [(⟨2, 0, 0, []⟩ : HomeWrite)], x.id ≠ w.id) := by decide +kernel
def unit1 : UnitWrite := ⟨4, 0, .engine 0 0 kCOPY, true, false, [(lm 0x20, 7), (lm 0x21, 8)]⟩
theorem witness_ChunksCommitOrSquash_units :
    (let s : State := { base with unitWrites := [unit1] };
      s.unitWrites.find? (fun x => x.id == unit1.id) = some unit1 ∧ s.homeWrites = [] ∧ (∀ x ∈ s.unitWrites, x.owner = unit1.owner → ¬x.id < unit1.id)
        ∧ s.vecOpen unit1 = false ∧ (∀ c ∈ unit1.cells, s.cutOff unit1.ctx c.1 = false ∧ s.lostCell c.1 = false)
        ∧ (unit1.cells.map Prod.fst).Nodup ∧ memWf s.mem = true)
    ∧ (let u := { unit1 with id := 5 }; let s : State := { base with unitWrites := [unit1, u] };
      s.unitWrites.find? (fun x => x.id == u.id) = some u ∧ unit1 ∈ s.unitWrites ∧ unit1.owner = u.owner ∧ unit1.id < u.id
        ∧ unit1.meets u = true) := by decide +kernel
/-- No slot of a state with one core, none of whose tasks is a pair, has a partner. -/
theorem witness_ChunksCommitOrSquash_partner : ∀ j, chunkB.partner j = none := by
  have h : ∀ n, n < 8 → ((chunkB.core 0).slot n).task = none ∨ ((chunkB.core 0).slot n).task = some task0 := by decide +kernel
  have r : ∀ j, (chunkB.slot j).task = none ∨ (chunkB.slot j).task = some task0 := by
    rintro ⟨c, n⟩
    by_cases hc : c = 0
    · subst hc
      by_cases hn : n < 8
      · exact h n hn
      · refine .inl ?_
        simp only [State.slot, Core.slot]
        rw [Vector.getElem?_eq_none (by omega)]; rfl
    · refine .inl ?_
      obtain ⟨x, hx⟩ : ∃ x, chunkB.cores = [(0, x)] := ⟨_, rfl⟩
      simp only [State.slot, State.core, hx, tget, tfind, Ne.symm hc, if_false]
      by_cases hn : n < 8
      · have : ∀ k, k < 8 → (Core.reset.slot k).task = none := by decide +kernel
        exact this n hn
      · simp only [Option.getD, Core.slot]
        rw [Vector.getElem?_eq_none (by omega)]; rfl
  intro j
  rcases r j with e | e <;> simp [State.partner, e, task0, probeTask]
theorem witness_HomesServeAndMerge :
    (let w : GranWait := ⟨unitOf (lm 0x20), ⟨0, 0⟩, lm 0x20, 8, false, 0, true, true, none, none⟩;
      let s : State := { core base (fun c => { c with granQ := [w] }) with full := [unitOf (lm 0x20)] };
      (s.core (paCore (unitOf (lm 0x20) * 16))).granQ = [w] ∧ w.key = unitOf (lm 0x20) ∧ s.isFull (unitOf (lm 0x20)) = !w.write)
    ∧ (let w : GranWait := ⟨unitOf (lm 0x20), ⟨0, 0⟩, lm 0x20, 8, true, 5, true, true, none, none⟩;
      let s := core base (fun c => { c with granQ := [w] }); s.isFull (unitOf (lm 0x20)) = !w.write ∧ memWf s.mem = true
      ∧ { s with full := [unitOf (lm 0x20)] }.isFull (unitOf (lm 0x20)) = w.write)
    ∧ (let x : Contribution := ⟨.slot ⟨0, 0⟩ (some 5), 0, 0, 0, 0, 0, 0, 0, 0, 0⟩;
      let s := die (withMode base (.reduce 4 10 0 [x] 0)) (fun d => { d with refc := 1000 });
      s.mode v2 = .reduce 4 10 0 [x] 0 ∧ 0 + 100 * 10 ≤ (s.die 0).refc.toNat ∧ (s.slot ⟨0, 0⟩).task = some task0
        ∧ task0.ref = ⟨x.ctx, x.lslot, x.path⟩ ∧ (base.die 0).refc.toNat < 0 + 100 * 10)
    ∧ (let a : AssayAdd := ⟨1, 0, 1, 1⟩; let s : State := { core assayed (fun c => { c with assay := [a] }) with now := 4096 };
      (s.core 0).assay = [a] ∧ (s.core 0).merging = [] ∧ s.lostCell (bm 0x4000) = false ∧ (s.core 0).lastMerge + 4096 ≤ s.now ∧ tfind s.images 1 = some img0 ∧ img0.pa[0]? = some (bm 0x4000)
        ∧ memWf s.mem = true)
    ∧ (let s := core assayed (fun c => { c with merging := [⟨1, 0, true, 1⟩] }); (s.core 0).merging = ⟨1, 0, true, 1⟩ :: []
      ∧ tfind s.images 1 = some img0 ∧ img0.pa[0]? = some (bm 0x4000) ∧ s.lostCell (bm 0x4000) = false
      ∧ (die s (fun d => { d with fenced := true })).lostCell (bm 0x4000) = true) := by decide +kernel
theorem witness_TasksStartAndGroupsExit_start :
    (base.launch 0 0 = some launch0 ∧ tfind launch0.sups 0 = some ⟨none, false, false⟩ ∧ (base.ctx 0).preempt = none
      ∧ (base.ctx 0).flooded = false
      ∧ (((base.dealCores 0).filter (fun x => x / 1024 == 0)).filterMap (base.ctx 0).phys).find?
        (fun x => !base.away x 0 && (base.slot ⟨x, 7⟩).status == .unowned) = some 0)
    ∧ (let s := base.modSlot ⟨0, 7⟩ (fun m => { m with status := .ready });
      (((s.dealCores 0).filter (fun x => x / 1024 == 0)).filterMap (s.ctx 0).phys).find?
        (fun x => !s.away x 0 && (s.slot ⟨x, 7⟩).status == .unowned) = none ∧ (0, 0, 0) ∉ s.supWaiting)
    ∧ ((base.core 0).sealed = none ∧ (base.core 0).queues = [])
    ∧ (let a : ArbQueue := ⟨0, 0, 0, 0, 112, 16, [.run 0 1]⟩; let l := { launch0 with sups := [] };
      let s := core (ctx base (fun c => { c with launches := [(0, l)] })) (fun c => { c with queues := [a] });
      (s.core 0).queues = [a] ∧ s.launch 0 0 = some l ∧ l.n = 1 ∧ (∀ k, k < 8 → ((s.core 0).slot k).status ≠ .ending)
        ∧ s.supReady 0 0 l = true ∧ s.fitSlot 0 l = some 1 ∧ 128 ≤ a.deficit + a.weight ∧ s.away 0 0 = false) := by decide +kernel
def killN : KillNote := ⟨task0, 3, 0, true, 0x100, 5, 0, []⟩
def exiting0 (r : GroupRef) (ds : List Nat) : Launch := { launch0 with exiting := [(r, 0, ds)], exited := [5], live := [(5, 0)] }
def exitB (ds : List Nat) : State := ctx base (fun c => { c with launches := [(0, exiting0 other0 ds)] })
theorem witness_TasksStartAndGroupsExit_exit :
    (let s := core base (fun c => { c with kills := [killN] });
      s.killReady 0 = true ∧ (s.core 0).kills = [killN] ∧ killN.task.sup = false ∧ s.launch 0 0 = some launch0
        ∧ tfind launch0.sups ((s.ctx 0).logDie (0 / 1024)) = some ⟨none, false, false⟩)
    ∧ (let s := core (ctx base (fun c => { c with launches := [], faults := ⟨0, true, 0, 0, 0⟩ })) (fun c => { c with kills := [killN] });
      s.killReady 0 = true ∧ (s.core 0).kills = [killN] ∧ s.launch 0 0 = none ∧ (s.ctx 0).started = true ∧ (s.ctx 0).faults.set = true
        ∧ ((s.ctx 0).faults.prod - (s.ctx 0).faults.cons).toNat ≠ 4096)
    ∧ (let s := exitB [0]; s.launch (refCtx other0) (refLslot other0) = some (exiting0 other0 [0]) ∧ s.exitWaits 0 other0 = false
      ∧ (s.ctx (refCtx other0)).flooded = false ∧ s.heldBy 0 other0 = [])
    ∧ (let e := { entry0 other0 1 with heir := me0 }; let s := (withMode (exitB [0]) (.lock .held false [])).setEntry 0 9 e;
      s.heldBy 0 other0 = [9] ∧ s.entry 0 9 = e ∧ s.mode ⟨0, gaOff e.hid.toNat / 16⟩ = .lock .held false [] ∧ e.heirk = 0
        ∧ s.exited me0 = false ∧ e.offer = none ∧ e.endsWith other0 0 = true ∧ s.exitWaits 0 other0 = false)
    ∧ (let e := { entry0 other0 1 with heirk := 1 }; let s := (withMode (exitB [0]) (.lock .held false [])).setEntry 0 9 e;
      s.heldBy 0 other0 = [9] ∧ s.entry 0 9 = e)
    ∧ ((other0, 0, []) ∈ (exiting0 other0 []).exiting ∧ ∀ e ∈ (exiting0 other0 [3]).exiting, e.1 ≠ other0 ∨ e.2.2 ≠ []) := by decide +kernel
theorem witness_FloodsSavesAndRestores_flood :
    ((base.ctx 0).started = true ∧ (base.ctx 0).flooded = false ∧ (base.ctx 0).preempt = none ∧ base.coresOf 0 ≠ [])
    ∧ (let s := ctx base (fun c => { c with flooded := true }); (s.ctx 0).flooded = true ∧ s.drained 0 = true)
    ∧ (let s := core (ctx base (fun c => { c with flooded := true })) (fun c => { c with vec := [vcmd0 vrec] });
      s.drained 0 = false ∧ s.now < (s.ctx 0).floodAt + 130000)
    ∧ (let s := core (ctx base (fun c => { c with preempt := some 0 })) (fun c => { c with ncyc := 65536 }); s.deadlineDue ⟨0, 0⟩ = true
      ∧ (base.slot ⟨0, 0⟩).sent = false ∧ base.deadlineDue ⟨0, 0⟩ = false) := by decide +kernel
def stopped0 : State := slot (ctx base (fun c => { c with preempt := some 0 })) (fun m => { m with status := .stopped })
def saved0 : Saved := { Saved.empty with slots := List.replicate 8 ⟨slot0, 0, 0, true⟩ }
theorem witness_FloodsSavesAndRestores_save :
    (stopped0.saveReady 0 = true ∧ (stopped0.core 0).assay = [] ∧ memWf stopped0.mem = true
      ∧ (∀ n, n < 8 → (stopped0.slot ⟨0, n⟩).plive = none) ∧ (stopped0.slot ⟨0, 0⟩).task.isSome = true
      ∧ stopped0.leadOf ⟨0, 0⟩ = ⟨0, 0⟩)
    ∧ (let s := core base (fun c => { c with saved := [(0, saved0)] }); tfind (s.core 0).saved 0 = some saved0 ∧ (s.ctx 0).started = true
      ∧ (s.ctx 0).flooded = false ∧ (s.ctx 0).preempt = none ∧ s.vacant 0 = true ∧ s.homeWrites = [] ∧ saved0.slots ≠ []
      ∧ s.badBlock 0 0 saved0 none = none)
    ∧ (let v := { saved0 with written := [9] }; base.badBlock 0 0 v (some 9) = some 9 ∧ Saved.empty.slots = []) := by decide +kernel
def tcmdB (f : TCmd → TCmd) : State := core tens (fun c => { c with tens := [f (tens.tensCmd tens.cur 1 4 0 0 6 none false)] })
theorem witness_TensorEngineComputes :
    (let s := slot tens (fun m => m.setFifo 3 ⟨[w64 (1 + 4 * 2 ^ 8)], []⟩); let w := w64 (1 + 4 * 2 ^ 8);
      ((s.slot ⟨0, 0⟩).fifoOf 3).ops = [w] ∧ s.tensFull ⟨0, 0⟩ = false ∧ (s.core 0).sealed = none ∧ tensMajorOk (w.toNat % 32) = true
        ∧ w.toNat / 2 ^ 17 % 8 = 0 ∧ tensFormOk 1 4 = true ∧ w.toNat / 2 ^ 12 % 32 ≠ 31
        ∧ (s.tensCmd ⟨0, 0⟩ 1 4 0 0 0 none true).reason none (s.slot ⟨0, 0⟩).checkOn = 0)
    ∧ (let s := bindQ (slot tens (fun m => m.setFifo 3 ⟨[5], List.replicate 7 0⟩)) 15 { end1 with kind := 3 };
      tensMajorOk 5 = false ∧ (∃ q, q < 16 ∧ ((s.slot ⟨0, 0⟩).qreg q).kind = 3) ∧ ((s.slot ⟨0, 0⟩).fifoOf 3).res.length < 8)
    ∧ (let s := tcmdB id; ∃ t, (s.core 0).tens = [t] ∧ t.executed = false ∧ 4 * t.txn ≤ t.pitch ∧ t.major = 1 ∧ t.outl = none ∧ t.inject = none
      ∧ t.txm = 1 ∧ t.txn = 1 ∧ t.txk = 1)
    ∧ (let s := tcmdB (fun t => { t with executed := true, outcome := some 7, writes := [(pa spCB 0 0, 1)], checked := false });
      ∃ t, (s.core 0).tens = [t] ∧ t.executed = true ∧ (s.core 0).tensBusy ≤ (s.core 0).cyc.toNat ∧ t.pushed = false ∧ t.checked = false
        ∧ t.landing = false ∧ t.writes ≠ [] ∧ s.unitWrites = [] ∧ s.signals = [] ∧ s.sameLife ⟨0, t.slot⟩ t.life = true ∧ t.slot < 8 ∧ 7 < 8)
    ∧ { tens.tensCmd tens.cur 1 4 0 0 6 none false with landing := true }.landing = true :=
  ⟨by decide +kernel, by decide +kernel, ⟨_, rfl, by decide +kernel⟩, ⟨_, rfl, by decide +kernel⟩, rfl⟩
theorem witness_NoneWaits : NoneWaits (tcmdB id) := by
  intro c
  by_cases h : c = 0
  · subst h; decide +kernel
  · obtain ⟨x, hx⟩ : ∃ x, (tcmdB id).cores = [(0, x)] := ⟨_, rfl⟩
    simp only [State.core, hx, tget, tfind, Ne.symm h, if_false]; rfl
def vecB (v : VCmd) : State := core base (fun c => { c with vec := [v] })
def jigRec : List Byte := puts (zeros 64)
  [(0, 8, 2 ^ 41 + 0x100), (16, 4, 1), (20, 2, 1), (22, 1, 1), (24, 8, 2 ^ 41 + 0x200), (32, 8, 2 ^ 41 + 0x300), (40, 8, 2 ^ 41 + 0x400)]
def jcmd : JCmd := ⟨⟨0, 0⟩, 0, jigRec, false, false, 0, some ⟨0, 0, 0⟩, false, 0, [], 0, false⟩
def ccmd (r : List Byte) (getr : Bool) : CCmd :=
  { slot := 0, getr := getr, desc := 0, record := r, tag := 0, pushed := false, row := 0, col := 0, moved := 0, gets := [], gathered := []
    status := 0, cause := 0, faultAddr := 0, finished := false, puts := [], checked := false, task := some ⟨0, 0, 0⟩ }
theorem witness_VectorCopyAndJigWork_vector :
    (let v := vcmd0 vrec; let s := vecB v; let d := vopd v.record (vOff 0);
      (s.core 0).vec = [v] ∧ v.finished = false ∧ v.started = false ∧ vN v.record = 1 ∧ v.done = 0 ∧ vReduces v.major = false
        ∧ vBp v.major v.record = false ∧ v.status = 0 ∧ s.unitWrites = [] ∧ s.signals = [] ∧ v.major ≠ 0x10 ∧ v.major ≠ 0x11 ∧ v.checked = false ∧ s.suspended 0 v = false ∧ d.loc = 1
        ∧ (∀ k, k < vUsed v.major → 1 ≤ k → let o := vopd v.record (vOff k)
          ((o.loc = 1 ∨ o.loc = 2 ∨ o.loc = 4) ∨ o.loc = 9) ∧ ((o.loc = 1 ∨ o.loc = 2 ∨ o.loc = 4) → o.fe = 0))
        ∧ s.sameTask ⟨0, 0⟩ v.task = true ∧ (s.core 0).sealed = none)
    ∧ (let v := { vcmd0 vrec with status := 3 }; let s := vecB v; (s.core 0).vec = [v] ∧ s.suspended 0 v = false ∧ v.status = 3
      ∧ s.sameTask ⟨0, 0⟩ v.task = true)
    ∧ (let v := { vcmd0 vrec with finished := true }; (vecB v).core 0 = (vecB v).core 0 ∧ v.finished = true
      ∧ ((vecB v).core 0).vecBusy ≤ ((vecB v).core 0).cyc.toNat ∧ vCmpl v.record = false ∧ vCmpl (put vrec 6 1 8) = true) := by decide +kernel
theorem witness_VectorCopyAndJigWork_copy :
    (let c := ccmd (puts copyRec [(36, 1, 0)]) false; let s := core base (fun k => { k with copy := [c] });
      (s.core 0).copy = [c] ∧ s.coreStopped 0 = false ∧ dROWS c.record = 1 ∧ 1 ≤ dLEN c.record ∧ dLEN c.record ≤ 64 - dDST c.record % 64
        ∧ dSwait c.record = false ∧ gaPkg (dSRC c.record) = s.pkg.toNat ∧ gaPkg (dDST c.record) = s.pkg.toNat
        ∧ s.agentKeys 0 (dSRC c.record) false 0 8 = .ok (upFrom (lm 0x100) 8)
        ∧ s.agentKeys 0 (dDST c.record) true 0 8 = .ok (upFrom (bm 0x5000) 8) ∧ s.unitWrites = [] ∧ s.signals = []
        ∧ s.blocked 0 (s.gaPlace 0 (dSRC c.record)) = false ∧ s.blocked 0 (s.gaPlace 0 (dDST c.record)) = false
        ∧ s.sameTask ⟨0, 0⟩ c.task = true ∧ { c with finished := true }.puts = [])
    ∧ (let c := ccmd getrRec true; let s := core base (fun k => { k with copy := [c] }); s.agentRead 0 (dSRC c.record) (dLEN c.record) = .ok (zeros 8)
      ∧ s.agentKeys 0 (dDST c.record) true 0 (dLEN c.record) = .ok (upFrom (lm 0x100) 8)
      ∧ c.finished = false ∧ { c with finished := true }.gets = [] ∧ s.sameTask ⟨0, 0⟩ c.task = true)
    := by decide +kernel
theorem witness_VectorCopyAndJigWork_jig :
    (let s := die base (fun d => { d with jig := [jcmd] }); (s.die 0).jig = [jcmd] ∧ s.jigMayBegin jcmd = true ∧ (s.die 0).fenced = false ∧ jigOk s.pkg.toNat jigRec = true
      ∧ jNTOK jigRec = 1 ∧ jNEXP jigRec = 1 ∧ jK jigRec = 1 ∧ jNorm jigRec = 0 ∧ jBf jigRec = false ∧ s.sameTask ⟨0, 0⟩ jcmd.task = true
      ∧ s.agentRead 0 (jSCORES jigRec) 4 = .ok (zeros 4) ∧ s.agentKeys 0 (jIDX jigRec) true 0 1 = .ok [lm 0x200]
      ∧ s.agentKeys 0 (jWGT jigRec) true 0 4 = .ok (upFrom (lm 0x300) 4) ∧ s.agentKeys 0 (jHIST jigRec) true 0 4 = .ok (upFrom (lm 0x400) 4)
      ∧ ([lm 0x200] ++ upFrom (lm 0x300) 4).Nodup ∧ (∀ k ∈ [lm 0x200] ++ upFrom (lm 0x300) 4, s.lostCell k = false)
      ∧ memWf s.mem = true ∧ jcmd.ended = false ∧ { jcmd with ended := true }.ended = true) := by decide +kernel
theorem witness_DecodeEncode : (Instr.add H 5 6 (.imm [1, 2, 3]) true).wf = true ∧ encode (.add H 5 6 (.imm [1, 2, 3]) true) ≠ []
    ∧ decode [0x7801, 0] = .ok (.tend false) := by decide
theorem witness_StepRunsDecodedInstruction :
    (let s := State.reset.withFetchWord 16 0x7800; let u := ({ s with agenda := [] } : State).modCore 0 (fun k => { k with beat := s.now + 1 });
      s.serialDue = none ∧ s.agenda = [.cycle 0] ∧ s.firstDue (s.clockedEvents 0) = none ∧ ({ s with agenda := [] } : State).coreRuns 0 = true ∧ (u.slot ⟨0, 0⟩).acts = true ∧ u.supOver (u.slot ⟨0, 0⟩) = false
        ∧ (s.core 0).cyc.toNat % 8 = 0 ∧ decode (u.fetchWords (u.core 0).tenant.toNat (u.slot ⟨0, 0⟩).arch.pc.toNat 5).1 = .ok (.nop false)
        ∧ u.icMiss ⟨0, 0⟩ (wordsOf (.nop false)) = [] ∧ u.cannotSend ⟨0, 0⟩ (.nop false) = false)
    ∧ (let s : State := { base with agenda := [.event .journalClear] }; s.serialDue = none ∧ base.heldBack .journalClear = false) := by
  decide +kernel
def isNext (o : Host.Outcome State Fault Refusal) : Bool := match o with | .next _ => true | _ => false
theorem isNext_ok {o : Host.Outcome State Fault Refusal} (h : isNext o = true) : ∃ t, o = .next t := by
  cases o <;> simp [isNext] at h ⊢
theorem witness_StepKeepsInvariant : Inv base ∧ (∃ t, step base = .next t) :=
  ⟨⟨by decide +kernel, by decide +kernel⟩, isNext_ok (by decide +kernel)⟩

end Sys2Proof.Tests
end

section
/-!
PROOFS. Page 0: the results of R262 to R267 and R202 in the words of the statements; what an instruction of a chunk does
that writes or returns one value; ADDR; and NOP, CHUNK, PLIVE, FENCE and the chunks that instructions stay in.
-/
namespace Sys2Proof.Proofs
open Sys2Proof.Machine Sys2Proof.Claims

theorem sext_eq_bmod (n x : Nat) : sext n x = (x : Int).bmod (2 ^ n) := by
  rw [← BitVec.toInt_ofNat]
  unfold sext
  rcases n with _ | n
  · simp [BitVec.toInt_zero_length]
  · have h : x % 2 ^ (n + 1) < 2 ^ n ↔ 2 * (x % 2 ^ (n + 1)) < 2 ^ (n + 1) := by
      rw [Nat.pow_succ]; omega
    simp [BitVec.toInt_eq_toNat_cond, h]

theorem sext_mod (n x : Nat) : sext n (x % 2 ^ n) = sext n x := by simp [sext]

theorem i64_toInt (x : Word) : i64 x.toInt = x := BitVec.ofInt_toInt ..
theorem i64_toNat (x : Word) : i64 x.toNat = x := by simp [i64]
theorem i64_natCast (n : Nat) : i64 n = w64 n := by simp [i64, w64]
theorem i64_bmod (v : Int) : i64 (v.bmod (2 ^ 64)) = i64 v := by
  rw [← BitVec.toInt_inj]; simp [i64]

/-- R262: a result at a width is the low bits of its value, sign-extended. -/
theorem res_eq (w : Bool) (v : Int) : res w v = i64 (v.bmod (2 ^ width w)) := by
  cases w
  · exact (i64_bmod v).symm
  · have h : ((v % 2 ^ 32).toNat : Int) = v % (2 ^ 32 : Nat) := by omega
    simp only [res, width, if_true, sext_eq_bmod, h, Int.emod_bmod]

theorem narrow_i64 (w : Bool) (v : Int) : narrow w (i64 v) = res w v := by
  cases w
  · rfl
  · rw [res_eq]
    have h : ((i64 v).setWidth 32).toInt = v.bmod (2 ^ 32) := by
      rw [BitVec.toInt_setWidth, i64, BitVec.toNat_ofInt]
      simp only [Int.bmod_def]
      omega
    exact congrArg i64 h


-- operands at a width (R262)

theorem opd_eq_opU (w : Bool) (x : Word) : opd w x = opU w x := by
  cases w
  · simp only [opd, opU, width, Bool.false_eq_true, if_false]; omega
  · rfl

theorem opdS_eq_bmod (w : Bool) (x : Word) : opdS w x = (x.toNat : Int).bmod (2 ^ width w) := sext_eq_bmod ..

theorem opdS_eq_opS (w : Bool) (x : Word) : opdS w x = opS w x := by
  rw [opdS_eq_bmod]
  cases w
  · exact (BitVec.toInt_eq_toNat_bmod x).symm
  · exact (BitVec.toInt_setWidth x).symm

/-- A result of an operand alone is the operand narrowed, read as unsigned or signed. -/
theorem res_opd (w : Bool) (x : Word) : res w (opd w x) = narrow w x := by
  conv_rhs => rw [← i64_toNat x, narrow_i64, res_eq, ← Int.emod_bmod]
  rw [res_eq, opd, Int.natCast_emod]
theorem res_opdS (w : Bool) (x : Word) : res w (opdS w x) = narrow w x := by
  conv_rhs => rw [← i64_toNat x, narrow_i64, res_eq]
  rw [res_eq, opdS_eq_bmod, Int.bmod_bmod]

-- the results of R262

theorem narrow_add (w : Bool) (x y : Word) : narrow w (x + y) = res w (x.toNat + y.toNat) := by
  rw [← narrow_i64, i64, BitVec.ofInt_add]
  simp
theorem narrow_sub (w : Bool) (x y : Word) : narrow w (x - y) = res w (x.toNat - y.toNat) := by
  rw [← narrow_i64, i64, Int.sub_eq_add_neg, BitVec.ofInt_add, BitVec.ofInt_neg, BitVec.sub_eq_add_neg]
  simp
theorem narrow_mul (w : Bool) (x y : Word) : narrow w (x * y) = res w (x.toNat * y.toNat) := by
  rw [← narrow_i64, i64, BitVec.ofInt_mul]
  simp
theorem mulHigh_eq (u : Bool) (x y : Word) : mulHigh u x y =
    i64 (if u then ((x.toNat * y.toNat / 2 ^ 64 : Nat) : Int) else x.toInt * y.toInt / 2 ^ 64) := by
  cases u
  · rfl
  · simp only [mulHigh, if_true, i64_natCast]

theorem shiftBy_eq (w : Bool) (y : Word) : shiftBy w y = y.toNat % width w := rfl

theorem shl_eq (w : Bool) (x y : Word) : shl w x y = res w (x.toNat * 2 ^ (y.toNat % width w)) := by
  rw [← narrow_i64, shl, shiftBy_eq]
  generalize y.toNat % width w = k
  have h : (x.toNat : Int) * 2 ^ k = (x.toNat * 2 ^ k : Nat) := by push_cast; rfl
  rw [h, i64_natCast, ← Nat.shiftLeft_eq]
  rfl

theorem shr_eq (w ar : Bool) (x y : Word) :
    shr w ar x y = res w ((if ar then opdS w x else opd w x) / 2 ^ (y.toNat % width w)) := by
  rw [← narrow_i64, shr, shiftBy_eq, opdS_eq_opS, opd_eq_opU]
  cases ar
  · simp only [Bool.false_eq_true, if_false, ← i64_natCast]
    push_cast; rfl
  · rfl

theorem setCond_eq_holds (cond : BitVec 3) (x y : Word) : setCond cond x y = holds cond x y := by
  unfold setCond holds
  generalize cond.toNat = n
  match n with
  | 0 => exact beq_eq_decide x y
  | 1 => simp [bne, beq_eq_decide]
  | 2 | 3 | 4 | _ + 5 => rfl

/-- R262: one of two words by the order of the values that they stand for. -/
theorem ite_below_eq {x y : Word} {vx vy : Int} (mx : Bool) (hx : i64 vx = x) (hy : i64 vy = y) :
    (if decide (vx ≤ vy) != mx then x else y) = i64 (if mx then max vx vy else min vx vy) := by
  subst hx hy
  rcases Int.le_total vx vy with h | h
  · cases mx <;> simp [h]
  · rcases h.eq_or_lt with rfl | h
    · cases mx <;> simp
    · cases mx <;> simp [h, h.le]

theorem minMax_eq (mx u : Bool) (x y : Word) : minMax mx u x y =
    i64 (match mx, u with
      | false, false => min x.toInt y.toInt
      | true, false => max x.toInt y.toInt
      | false, true => min (x.toNat : Int) y.toNat
      | true, true => max (x.toNat : Int) y.toNat) := by
  have hs := ite_below_eq mx (i64_toInt x) (i64_toInt y)
  have hu := ite_below_eq mx (i64_toNat x) (i64_toNat y)
  simp only [Int.ofNat_le] at hu
  cases u
  · cases mx
    · exact hs
    · exact hs
  · cases mx
    · exact hu
    · exact hu

-- division (R202)

theorem allOnes_eq : BitVec.allOnes 64 = i64 (-1) := by decide

/-- R202: the two quotients that wrap at a width: a division by 0, and the least value divided by -1. -/
theorem res_all_ones (w : Bool) : res w (2 ^ width w - 1) = res w (-1) := by cases w <;> decide
theorem res_least_tdiv (w : Bool) : res w ((-2 ^ (width w - 1) : Int).tdiv (-1)) = res w (-2 ^ (width w - 1)) := by
  cases w <;> decide

theorem divQ_eq (u w : Bool) (x y : Word) : divQ u w x y = res w (quo u w x y) := by
  unfold divQ quo
  simp only [allOnes_eq, ← i64_natCast, opd_eq_opU, opdS_eq_opS, Int.natCast_eq_zero]
  cases u
  · simp only [Bool.false_eq_true, if_false]
    by_cases hy : opS w y = 0
    · simp only [hy, if_true, narrow_i64]
    · simp only [hy, if_false, narrow_i64]
      split
      next h => rw [h.1, h.2, res_least_tdiv]
      next => rfl
  · simp only [if_true]
    split
    · rw [narrow_i64, res_all_ones]
    · rw [narrow_i64, Int.natCast_ediv]

/-- R202: where no special case holds, the remainder is what the quotient leaves. -/
theorem rem_signed_eq {w : Bool} {x y : Word} (hy : opdS w y ≠ 0)
    (ho : ¬(opdS w x = -2 ^ (width w - 1) ∧ opdS w y = -1)) : rem false w x y = (opdS w x).tmod (opdS w y) := by
  simp only [rem, quo, Bool.false_eq_true, hy, ho, if_false]
  rw [Int.tmod_def, Int.mul_comm]
theorem rem_unsigned_eq {w : Bool} {x y : Word} (hy : opd w y ≠ 0) : rem true w x y = opd w x % opd w y := by
  simp only [rem, quo, hy, if_true, if_false]
  rw [Int.emod_def, Int.mul_comm]

theorem divR_eq (u w : Bool) (x y : Word) : divR u w x y = res w (rem u w x y) := by
  cases u
  · simp only [divR, Bool.false_eq_true, if_false, ← opdS_eq_opS]
    by_cases hy : opdS w y = 0
    · simp only [rem, hy, Bool.false_eq_true, if_true, if_false, res_opdS]
    · rw [if_neg hy, narrow_i64]
      by_cases ho : opdS w x = -2 ^ (width w - 1) ∧ opdS w y = -1
      · simp only [rem, ho, Bool.false_eq_true, if_false, and_self, if_true]
        simp
      · rw [rem_signed_eq hy ho]
  · have h0 : opU w y = 0 ↔ opd w y = 0 := by rw [opd_eq_opU, Int.natCast_eq_zero]
    simp only [divR, if_true, h0]
    by_cases hy : opd w y = 0
    · simp only [rem, hy, if_true, res_opd]
    · rw [if_neg hy, rem_unsigned_eq hy, ← i64_natCast, narrow_i64, Int.natCast_emod, opd_eq_opU, opd_eq_opU]

-- bytes and fields (R264, R265)

theorem extend_eq_extended (k : Nat) (z : Bool) (v : Nat) : extend k z v = extended k z v := rfl

/-- R265: the field of e bits at pos of a number replaced by the low bits of another, bit by bit. -/
theorem testBit_insert (old x pos e i : Nat) :
    (old % 2 ^ pos + 2 ^ pos * (x % 2 ^ e) + old / 2 ^ (pos + e) * 2 ^ (pos + e)).testBit i
      = if pos ≤ i ∧ i < pos + e then x.testBit (i - pos) else old.testBit i := by
  have hlow : old % 2 ^ pos < 2 ^ pos := Nat.mod_lt _ (Nat.two_pow_pos _)
  have hmid : 2 ^ pos * (x % 2 ^ e) + old % 2 ^ pos < 2 ^ (pos + e) := by
    have h : x % 2 ^ e + 1 ≤ 2 ^ e := Nat.mod_lt _ (Nat.two_pow_pos _)
    calc 2 ^ pos * (x % 2 ^ e) + old % 2 ^ pos < 2 ^ pos * (x % 2 ^ e) + 2 ^ pos := by omega
      _ = 2 ^ pos * (x % 2 ^ e + 1) := by ring
      _ ≤ 2 ^ (pos + e) := by rw [Nat.pow_add]; exact Nat.mul_le_mul_left _ h
  rw [Nat.add_comm, Nat.add_comm (old % 2 ^ pos), Nat.mul_comm (old / _), Nat.testBit_two_pow_mul_add _ hmid,
    Nat.testBit_two_pow_mul_add _ hlow, Nat.testBit_mod_two_pow, Nat.testBit_mod_two_pow, Nat.testBit_div_two_pow]
  by_cases h1 : i < pos
  · simp [h1, Nat.lt_add_right e h1, Nat.not_le.2 h1]
  · by_cases h2 : i < pos + e
    · have h3 : i - pos < e := by omega
      simp [h1, h2, h3, Nat.not_lt.1 h1]
    · have h3 : i - (pos + e) + (pos + e) = i := by omega
      simp [h2, h3]

theorem insert_eq (old x : Word) (pos e : Nat) :
    ((old &&& ~~~(w64 (2 ^ e - 1) <<< pos)) ||| ((x &&& w64 (2 ^ e - 1)) <<< pos) : Word)
      = w64 (old.toNat % 2 ^ pos + 2 ^ pos * (x.toNat % 2 ^ e) + old.toNat / 2 ^ (pos + e) * 2 ^ (pos + e)) := by
  apply BitVec.eq_of_getLsbD_eq
  intro i hi
  simp only [w64, BitVec.getLsbD_or, BitVec.getLsbD_and, BitVec.getLsbD_not, BitVec.getLsbD_shiftLeft,
    BitVec.getLsbD_ofNat, Nat.testBit_two_pow_sub_one, testBit_insert, BitVec.testBit_toNat, hi, decide_true, Bool.true_and]
  by_cases h1 : i < pos
  · simp [h1, Nat.not_le.2 h1]
  · have h3 : i - pos < 64 := by omega
    by_cases h2 : i < pos + e
    · have h4 : i - pos < e := by omega
      simp [h1, h2, h3, h4, Nat.not_lt.1 h1]
    · have h4 : ¬ i - pos < e := by omega
      simp [h1, h2, h4]

theorem bfx_eq (sx ins : Bool) (old x y : Word) : bfx sx ins old x y = field265 sx ins old x y := by
  unfold bfx field265
  simp only [insert_eq, sext_mod]

-- counts (R266)

theorem upFrom_succ (a n : Nat) : upFrom a (n + 1) = upFrom a n ++ [a + n] := by
  induction n generalizing a with
  | zero => rfl
  | succ n ih => rw [upFrom, ih, upFrom, List.cons_append, Nat.add_assoc, Nat.add_comm 1]

/-- y holds the n bits of x from place a. -/
def SameBits (x a y n : Nat) : Prop := ∀ i, i < n → y.testBit i = x.testBit (a + i)

theorem SameBits.head {x a y n : Nat} (h : SameBits x a y (n + 1)) : x.testBit a = decide (y % 2 = 1) := by
  rw [← Nat.testBit_zero, h 0 (Nat.succ_pos n), Nat.add_zero]
theorem SameBits.half {x a y n : Nat} (h : SameBits x a y (n + 1)) : SameBits x (a + 1) (y / 2) n := fun i hi => by
  rw [Nat.testBit_div_two, h (i + 1) (Nat.succ_lt_succ hi), Nat.add_assoc, Nat.add_comm 1]

theorem popCount_eq {x a y n : Nat} (h : SameBits x a y n) :
    popCount y n = ((upFrom a n).filter (fun i => x.testBit i)).length := by
  induction n generalizing a y with
  | zero => rfl
  | succ n ih =>
    rw [popCount, ih h.half, upFrom, List.filter_cons, h.head]
    rcases Nat.mod_two_eq_zero_or_one y with hy | hy
    · simp [hy]
    · simp [hy, Nat.add_comm]

theorem trailZeros_eq {x a y n : Nat} (h : SameBits x a y n) :
    trailZeros y n = ((upFrom a n).takeWhile (fun i => !x.testBit i)).length := by
  induction n generalizing a y with
  | zero => rfl
  | succ n ih =>
    rw [trailZeros, ih h.half, upFrom, List.takeWhile_cons, h.head]
    by_cases hy : y % 2 = 1
    · simp [hy]
    · simp [hy, Nat.add_comm]

theorem leadZeros_eq {x y n : Nat} (h : SameBits x 0 y n) : leadZeros y n = zerosAbove x n := by
  induction n with
  | zero => rfl
  | succ n ih =>
    have hn : x.testBit n = decide (y / 2 ^ n % 2 = 1) := by
      rw [← Nat.testBit_eq_decide_div_mod_eq, h n n.lt_succ_self, Nat.zero_add]
    rw [leadZeros, ih fun i hi => h i (Nat.lt_succ_of_lt hi), zerosAbove, zerosAbove, upFrom_succ, List.reverse_append]
    by_cases hy : y / 2 ^ n % 2 = 1
    · simp [hn, hy]
    · simp [hn, hy, Nat.add_comm]

theorem sameBits_opU (w : Bool) (x : Word) : SameBits x.toNat 0 (opU w x) (width w) := fun i hi => by
  cases w
  · rw [Nat.zero_add]; rfl
  · rw [Nat.zero_add, opU, if_pos rfl, Nat.testBit_mod_two_pow]
    simp [show i < 32 from hi]

theorem count_eq (o : BitVec 2) (w : Bool) (x : Word) : count o w x = w64 (match o.toNat with
    | 0 => ones x.toNat (width w)
    | 1 => zerosAbove x.toNat (width w)
    | _ => zerosBelow x.toNat (width w)) := by
  have h := sameBits_opU w x
  unfold count ones zerosBelow
  rw [← popCount_eq h, ← trailZeros_eq h, ← leadZeros_eq h]
  generalize o.toNat = n
  match n with
  | 0 | 1 | _ + 2 => rfl

-- issuing an instruction of a chunk

theorem issues_chunked {s : State} {reads writes : List Nat} (sb : Bool) (len : Nat) (h : MayIssue s reads writes) :
    Issues s (Info.chunked sb len reads writes) := h

theorem slot_lt {s : State} {reads writes : List Nat} (h : MayIssue s reads writes) : s.cur.slot < 8 := h.1.1
theorem unpaired {s : State} {reads writes : List Nat} (h : MayIssue s reads writes) :
    ∀ t, s.me.task = some t → t.n ≠ 2 := by
  obtain ⟨⟨-, -, -, ht⟩, -⟩ := h
  exact ht

/-- The effect of an instruction begins with the slot past its words; its operands are still as they were. -/
theorem g_past (s : State) (info : Info) (h : s.cur.slot < 8) (a : Reg) :
    (s.setSlot s.cur (s.me.past info)).g a = s.g a := by
  simp only [State.g, State.me_setSlot _ _ h, Slot.past_arch]
  rfl

theorem val_past (s : State) (info : Info) (h : s.cur.slot < 8) (y : Src) :
    Src.val y (s.setSlot s.cur (s.me.past info)) = Src.val y s := by
  cases y
  · exact g_past s info h _
  · rfl

theorem modMe_setSlot {s : State} (h : s.cur.slot < 8) (m : Slot) (f : Slot → Slot) :
    (s.setSlot s.cur m).modMe f = s.setSlot s.cur (f m) := by
  rw [State.modMe_eq, State.me_setSlot _ _ h, State.setSlot_cur, State.setSlot_setSlot]

theorem setG_past (s : State) (info : Info) (h : s.cur.slot < 8) (a : Reg) (v : Word) :
    (s.setSlot s.cur (s.me.past info)).setG a v = s.setSlot s.cur ((s.me.past info).setG a v) :=
  modMe_setSlot h _ (fun m => m.setG a v)

theorem slotFrame_setG (m : Slot) (a : Reg) (v : Word) : SlotFrame m (m.setG a v) := ⟨rfl, fun _ _ => rfl⟩

theorem setG_atPc (r : Arch) (a : Reg) (v pc : Word) : (atPc r pc).setG a v = atPc (r.setG a v) pc := by
  unfold Arch.setG; split <;> rfl

theorem past_arch_eq_atPc (s : State) (info : Info) : (s.me.past info).arch = atPc s.me.arch (npc s info.len) := by
  simp [atPc, npc, State.pc]

/-- An instruction of a chunk whose effect is to write a value to g[a] completes with it there. -/
theorem issue_writes_g {s : State} {reads : List Nat} {a : Reg} {v w : Word} {body : State → Res} (sb : Bool) (len : Nat)
    (h : MayIssue s reads [codeG a])
    (hb : let s' := s.setSlot s.cur (s.me.past (Info.chunked sb len reads [codeG a])); body s' = .done (s'.setG a w))
    (hv : w = v) :
    ∃ t, issue s (Info.chunked sb len reads [codeG a]) none body = .next t ∧
      Completed s t sb (atPc (s.me.arch.setG a v) (npc s len)) [] := by
  subst hv
  have hi := issues_chunked sb len h
  obtain ⟨t, ht, hc⟩ := issue_completes s _ body _ [] hi (hb.trans (congrArg Res.done (setG_past s _ (slot_lt h) a w)))
    (slotFrame_setG _ a w) (by simp) (by simp)
  rw [Slot.setG_arch, past_arch_eq_atPc, setG_atPc] at hc
  exact ⟨t, ht, hc⟩

-- instructions that write their result at once (R262, R264 to R267)

theorem exec_mov {h a b sz z} (s : State) : exec (.mov h a b sz z) s = execMov h a b sz z s := rfl
theorem exec_add {h a b y w} (s : State) : exec (.add h a b y w) s = execAdd h a b y w s := rfl
theorem exec_sub {h a b y w} (s : State) : exec (.sub h a b y w) s = execSub h a b y w s := rfl
theorem exec_mul {h a b y w} (s : State) : exec (.mul h a b y w) s = execMul h a b y w s := rfl
theorem exec_mulh {h a b y u} (s : State) : exec (.mulh h a b y u) s = execMulh h a b y u s := rfl
theorem exec_and {h a b y} (s : State) : exec (.and h a b y) s = execAnd h a b y s := rfl
theorem exec_or {h a b y} (s : State) : exec (.or h a b y) s = execOr h a b y s := rfl
theorem exec_xor {h a b y} (s : State) : exec (.xor h a b y) s = execXor h a b y s := rfl
theorem exec_shl {h a b y w} (s : State) : exec (.shl h a b y w) s = execShl h a b y w s := rfl
theorem exec_shr {h a b y w ar} (s : State) : exec (.shr h a b y w ar) s = execShr h a b y w ar s := rfl
theorem exec_set {h a b y c} (s : State) : exec (.set h a b y c) s = execSet h a b y c s := rfl
theorem exec_minmax {h a b y mx u} (s : State) : exec (.minmax h a b y mx u) s = execMinmax h a b y mx u s := rfl
theorem exec_bfx {h a b y sx ins} (s : State) : exec (.bfx h a b y sx ins) s = execBfx h a b y sx ins s := rfl
theorem exec_cnt {h a b o w} (s : State) : exec (.cnt h a b o w) s = execCnt h a b o w s := rfl
theorem exec_ldi {sb a n} (s : State) : exec (.ldi sb a n) s = execLdi sb a n s := rfl

theorem binary_completes {s : State} {h : Hdr} {a b : Reg} {y : Src} {f g : Word → Word → Word} {r : IntResult}
    (hfg : ∀ p q, f p q = g p q) (hr : intResult.op s h a b y g = some r) (hm : MayIssue s r.reads [codeG r.dest]) :
    ∃ t, binary h a b y f s = .next t ∧ Completed s t r.s (atPc (s.me.arch.setG r.dest r.value) (npc s r.len)) [] := by
  cases hr
  exact issue_writes_g h.s _ hm (by simp only [g_past _ _ (slot_lt hm), val_past _ _ (slot_lt hm)]) (hfg _ _)

/-- Settles O1: each result is written once its value in the model is the one that `intResult` gives. -/
theorem integerResultsWritten : Obligations.IntegerResultsWritten := by
  intro s i r hr hm
  unfold intResult at hr
  split at hr
  case h_1 h a b sz z =>
    cases hr
    rw [exec_mov]
    exact issue_writes_g h.s _ hm (by simp only [g_past _ _ (slot_lt hm)]) (extend_eq_extended ..)
  case h_2 => rw [exec_add]; exact binary_completes (narrow_add _) hr hm
  case h_3 => rw [exec_sub]; exact binary_completes (narrow_sub _) hr hm
  case h_4 => rw [exec_mul]; exact binary_completes (narrow_mul _) hr hm
  case h_5 => rw [exec_mulh]; exact binary_completes (mulHigh_eq _) hr hm
  case h_6 => rw [exec_and]; exact binary_completes (fun _ _ => rfl) hr hm
  case h_7 => rw [exec_or]; exact binary_completes (fun _ _ => rfl) hr hm
  case h_8 => rw [exec_xor]; exact binary_completes (fun _ _ => rfl) hr hm
  case h_9 => rw [exec_shl]; exact binary_completes (shl_eq _) hr hm
  case h_10 => rw [exec_shr]; exact binary_completes (shr_eq _ _) hr hm
  case h_11 => rw [exec_set]; exact binary_completes (fun p q => by rw [setCond_eq_holds]) hr hm
  case h_12 => rw [exec_minmax]; exact binary_completes (minMax_eq _ _) hr hm
  case h_13 h a b y sx ins =>
    cases hr
    rw [exec_bfx]
    exact issue_writes_g h.s _ hm (by simp only [g_past _ _ (slot_lt hm), val_past _ _ (slot_lt hm)]) (bfx_eq ..)
  case h_14 h a b o w =>
    cases hr
    rw [exec_cnt]
    exact issue_writes_g h.s _ hm (by simp only [g_past _ _ (slot_lt hm)]) (count_eq o w _)
  case h_15 sb a n =>
    cases hr
    rw [exec_ldi]
    exact issue_writes_g sb _ hm rfl rfl
  case h_16 => cases hr

-- values on their way (R104), and division (R263)

theorem reg_of_silent {r : Ret} (h : r.silent = true) : r.reg = 0 := by
  simp only [Ret.silent, Bool.and_eq_true, decide_eq_true_eq] at h
  obtain ⟨⟨⟨hreg, -⟩, -⟩, -⟩ := h
  exact hreg

/-- R104: a plain value for g[a] joins the returning values, unless it goes to g0. -/
theorem addRet_plain (m : Slot) (a : Reg) (v : Word) (due chunk src : Option Nat) :
    ∃ new, m.addRet { Ret.plain (codeG a) v with due := due, chunk := chunk, src := src }
        = { m with returns := m.returns ++ new } ∧
      OnItsWay (codeG a) new (fun r => r.value = some v ∧ r.due = due) := by
  by_cases ha : a = 0
  · subst ha
    exact ⟨[], by simp [Slot.addRet, Ret.silent, Ret.plain, codeG], .inl ⟨rfl, by simp⟩⟩
  · have hc : codeG a ≠ 0 := fun h => ha (BitVec.eq_of_toNat_eq h)
    have hn : (BitVec.ofNat 7 (codeG a)).toNat = codeG a := by
      have h := a.isLt
      rw [BitVec.toNat_ofNat, codeG]; omega
    have hz : BitVec.ofNat 7 (codeG a) ≠ 0 := fun h => hc (by rw [← hn, h]; rfl)
    refine ⟨[{ Ret.plain (codeG a) v with due := due, chunk := chunk, src := src, pos := m.openCount }], ?_,
      .inr ⟨hc, _, rfl, hn, rfl, rfl, rfl⟩⟩
    have hs : Ret.silent { Ret.plain (codeG a) v with due := due, chunk := chunk, src := src } = false :=
      Bool.eq_false_iff.2 fun h => hz (reg_of_silent h)
    rw [Slot.addRet, hs]; rfl

theorem myCore_cyc_setSlot (s : State) (m : Slot) : (s.setSlot s.cur m).myCore.cyc = s.myCore.cyc := by
  simp [State.myCore, State.setSlot]

/-- The same where the effect of an instruction sends the value on its way. -/
theorem returning_past (s : State) (info : Info) (h : s.cur.slot < 8) (a : Reg) (v : Word) (due : Option Nat) :
    ∃ new, (s.setSlot s.cur (s.me.past info)).returning (codeG a) v due
        = s.setSlot s.cur { s.me.past info with returns := s.me.returns ++ new } ∧
      OnItsWay (codeG a) new (fun r => r.value = some v ∧ r.due = due) := by
  obtain ⟨new, hnew, hway⟩ := addRet_plain (s.me.past info) a v due (s.me.past info).openNo none
  refine ⟨new, ?_, hway⟩
  rw [Slot.past_returns] at hnew
  rw [State.returning, State.addRet, modMe_setSlot h, State.me_setSlot _ _ h, hnew]

/-- An instruction of a chunk whose effect is to return a value to g[a] completes with it on its way. -/
theorem issue_returns_g {s : State} {reads : List Nat} {a : Reg} {v w : Word} {due : Option Nat} {body : State → Res}
    (sb : Bool) (len : Nat) (h : MayIssue s reads [codeG a])
    (hb : let s' := s.setSlot s.cur (s.me.past (Info.chunked sb len reads [codeG a]))
      body s' = .done (s'.returning (codeG a) w due))
    (hv : w = v) :
    ∃ t new, issue s (Info.chunked sb len reads [codeG a]) none body = .next t ∧
      Completed s t sb (atPc s.me.arch (npc s len)) new ∧
      OnItsWay (codeG a) new (fun r => r.value = some v ∧ r.due = due) := by
  subst hv
  have hi := issues_chunked sb len h
  obtain ⟨new, hnew, hway⟩ := returning_past s (Info.chunked sb len reads [codeG a]) (slot_lt h) a w due
  obtain ⟨t, ht, hc⟩ := issue_completes s _ body _ new hi (hb.trans (congrArg Res.done hnew))
    ⟨rfl, fun _ _ => rfl⟩ rfl (by simp)
  rw [past_arch_eq_atPc] at hc
  exact ⟨t, new, ht, hc, hway⟩

/-- R263: a division's value is on its way, due its latency after issue. -/
theorem dividing_completes {s : State} {h : Hdr} {a b : Reg} {y : Src} {f : Word → Word → Word} (w : Bool) {v : Word}
    (hm : MayIssue s (codeG b :: Src.codes y) [codeG a]) (hv : f (s.g b) (Src.val y s) = v) :
    ∃ t new, dividing h a b y w f s = .next t ∧ Completed s t h.s (atPc s.me.arch (npc s (len0 h (Src.n y)))) new ∧
      OnItsWay (codeG a) new (fun r => r.value = some v ∧ r.due = some (s.myCore.cyc.toNat + if w then 18 else 34)) :=
  issue_returns_g h.s _ hm
    (by simp only [g_past _ _ (slot_lt hm), val_past _ _ (slot_lt hm), myCore_cyc_setSlot, divCycles]) hv

theorem exec_div {h a b y u w} (s : State) : exec (.div h a b y u w) s = execDiv h a b y u w s := rfl
theorem exec_rem {h a b y u w} (s : State) : exec (.rem h a b y u w) s = execRem h a b y u w s := rfl

/-- Settles O2: both divisions are `dividing`, with the quotient and the remainder of R202. -/
theorem divisionReturns : Obligations.DivisionReturns := by
  intro s h a b y u w hm
  rw [exec_div, exec_rem]
  exact ⟨dividing_completes w hm (divQ_eq ..), dividing_completes w hm (divR_eq ..)⟩

-- ADDR (R269, R272)

/-- R269: the offset and the address in the words of the statement. -/
theorem formEa_eq (base : Word) (imm : Int) : formEa base imm =
    (let off : Int := (base.toNat % 2 ^ 41 : Nat) + imm
     (off, base.toNat / 2 ^ 41 * 2 ^ 41 + (off % 2 ^ 41).toNat)) := by
  have hlow : wbits base 40 0 = base.toNat % 2 ^ 41 := by simp [wbits, bits]
  have hhigh : wbits base 63 41 = base.toNat / 2 ^ 41 := by
    have h := base.isLt
    simp only [wbits, bits]; omega
  simp only [formEa, hlow, hhigh]

theorem absolute_past (s : State) (info : Info) (h : s.cur.slot < 8) (x : Nat) :
    (s.setSlot s.cur (s.me.past info)).absolute x = s.absolute x := by
  have hid : (s.me.past info).ids = s.me.ids := by rw [(slotFrame_past s.me info).1]
  have ho : (s.setSlot s.cur (s.me.past info)).ownCore = s.ownCore := by
    rw [State.ownCore, State.me_setSlot _ _ h, hid]; rfl
  simp only [State.absolute, ho]; rfl

theorem exec_addr {h a b rc ws} (s : State) : exec (.addr h a b rc ws) s = execAddr h a b rc ws s := rfl

/-- Settles O11: ADDR does what the address formed by R269 and made absolute under RC says. -/
theorem addrFormsTheAddress : Obligations.AddrFormsTheAddress := by
  intro s h a b rc ws hm
  have hi := issues_chunked h.s (len0 h ws.length) hm
  have hs := slot_lt hm
  rw [exec_addr, execAddr]
  refine ⟨fun ga hga h0 h1 => ?_, fun hga => ?_, fun ga hga hoff => ?_⟩
  · refine issue_writes_g h.s _ hm ?_ rfl
    simp only [g_past _ _ hs, absolute_past _ _ hs, formEa_eq, hga]
    rw [if_neg (by simpa using ⟨h0, h1⟩)]
  · refine issue_trap s _ _ hi ?_
    simp only [State.advance_eq, g_past _ _ hs, absolute_past _ _ hs, formEa_eq, hga]
  · refine issue_trap s _ _ hi ?_
    simp only [State.advance_eq, g_past _ _ hs, absolute_past _ _ hs, formEa_eq, hga]
    rw [if_pos (by simpa using hoff)]

-- what the issue of an instruction leaves as it was, field by field

section
variable {m m' : Slot} (h : SlotFrame m m')
include h
theorem task_of_frame : m'.task = m.task := by rw [h.1]
theorem cover_of_frame : m'.cover = m.cover := by rw [h.1]
theorem seen_of_frame : m'.seen = m.seen := by rw [h.1]
theorem released_of_frame : m'.released = m.released := by rw [h.1]
theorem plive_of_frame : m'.plive = m.plive := by rw [h.1]
end

-- the slot after an instruction of a chunk

/-- The same as `issue_completes`, with the state that follows written out. -/
theorem issue_finish {s : State} {info : Info} {body : State → Res} {m : Slot} (h : Issues s info)
    (hb : body (s.setSlot s.cur (s.me.past info)) = .done (s.setSlot s.cur m)) :
    issue s info none body = .next (s.setSlot s.cur (m.finish info)) := by
  rw [issue_done s info body h hb]
  simp [State.complete, Slot.finish, h.1.1]

@[simp] theorem afterIssue_chunks (m : Slot) (b : Bool) : (m.afterIssue b).chunks = m.chunks := by
  unfold Slot.afterIssue; simp only; split
  · rfl
  · split <;> rfl

/-- R175: every open chunk counts the instruction, and closes at its limit. -/
theorem countIn_chunks (m : Slot) : m.countIn.chunks = m.chunks.map
    (fun c => if c.closed then c else { c with count := c.count + 1, closed := c.limit ≤ c.count + 1 }) := by
  unfold Slot.countIn; simp only; split <;> rfl

theorem finish_chunks (m : Slot) {info : Info} (h : info.sync = false) : (m.finish info).chunks = m.countIn.chunks := by
  simp [Slot.finish, h]

theorem past_chunks (m : Slot) {info : Info} (h : info.sync = false) : (m.past info).chunks = m.openChunk.chunks := by
  simp [Slot.past, h]

/-- R175, R277: where the chunk is to end after the instruction, none is open behind it. -/
theorem closed_of_mem_finish_endAfter {m : Slot} {info : Info} (h : info.sync = false) {c : Chunk}
    (hc : c ∈ (m.endAfter.finish info).chunks) : c.closed = true := by
  rw [finish_chunks _ h, countIn_chunks] at hc
  simp only [Slot.endAfter, Slot.modOpen_chunks, List.map_map, List.mem_map, Function.comp_apply] at hc
  obtain ⟨d, -, rfl⟩ := hc
  cases hd : d.closed <;> simp [hd]

theorem openChunk_of_open {m : Slot} {c : Chunk} (hm : m.chunks = [c]) (hc : c.closed = false) : m.openChunk = m := by
  simp [Slot.openChunk, hm, hc]

/-- R174, R175: outside a series a chunk opens with the registers as they stand and CHUNKMAX as its limit. -/
theorem openChunk_chunks_of_nil {m : Slot} (hm : m.chunks = []) (hs : m.serial = 0)
    (h4 : (tget m.streaks (0, 0) m.chunkNo).1 < 4) : ∃ c, m.openChunk.chunks = [c] ∧ c.saved = m.arch ∧ c.count = 0 ∧
      c.limit = m.arch.chunkmax.toNat ∧ c.closed = false := by
  have hser : m.startSeries = m := by simp [Slot.startSeries, Nat.not_le.2 h4]
  exact ⟨_, by simp [Slot.openChunk, hm, hser]; rfl, by simp [hs]⟩

/-- A slot that its instruction has halted, stopped or ended stays so. -/
theorem finish_status_of_not_going {m : Slot} {info : Info} (h1 : m.status ≠ .ready) (h2 : m.status ≠ .parked) :
    (m.finish info).status = m.status := by
  unfold Slot.finish Slot.afterIssue
  cases info.sync <;> simp [h1, h2]

-- NOP, CHUNK and PLIVE (R277, R377)

theorem exec_nop {sb} (s : State) : exec (.nop sb) s = execNop sb s := rfl
theorem exec_chunk {sb} (s : State) : exec (.chunk sb) s = execChunk sb s := rfl
theorem exec_plive {sb i} (s : State) : exec (.plive sb i) s = execPlive sb i s := rfl
theorem exec_fence {h scope kind} (s : State) : exec (.fence h scope kind) s = execFence h scope kind s := rfl

/-- An instruction of a chunk without an effect of its own. -/
theorem issue_done_completes {s : State} {body : State → Res} (sb : Bool) (len : Nat) (hm : MayIssue s [] [])
    (hb : let s' := s.setSlot s.cur (s.me.past (Info.chunked sb len [] [])); body s' = .done s') :
    ∃ t, issue s (Info.chunked sb len [] []) none body = .next t ∧ Completed s t sb (atPc s.me.arch (npc s len)) [] := by
  obtain ⟨t, ht, hc⟩ := issue_completes s _ body _ [] (issues_chunked sb len hm) hb (slotFrame_refl _) (by simp) (by simp)
  rw [past_arch_eq_atPc] at hc
  exact ⟨t, ht, hc⟩

theorem nop_completes {s : State} (sb : Bool) (hm : MayIssue s [] []) :
    ∃ t, exec (.nop sb) s = .next t ∧ Completed s t sb (atPc s.me.arch (npc s 1)) [] := by
  rw [exec_nop]
  exact issue_done_completes sb 1 hm rfl

theorem slotFrame_endAfter (m : Slot) : SlotFrame m m.endAfter := ⟨rfl, fun _ _ => rfl⟩

theorem chunk_completes {s : State} (sb : Bool) (hm : MayIssue s [] []) :
    ∃ t, exec (.chunk sb) s = .next t ∧ Completed s t sb (atPc s.me.arch (npc s 1)) [] ∧
      ∀ c ∈ t.me.chunks, c.closed = true := by
  rw [exec_chunk]
  have hi := issues_chunked sb 1 hm
  have hb := congrArg Res.done (modMe_setSlot (slot_lt hm) (s.me.past (Info.chunked sb 1 [] [])) (·.endAfter))
  obtain ⟨t, ht, hc⟩ := issue_completes s _ (fun s => .done (s.modMe (·.endAfter))) _ [] hi hb (slotFrame_endAfter _)
    (by simp [Slot.endAfter]) (by simp [Slot.endAfter])
  have harch : (s.me.past (Info.chunked sb 1 [] [])).endAfter.arch = atPc s.me.arch (npc s 1) := past_arch_eq_atPc s _
  rw [harch] at hc
  refine ⟨t, ht, hc, fun c hcm => ?_⟩
  have he := ht.symm.trans (issue_finish hi hb)
  injection he with he
  rw [he, State.me_setSlot _ _ (slot_lt hm)] at hcm
  exact closed_of_mem_finish_endAfter rfl hcm

theorem core_setSlot (s : State) (i : SlotId) (m : Slot) (c : Nat) :
    (s.setSlot i m).core c = if c = i.core then (s.core c).setSlot i.slot m else s.core c := by
  split
  · subst_vars; simp [State.setSlot]
  · rename_i h; simp [State.setSlot, State.core_setCore_other _ _ h]

@[simp] theorem myCtx_setSlot (s : State) (i : SlotId) (m : Slot) : (s.setSlot i m).myCtx = s.myCtx := by
  simp only [State.myCtx, State.myCore, core_setSlot, State.setSlot_cur]
  split <;> simp

theorem inSfu_setSlot (s : State) (m : Slot) : (s.setSlot s.cur m).inSfu s.cur = s.inSfu s.cur := by
  simp [State.inSfu, core_setSlot]

/-- R377: a slot that is no thread of a redundant pair stops where a pre-emption is pending. -/
theorem atPlive_of_unpaired {s : State} (h : ∀ t, s.me.task = some t → t.n ≠ 2) :
    s.atPlive s.cur = if (s.ctx s.myCtx).preempt.isSome then .stops else .goes := by
  have hp : s.partner s.cur = none := by
    unfold State.partner
    cases ht : (s.slot s.cur).task with
    | none => rfl
    | some t => simp [h t ht]
  simp only [State.atPlive, hp, ite_self]

theorem atPlive_past (s : State) (info : Info) (h : s.cur.slot < 8) (ht : ∀ t, s.me.task = some t → t.n ≠ 2) :
    (s.setSlot s.cur (s.me.past info)).atPlive s.cur = if (s.ctx s.myCtx).preempt.isSome then .stops else .goes := by
  have hu := atPlive_of_unpaired (s := s.setSlot s.cur (s.me.past info)) (by
    rw [State.me_setSlot _ _ h, task_of_frame (slotFrame_past _ _)]; exact ht)
  rw [State.setSlot_cur, myCtx_setSlot] at hu
  exact hu

/-- R377: the slot that has stopped at a PLIVE with its entry noted. -/
def stoppedAt (m : Slot) (i : ImmB) : Slot :=
  { m.endAfter with status := .stopped, plive := some ((immVal i).toNat + (if immVal i < 0 then 2 ^ 64 else 0)) }

def pliveInfo (sb : Bool) (i : ImmB) : Info := Info.chunked sb (2 + i.hi.length) [] []

theorem plive_goes {s : State} (sb : Bool) (i : ImmB) (hm : MayIssue s [] []) (hq : s.inSfu s.cur = false)
    (hp : (s.ctx s.myCtx).preempt = none) :
    ∃ t, exec (.plive sb i) s = .next t ∧ Completed s t sb (atPc s.me.arch (npc s (2 + i.hi.length))) [] := by
  refine issue_done_completes sb _ hm ?_
  simp [inSfu_setSlot, hq, atPlive_past s _ (slot_lt hm) (unpaired hm), hp]

theorem plive_stops {s : State} (sb : Bool) (i : ImmB) (hm : MayIssue s [] []) (hq : s.inSfu s.cur = false)
    (hp : (s.ctx s.myCtx).preempt ≠ none) : exec (.plive sb i) s
      = .next (s.setSlot s.cur ((stoppedAt (s.me.past (pliveInfo sb i)) i).finish (pliveInfo sb i))) := by
  rw [exec_plive]
  refine issue_finish (info := pliveInfo sb i) (issues_chunked sb (2 + i.hi.length) hm) ?_
  have hsome : (s.ctx s.myCtx).preempt.isSome = true := Option.isSome_iff_ne_none.2 hp
  simp only [State.setSlot_cur, inSfu_setSlot, hq, Bool.false_eq_true, if_false, atPlive_past s _ (slot_lt hm) (unpaired hm),
    hsome, if_true]
  exact congrArg Res.done (modMe_setSlot (slot_lt hm) _ (stoppedAt · i))

theorem plive_ends {s : State} (sb : Bool) (i : ImmB) (hm : MayIssue s [] []) (hq : s.inSfu s.cur = false) :
    ∃ t, exec (.plive sb i) s = .next t ∧
       t = s.setMe t.me ∧ t.me.arch = atPc s.me.arch (npc s (2 + i.hi.length)) ∧
       ((s.ctx s.myCtx).preempt = none → Completed s t sb t.me.arch []) ∧
       ((s.ctx s.myCtx).preempt ≠ none → t.me.status = .stopped ∧
         (0 ≤ immVal i → t.me.plive = some (immVal i).toNat)) := by
  by_cases hp : (s.ctx s.myCtx).preempt = none
  · obtain ⟨t, ht, hc⟩ := plive_goes sb i hm hq hp
    obtain ⟨hset, -, -, harch, -, -⟩ := id hc
    exact ⟨t, ht, hset, harch, fun _ => harch ▸ hc, fun h => absurd hp h⟩
  · refine ⟨_, plive_stops sb i hm hq hp, ?_, ?_, fun h => absurd h hp, fun _ => ⟨?_, fun h0 => ?_⟩⟩
    all_goals rw [State.me_setSlot _ _ (slot_lt hm)]
    · rfl
    · rw [Slot.finish_arch]; exact past_arch_eq_atPc s (pliveInfo sb i)
    · exact finish_status_of_not_going (by simp [stoppedAt]) (by simp [stoppedAt])
    · rw [plive_of_frame (slotFrame_finish _ _)]
      simp [stoppedAt, Int.not_lt.2 h0]

-- FENCE (R276, R185, R191)

theorem slot_lt_alone {s : State} {reads writes : List Nat} (h : MayIssueAlone s reads writes) : s.cur.slot < 8 := h.1.1

theorem mem_setInsert (l : List Nat) (k j : Nat) : j ∈ setInsert l k ↔ j = k ∨ j ∈ l := by
  induction l with
  | nil => simp [setInsert]
  | cons a l ih =>
    unfold setInsert
    split
    · simp
    · split
      · subst_vars; simp
      · simp only [List.mem_cons, ih]; exact or_left_comm

theorem mem_setUnion (l k : List Nat) (j : Nat) : j ∈ setUnion l k ↔ j ∈ l ∨ j ∈ k := by
  induction k generalizing l with
  | nil => simp [setUnion]
  | cons a k ih =>
    have h : setUnion l (a :: k) = setUnion (setInsert l a) k := rfl
    rw [h, ih, mem_setInsert, List.mem_cons, or_assoc, or_left_comm]

/-- What a FENCE does once nothing holds it back: its release keeps what it covers, its acquire takes over what it has seen
released. -/
def fenced (scope : BitVec 3) (kind : BitVec 2) (s : State) : State :=
  let s := if kind != 2 && 5 ≤ scope.toNat then s.keepCover else s
  if kind != 1 && 5 ≤ scope.toNat then s.joinCover else s

/-- The slot after that; `isOpen` are the writes that are not yet performed. -/
def fencedSlot (scope : BitVec 3) (kind : BitVec 2) (isOpen : Nat → Bool) (m : Slot) : Slot :=
  { m with
    released := if kind != 2 && 5 ≤ scope.toNat then (setUnion m.released m.cover).filter isOpen else m.released
    cover := if kind != 1 && 5 ≤ scope.toNat then setUnion m.cover m.seen else m.cover }

/-- The state with other release marks. -/
def marked (s : State) (marks : Tab (List Nat)) : State := { s with relAt := marks }

/-- R185: the marks that a release leaves: of each, the writes not yet performed. -/
def openMarks (s : State) : Tab (List Nat) := tmap (fun _ ids => ids.filter s.openWrite) s.relAt

theorem keepCover_setSlot {s : State} (h : s.cur.slot < 8) (m : Slot) : (s.setSlot s.cur m).keepCover
    = (marked s (openMarks s)).setSlot s.cur { m with released := (setUnion m.released m.cover).filter s.openWrite } :=
  modMe_setSlot (s := marked s (openMarks s)) h m
    (fun m => { m with released := (setUnion m.released m.cover).filter s.openWrite })

theorem joinCover_setSlot {s : State} (h : s.cur.slot < 8) (m : Slot) :
    (s.setSlot s.cur m).joinCover = s.setSlot s.cur { m with cover := setUnion m.cover m.seen }  :=
  modMe_setSlot h m (fun m => { m with cover := setUnion m.cover m.seen })

theorem myCtx_keepCover (s : State) : s.keepCover.myCtx = s.myCtx :=
  myCtx_setSlot (marked s (openMarks s)) s.cur _

/-- Beside the release marks of memory, a FENCE changes its slot alone. -/
theorem fenced_setSlot (scope : BitVec 3) (kind : BitVec 2) {s : State} (h : s.cur.slot < 8) (m : Slot) : ∃ marks,
    fenced scope kind (s.setSlot s.cur m) = (marked s marks).setSlot s.cur (fencedSlot scope kind s.openWrite m) := by
  unfold fenced fencedSlot
  by_cases hr : (kind != 2 && 5 ≤ scope.toNat) = true
  · refine ⟨openMarks s, ?_⟩
    simp only [hr, if_true, keepCover_setSlot h m]
    split
    · exact joinCover_setSlot (s := marked s (openMarks s)) h _
    · rfl
  · refine ⟨s.relAt, ?_⟩
    simp only [hr]
    split
    · exact joinCover_setSlot h m
    · rfl

theorem releaseCheck_off {s : State} (h : (s.ctx s.myCtx).releaseCheck = false) (a : Word) (w : Half) :
    s.releaseCheck a w = s := by
  simp [State.releaseCheck, h]

/-- R276: nothing holds a FENCE of a slot back. -/
structure FenceGoes (s : State) (scope : BitVec 3) (kind : BitVec 2) : Prop where
  reaches : kind ≠ 2 → 5 ≤ scope.toNat → s.lostWrite s.me.cover = none
  here : kind ≠ 2 → scope = 5 → s.coverHere = false ∧ s.coverFar = false
  far : kind ≠ 2 → scope = 6 → s.coverFar = false
  settled : kind ≠ 1 → 5 ≤ scope.toNat → s.me.returns = []
  unchecked : (s.ctx s.myCtx).releaseCheck = false

def fenceInfo (h : Hdr) (scope : BitVec 3) (kind : BitVec 2) : Info :=
  Info.synch h.s (len0 h 0) [] [] false 4 [scope.setWidth 64, kind.setWidth 64]

theorem fenceGoes_past {s : State} {scope : BitVec 3} {kind : BitVec 2} (hs : s.cur.slot < 8) (g : FenceGoes s scope kind)
    (info : Info) : FenceGoes (s.setSlot s.cur (s.me.past info)) scope kind := by
  have hme := State.me_setSlot s (s.me.past info) hs
  have hcov := cover_of_frame (slotFrame_past s.me info)
  have hh : (s.setSlot s.cur (s.me.past info)).coverHere = s.coverHere := by
    rw [State.coverHere, hme, hcov]; rfl
  have hf : (s.setSlot s.cur (s.me.past info)).coverFar = s.coverFar := by
    rw [State.coverFar, hme, hcov]; rfl
  refine ⟨fun h1 h2 => ?_, fun h1 h2 => ?_, fun h1 h2 => ?_, fun h1 h2 => ?_, ?_⟩
  · rw [hme, hcov]; exact g.reaches h1 h2
  · rw [hh, hf]; exact g.here h1 h2
  · rw [hf]; exact g.far h1 h2
  · rw [hme, Slot.past_returns]; exact g.settled h1 h2
  · rw [myCtx_setSlot]; exact g.unchecked

/-- The effect of a FENCE that nothing holds back. -/
theorem fence_finishes {s : State} {h : Hdr} {scope : BitVec 3} {kind : BitVec 2} (hm : MayIssueAlone s [] [])
    (g : FenceGoes s scope kind) : exec (.fence h scope kind) s
      = .next ((fenced scope kind (s.setSlot s.cur (s.me.past (fenceInfo h scope kind)))).complete s.cur
          (fenceInfo h scope kind)) := by
  rw [exec_fence]
  refine issue_done s (fenceInfo h scope kind) _ ⟨hm.1, hm.2⟩ ?_
  rw [State.advance_eq]
  have hg := fenceGoes_past (slot_lt_alone hm) g (fenceInfo h scope kind)
  generalize s.setSlot s.cur (s.me.past (fenceInfo h scope kind)) = u at hg ⊢
  obtain ⟨hreach, hhere, hfar, hsettled, hoff⟩ := hg
  have h1 : (if kind != 2 && 5 ≤ scope.toNat then u.lostWrite u.me.cover else none) = none := by
    simpa using hreach
  have h2 : (kind != 2 && scope == 5 && (u.coverHere || u.coverFar)) = false := by
    simpa using hhere
  have h3 : (kind != 2 && scope == 6 && u.coverFar) = false := by
    simpa using hfar
  have h4 : (kind != 1 && 5 ≤ scope.toNat && !u.me.returns.isEmpty) = false := by
    simpa using hsettled
  have h5 : ∀ w, (if kind != 2 && 5 ≤ scope.toNat then u.keepCover else u).releaseCheck 0 w
      = if kind != 2 && 5 ≤ scope.toNat then u.keepCover else u := by
    intro w
    split
    · exact releaseCheck_off (by rw [myCtx_keepCover]; exact hoff) 0 w
    · exact releaseCheck_off hoff 0 w
  simp only [h1, h2, h3, h4, h5, Bool.false_eq_true, if_false, ite_self]
  rfl

theorem slot_complete (s : State) (i : SlotId) (info : Info) (h : i.slot < 8) :
    (s.complete i info).slot i = (s.slot i).finish info := by
  rw [State.complete, State.modSlot_eq, State.slot_setSlot _ _ h]; rfl

theorem slot_complete_other (s : State) {i j : SlotId} (info : Info) (h : j ≠ i) : (s.complete i info).slot j = s.slot j :=
  State.slot_setSlot_other _ _ h

/-- R276: what a FENCE that completes leaves in its slot and elsewhere. -/
theorem fence_leaves {s : State} {h : Hdr} {scope : BitVec 3} {kind : BitVec 2} (hm : MayIssueAlone s [] [])
    (g : FenceGoes s scope kind) : ∃ t, exec (.fence h scope kind) s = .next t ∧
      t.slot s.cur = (fencedSlot scope kind s.openWrite (s.me.past (fenceInfo h scope kind))).finish (fenceInfo h scope kind) ∧
      (∀ j, j ≠ s.cur → t.slot j = s.slot j) ∧ ∀ k, t.byte k = s.byte k := by
  obtain ⟨marks, hf⟩ := fenced_setSlot scope kind (slot_lt_alone hm) (s.me.past (fenceInfo h scope kind))
  refine ⟨_, fence_finishes hm g, ?_, fun j hj => ?_, fun k => ?_⟩
  · rw [slot_complete _ _ _ (slot_lt_alone hm), hf, State.slot_setSlot _ _ (slot_lt_alone hm)]
  · rw [slot_complete_other _ _ hj, hf, State.slot_setSlot_other _ _ hj]; rfl
  · rw [hf]; rfl

section
variable (scope : BitVec 3) (kind : BitVec 2) (isOpen : Nat → Bool) (m : Slot) (info : Info)

theorem released_of_fence : ((fencedSlot scope kind isOpen (m.past info)).finish info).released
    = if kind != 2 && 5 ≤ scope.toNat then (setUnion m.released m.cover).filter isOpen else m.released := by
  rw [released_of_frame (slotFrame_finish _ _), fencedSlot, released_of_frame (slotFrame_past m info),
    cover_of_frame (slotFrame_past m info)]

theorem cover_of_fence : ((fencedSlot scope kind isOpen (m.past info)).finish info).cover
    = if kind != 1 && 5 ≤ scope.toNat then setUnion m.cover m.seen else m.cover := by
  rw [cover_of_frame (slotFrame_finish _ _), fencedSlot, cover_of_frame (slotFrame_past m info),
    seen_of_frame (slotFrame_past m info)]
end

theorem fence_ends {s : State} {h : Hdr} {scope : BitVec 3} {kind : BitVec 2} (hm : MayIssueAlone s [] [])
    (g : FenceGoes s scope kind) : ∃ t, exec (.fence h scope kind) s = .next t ∧
      Claims.Effect s t (atPc s.me.arch (npc s (len0 h 0))) [] ∧ StatusAfter s.me (t.slot s.cur) h.s ∧
      (kind ≠ 2 → 5 ≤ scope.toNat → ∀ id ∈ s.me.cover, s.openWrite id = true → id ∈ (t.slot s.cur).released) ∧
      (kind ≠ 1 → 5 ≤ scope.toNat → ∀ id ∈ s.me.cover ++ s.me.seen, id ∈ (t.slot s.cur).cover) ∧
      (scope.toNat < 5 → (t.slot s.cur).released = s.me.released ∧ (t.slot s.cur).cover = s.me.cover) := by
  obtain ⟨t, ht, hslot, hother, hbyte⟩ := fence_leaves (h := h) hm g
  have wide {k : BitVec 2} (hk : kind ≠ k) (h5 : 5 ≤ scope.toNat) : (kind != k && 5 ≤ scope.toNat) = true := by
    rw [Bool.and_eq_true]; exact ⟨bne_iff_ne.2 hk, decide_eq_true h5⟩
  refine ⟨t, ht, ⟨?_, ?_, fun j hj => ?_, hbyte⟩, fun hst => ?_, fun hk h5 id hid ho => ?_,
    fun hk h5 id hid => ?_, fun h5 => ?_⟩
  · rw [hslot, Slot.finish_arch]; exact past_arch_eq_atPc s (fenceInfo h scope kind)
  · rw [hslot, Slot.finish_returns, List.append_nil]; exact Slot.past_returns ..
  · rw [hother j hj]; exact ⟨rfl, rfl⟩
  · rw [hslot]; exact Slot.finish_status _ (fenceInfo h scope kind) ((Slot.past_status s.me _).symm ▸ hst)
  · rw [hslot, released_of_fence, if_pos (wide hk h5), List.mem_filter, mem_setUnion]
    exact ⟨.inr hid, ho⟩
  · rw [hslot, cover_of_fence, if_pos (wide hk h5), mem_setUnion]
    exact List.mem_append.1 hid
  · rw [hslot, released_of_fence, cover_of_fence]
    simp [Nat.not_le.2 h5]

-- chunks that open and count (R174, R175)

theorem nop_finishes {s : State} (sb : Bool) (hm : MayIssue s [] []) : ∃ t, exec (.nop sb) s = .next t ∧
    (t.slot s.cur).chunks = s.me.openChunk.chunks.map
      (fun c => if c.closed then c else { c with count := c.count + 1, closed := c.limit ≤ c.count + 1 }) := by
  rw [exec_nop]
  refine ⟨_, issue_finish (issues_chunked sb 1 hm) rfl, ?_⟩
  rw [State.slot_setSlot _ _ (slot_lt hm), finish_chunks _ rfl, countIn_chunks, past_chunks _ rfl]

theorem nop_counts {s : State} (sb : Bool) {c₀ : Chunk} (hm : MayIssue s [] []) (hc : s.me.chunks = [c₀])
    (hopen : c₀.closed = false) : ∃ t c, exec (.nop sb) s = .next t ∧ (t.slot s.cur).chunks = [c] ∧
      c.saved = c₀.saved ∧ c.count = c₀.count + 1 ∧ (c.closed = true ↔ c₀.limit ≤ c₀.count + 1) := by
  obtain ⟨t, ht, hch⟩ := nop_finishes sb hm
  rw [openChunk_of_open hc hopen, hc, List.map_singleton, hopen, if_neg Bool.false_ne_true] at hch
  exact ⟨t, _, ht, hch, rfl, rfl, decide_eq_true_iff⟩

theorem nop_opens {s : State} (sb : Bool) (hm : MayIssue s [] []) (hc : s.me.chunks = []) (hser : s.me.serial = 0)
    (h4 : (tget s.me.streaks (0, 0) s.me.chunkNo).1 < 4) : ∃ t c, exec (.nop sb) s = .next t ∧ (t.slot s.cur).chunks = [c] ∧
      c.saved = s.me.arch ∧ c.count = 1 ∧ c.limit = s.me.arch.chunkmax.toNat := by
  obtain ⟨t, ht, hch⟩ := nop_finishes sb hm
  obtain ⟨c, hnew, hsaved, hcount, hlimit, hopen⟩ := openChunk_chunks_of_nil hc hser h4
  rw [hnew, List.map_singleton, hopen, if_neg Bool.false_ne_true] at hch
  exact ⟨t, _, ht, hch, hsaved, congrArg (· + 1) hcount, hlimit⟩

/-- Settles O18, clause by clause. -/
theorem fencesAndChunkEnds : Obligations.FencesAndChunkEnds := by
  refine ⟨fun s sb h i scope kind => ⟨nop_completes sb, chunk_completes sb, plive_ends sb i, fun hm h1 h2 h3 h4 h5 =>
    fence_ends hm ⟨h1, h2, h3, h4, h5⟩⟩, fun s sb c₀ hm => ⟨nop_counts sb hm, nop_opens sb hm⟩⟩

end Sys2Proof.Proofs
end

section
/-!
PROOFS. Page 1: the instructions of R282 to R288 write one register and may join flags to FSTAT (R201).
-/
namespace Sys2Proof.Proofs
open Sys2Proof.Machine Sys2Proof.Claims

-- register writes as effects

/-- The slot with flags joined to its FSTAT (R201). -/
def flagged (w : Word) (m : Slot) : Slot := { m with arch := { m.arch with fstat := m.arch.fstat ||| w } }

/-- An effect `f` on a slot is `e` on its registers, whatever the PC, and beside them changes at most what bad parity is
known of. -/
structure WritesRegs (f : Slot → Slot) (e : Arch → Arch) : Prop where
  slot_eq : ∀ m, f m = { m with arch := e m.arch, parity := (f m).parity }
  atPc_eq : ∀ r pc, e (atPc r pc) = atPc (e r) pc

theorem writesRegs_setG (a : Reg) (v : Word) : WritesRegs (·.setG a v) (·.setG a v) := ⟨fun _ => rfl, fun r pc => setG_atPc r a v pc⟩
theorem writesRegs_setF (a : Reg) (v : Single) : WritesRegs (·.setF a v) (·.setF a v) := ⟨fun _ => rfl, fun _ _ => rfl⟩

/-- R201: a register write whose flags join FSTAT. -/
theorem WritesRegs.joinFlags {f : Slot → Slot} {e : Arch → Arch} (h : WritesRegs f e) (fl : Fl) :
    WritesRegs (fun m => flagged fl.word (f m)) (fun r => withFlags (e r) fl) :=
  ⟨fun m => by simp only [flagged]; rw [h.slot_eq m]; rfl, fun r pc => by simp only [h.atPc_eq]; rfl⟩

/-- An instruction of a chunk whose effect is on its slot's registers completes with them changed so. -/
theorem issue_writes_regs {s : State} {reads writes : List Nat} {f : Slot → Slot} {e : Arch → Arch} {body : State → Res}
    (sb : Bool) (len : Nat) (h : MayIssue s reads writes) (hf : WritesRegs f e)
    (hb : let s' := s.setSlot s.cur (s.me.past (Info.chunked sb len reads writes)); body s' = .done (s'.modMe f)) :
    ∃ t, issue s (Info.chunked sb len reads writes) none body = .next t ∧
      Completed s t sb (atPc (e s.me.arch) (npc s len)) [] := by
  have hs := hf.slot_eq (s.me.past (Info.chunked sb len reads writes))
  obtain ⟨t, ht, hc⟩ := issue_completes s _ body _ [] (issues_chunked sb len h)
    (hb.trans (congrArg Res.done (modMe_setSlot (slot_lt h) _ f)))
    (by rw [hs]; exact ⟨rfl, fun _ _ => rfl⟩) (by rw [hs]; simp) (by rw [hs]; simp)
  have ha : (f (s.me.past (Info.chunked sb len reads writes))).arch = atPc (e s.me.arch) (npc s len) := by
    rw [hs, ← hf.atPc_eq]
    exact congrArg e (past_arch_eq_atPc s _)
  exact ⟨t, ht, ha ▸ hc⟩

-- the operands and the two writes with flags, past the instruction's words

section
variable (s : State) (info : Info) (h : s.cur.slot < 8)
include h

theorem f_past (a : Reg) : (s.setSlot s.cur (s.me.past info)).f a = s.f a := by
  simp only [State.f, State.me_setSlot _ _ h, Slot.past_arch]
  rfl

/-- R201: a write of a slot's registers and then its flags are one write. -/
theorem orFstat_modMe_past (f : Slot → Slot) (w : Word) :
    ((s.setSlot s.cur (s.me.past info)).modMe f).orFstat w
      = (s.setSlot s.cur (s.me.past info)).modMe (fun m => flagged w (f m)) := by
  rw [modMe_setSlot h, modMe_setSlot h]
  exact modMe_setSlot h _ (flagged w)

theorem setFf_past (a : Reg) (v : Single × Fl) : (s.setSlot s.cur (s.me.past info)).setFf a v
    = (s.setSlot s.cur (s.me.past info)).modMe (fun m => flagged v.2.word (m.setF a v.1)) :=
  orFstat_modMe_past s info h (·.setF a v.1) v.2.word

theorem setGf_past (a : Reg) (v : Word) (fl : Fl) : (s.setSlot s.cur (s.me.past info)).setGf a v fl
    = (s.setSlot s.cur (s.me.past info)).modMe (fun m => flagged fl.word (m.setG a v)) :=
  orFstat_modMe_past s info h (·.setG a v) fl.word
end

-- the instructions (R282 to R288)

theorem exec_fmov {h a b dir} (s : State) : exec (.fmov h a b dir) s = execFmov h a b dir s := rfl
theorem exec_fadd {h a b c bf rm} (s : State) : exec (.fadd h a b c bf rm) s = execFadd h a b c bf rm s := rfl
theorem exec_fsub {h a b c bf rm} (s : State) : exec (.fsub h a b c bf rm) s = execFsub h a b c bf rm s := rfl
theorem exec_fmul {h a b c bf rm} (s : State) : exec (.fmul h a b c bf rm) s = execFmul h a b c bf rm s := rfl
theorem exec_fmin {h a b c bf} (s : State) : exec (.fmin h a b c bf) s = execFmin h a b c bf s := rfl
theorem exec_fmax {h a b c bf} (s : State) : exec (.fmax h a b c bf) s = execFmax h a b c bf s := rfl
theorem exec_fma {sb a b c neg bf rm} (s : State) :
    exec (.fma sb a b c neg bf rm) s = execFma sb a b c neg bf rm s := rfl
theorem exec_fsgn {h a b c op bf} (s : State) : exec (.fsgn h a b c op bf) s = execFsgn h a b c op bf s := rfl
theorem exec_fcmp {h a b c cond} (s : State) : exec (.fcmp h a b c cond) s = execFcmp h a b c cond s := rfl
theorem exec_fclass {h a b bf} (s : State) : exec (.fclass h a b bf) s = execFclass h a b bf s := rfl
theorem exec_fcvt {h a b code rm} (s : State) : exec (.fcvt h a b code rm) s = execFcvt h a b code rm s := rfl
theorem exec_fldi {sb a n} (s : State) : exec (.fldi sb a n) s = execFldi sb a n s := rfl

/-- R282: an instruction on f[b] and f[c] completes with its result in f[a] and its flags in FSTAT. -/
theorem floatOp_completes {s : State} {h : Hdr} {a b c : Reg} {bf : Bool} {op : Nat → Nat → Nat → Nat × Fl}
    {r : FloatResult} (hr : floatResult.two s h a b c (lanes bf (fun p x y _ => op p x y) (s.f b) (s.f c) 0) = some r)
    (hm : MayIssue s r.reads r.writes) :
    ∃ t, floatOp h a b c bf op s = .next t ∧ Completed s t r.s (atPc r.after (npc s r.len)) [] := by
  cases hr
  have hs := slot_lt hm
  exact issue_writes_regs h.s _ hm ((writesRegs_setF a _).joinFlags _) (by simp only [f_past _ _ hs, setFf_past _ _ hs])

/-- R288: the immediate of FLDI is its low 32 bits. -/
theorem setWidth_i64 (v : Int) : (i64 v).setWidth 32 = BitVec.ofInt 32 v := by
  apply BitVec.eq_of_toNat_eq
  simp only [i64, BitVec.toNat_setWidth, BitVec.toNat_ofInt]
  omega

/-- R283: each direction of FMOV writes what it reads, in the words of the statement. -/
theorem fmov_completes {s : State} {h : Hdr} {a b : Reg} {dir : BitVec 2} {r : FloatResult}
    (hr : floatResult s (.fmov h a b dir) = some r) (hm : MayIssue s r.reads r.writes) :
    ∃ t, execFmov h a b dir s = .next t ∧ Completed s t r.s (atPc r.after (npc s r.len)) [] := by
  have hs := slot_lt hm
  have hd : ∀ d : BitVec 2, d = 0 ∨ d = 1 ∨ d = 2 ∨ d = 3 := by decide
  rcases hd dir with rfl | rfl | rfl | rfl
  all_goals cases hr
  · exact issue_writes_regs h.s _ hm (writesRegs_setF a _) (by simp only [f_past _ _ hs]; rfl)
  · exact issue_writes_regs h.s _ hm (writesRegs_setF a _) (by simp only [g_past _ _ hs, ← BitVec.ofNat_toNat]; rfl)
  · exact issue_writes_regs h.s _ hm (writesRegs_setG a _) (by simp only [f_past _ _ hs, ← BitVec.ofNat_toNat]; rfl)
  · exact issue_writes_regs h.s _ hm (writesRegs_setG a _) (by simp only [f_past _ _ hs, ← BitVec.ofNat_toNat]; rfl)

/-- R287: FCVT by whether its code converts to an integer or to a float. -/
theorem fcvt_completes {s : State} {h : Hdr} {a b : Reg} {code : BitVec 5} {rm : BitVec 2} {r : FloatResult}
    (hr : floatResult s (.fcvt h a b code rm) = some r) (hm : MayIssue s r.reads r.writes) :
    ∃ t, execFcvt h a b code rm s = .next t ∧ Completed s t r.s (atPc r.after (npc s r.len)) [] := by
  unfold floatResult at hr
  unfold execFcvt
  by_cases hi : code.toNat ≤ 3
  · have h4 : ¬ 4 ≤ code.toNat := by omega
    simp only [hi, h4, decide_false, Bool.false_and, Bool.false_eq_true, if_true, if_false] at hr ⊢
    cases hr
    have hs := slot_lt hm
    exact issue_writes_regs h.s _ hm ((writesRegs_setG a _).joinFlags _) (by simp only [f_past _ _ hs, setGf_past _ _ hs])
  · have h4 : 4 ≤ code.toNat := by omega
    simp only [hi, h4, decide_true, Bool.true_and, decide_eq_true_eq, if_false] at hr ⊢
    cases hr
    have hs := slot_lt hm
    exact issue_writes_regs h.s _ hm ((writesRegs_setF a _).joinFlags _)
      (by simp only [f_past _ _ hs, g_past _ _ hs, setFf_past _ _ hs])

/-- Settles O4: each instruction's effect is the write of registers that `floatResult` gives. -/
theorem floatResultsWritten : Obligations.FloatResultsWritten := by
  intro s i r hr hm
  have hs := slot_lt hm
  cases i
  case fmov => rw [exec_fmov]; exact fmov_completes hr hm
  case fadd => rw [exec_fadd]; exact floatOp_completes hr hm
  case fsub => rw [exec_fsub]; exact floatOp_completes hr hm
  case fmul => rw [exec_fmul]; exact floatOp_completes hr hm
  case fmin => rw [exec_fmin]; exact floatOp_completes hr hm
  case fmax => rw [exec_fmax]; exact floatOp_completes hr hm
  case fma sb a b c neg bf rm =>
    cases hr
    rw [exec_fma]
    exact issue_writes_regs sb _ hm ((writesRegs_setF a _).joinFlags _) (by simp only [f_past _ _ hs, setFf_past _ _ hs])
  case fsgn h a b c op bf =>
    cases hr
    have hreads : [codeF b] ++ (if op = 3 then [] else [codeF c]) = if op = 3 then [codeF b] else [codeF b, codeF c] := by
      split <;> rfl
    rw [exec_fsgn, execFsgn, hreads]
    exact issue_writes_regs h.s _ hm (writesRegs_setF a _) (by simp only [f_past _ _ hs]; rfl)
  case fcmp h a b c cond =>
    cases hr
    rw [exec_fcmp]
    exact issue_writes_regs h.s _ hm ((writesRegs_setG a _).joinFlags _) (by simp only [f_past _ _ hs, setGf_past _ _ hs])
  case fclass h a b bf =>
    cases hr
    rw [exec_fclass]
    exact issue_writes_regs h.s _ hm (writesRegs_setG a _) (by simp only [f_past _ _ hs]; rfl)
  case fcvt => rw [exec_fcvt]; exact fcvt_completes hr hm
  case fldi sb a n =>
    cases hr
    rw [exec_fldi, ← setWidth_i64]
    exact issue_writes_regs sb _ hm (writesRegs_setF a _) rfl
  all_goals cases hr

end Sys2Proof.Proofs
end

section
/-!
PROOFS. Page 4: QALT, QSTAT, ROLE and RECAST read the slot's channels, its identity registers and the status of a recast,
none of which the issue of an instruction changes.
-/
namespace Sys2Proof.Proofs
open Sys2Proof.Machine Sys2Proof.Claims

-- what the issue of an instruction leaves as it was, beside the fields of page 0

section
variable {m m' : Slot} (h : SlotFrame m m')
include h
theorem q_of_frame : m'.q = m.q := by rw [h.1]
theorem fifo_of_frame : m'.fifo = m.fifo := by rw [h.1]
theorem ids_of_frame : m'.ids = m.ids := by rw [h.1]

theorem qreg_of_frame (n : Nat) : m'.qreg n = m.qreg n := by rw [Slot.qreg, q_of_frame h, Slot.qreg]
theorem fifoOf_of_frame (kind : Nat) : m'.fifoOf kind = m.fifoOf kind := by
  rw [Slot.fifoOf, fifo_of_frame h, Slot.fifoOf]
theorem qReady_of_frame (n : Nat) : m'.qReady n = m.qReady n := by
  simp only [Slot.qReady, qreg_of_frame h, fifoOf_of_frame h]
end

/-- A synchronising instruction keeps what its slot has been answered while it waited. -/
theorem past_resume (m : Slot) (info : Info) : (m.past info).resume = m.resume := by
  unfold Slot.past
  cases info.sync
  · simp only [Bool.false_eq_true, if_false]
    rw [Slot.openChunk_eq]
  · rfl

-- the state of a queue register (R117) beside the fields that issue changes

section
variable {s : State} {m : Slot} (hs : s.cur.slot < 8)
include hs

/-- What the issuing slot keeps, every slot keeps. -/
theorem slot_setSlot_keeps {α : Type} (f : Slot → α) (hf : f m = f s.me) (j : SlotId) :
    f ((s.setSlot s.cur m).slot j) = f (s.slot j) := by
  by_cases hj : j = s.cur
  · subst hj
    rw [State.slot_setSlot _ _ hs, hf]; rfl
  · rw [State.slot_setSlot_other _ _ hj]

variable (hf : SlotFrame s.me m) (hst : m.status = s.me.status)
include hf hst

theorem resultRoom_setSlot (j : SlotId) (kind : Nat) (t : Option TaskRef) :
    (s.setSlot s.cur m).resultRoom j kind t = s.resultRoom j kind t := by
  have hseal : ((s.setSlot s.cur m).core j.core).sealed = (s.core j.core).sealed := by
    rw [core_setSlot]; split <;> rfl
  have htask := slot_setSlot_keeps hs (·.task) (task_of_frame hf) j
  have hstatus := slot_setSlot_keeps hs (·.status) hst j
  have hq := fun n => slot_setSlot_keeps hs (·.qreg n) (qreg_of_frame hf n) j
  have hfifo := slot_setSlot_keeps hs (·.fifoOf kind) (fifoOf_of_frame hf kind) j
  simp only [State.resultRoom, State.sameTask, State.bound, hseal, htask, hstatus, hq, hfifo]

theorem opsHeld_setSlot (j : SlotId) (kind : Nat) : (s.setSlot s.cur m).opsHeld j kind = s.opsHeld j kind := by
  have hcopy : ∀ c, ((s.setSlot s.cur m).core c).copy = (s.core c).copy := fun c => by
    rw [core_setSlot]; split <;> rfl
  have hstalls : ∀ c, (s.setSlot s.cur m).copyStalls c = s.copyStalls c := fun c => by
    simp only [State.copyStalls, hcopy, resultRoom_setSlot hs hf hst]
  unfold State.opsHeld
  split
  · rw [hcopy, hstalls]
  · rfl
  · rw [slot_setSlot_keeps hs (·.fifoOf kind) (fifoOf_of_frame hf kind) j]

theorem qstat_setSlot (j : SlotId) (n : Nat) : (s.setSlot s.cur m).qstat j n = s.qstat j n := by
  have hq := slot_setSlot_keeps hs (·.qreg n) (qreg_of_frame hf n) j
  have hfifo := fun k => slot_setSlot_keeps hs (·.fifoOf k) (fifoOf_of_frame hf k) j
  simp only [State.qstat, hq, hfifo, opsHeld_setSlot hs hf hst]
end

-- instructions that write, or return, one value

theorem slot_lt_of_issues {s : State} {info : Info} (h : Issues s info) : s.cur.slot < 8 := h.1.1

/-- An instruction of any kind whose effect is to write a value to g[a] completes with it there. -/
theorem issue_writes_g_of_issues {s : State} {info : Info} {a : Reg} {v : Word} {body : State → Res} (hi : Issues s info)
    (hb : let s' := s.setSlot s.cur (s.me.past info); body s' = .done (s'.setG a v)) :
    ∃ t, issue s info none body = .next t ∧ Completed s t info.s (atPc (s.me.arch.setG a v) (npc s info.len)) [] := by
  obtain ⟨t, ht, hc⟩ := issue_completes s info body _ [] hi
    (hb.trans (congrArg Res.done (setG_past s info (slot_lt_of_issues hi) a v))) (slotFrame_setG _ a v) (by simp) (by simp)
  rw [Slot.setG_arch, past_arch_eq_atPc, setG_atPc] at hc
  exact ⟨t, ht, hc⟩

theorem effect_of_completed {s t : State} {sb : Bool} {r : Arch} {new : List Ret} (hs : s.cur.slot < 8)
    (h : Completed s t sb r new) : Claims.Effect s t r new := by
  obtain ⟨hset, -, -, harch, hreturns, hbyte⟩ := h
  have hcur : t.slot s.cur = t.me := by rw [hset, State.setMe_eq, State.slot_setSlot _ _ hs, State.me_setSlot _ _ hs]
  refine ⟨hcur ▸ harch, hcur ▸ hreturns, fun j hj => ?_, hbyte⟩
  rw [hset, State.setMe_eq, State.slot_setSlot_other _ _ hj]
  exact ⟨rfl, rfl⟩

theorem onItsWay_mono {code : Nat} {new : List Ret} {p p' : Ret → Prop} (h : OnItsWay code new p) (hp : ∀ r, p r → p' r) :
    OnItsWay code new p' := by
  rcases h with h | ⟨hc, r, hnew, hreg, hflags, hr⟩
  · exact .inl h
  · exact .inr ⟨hc, r, hnew, hreg, hflags, hp r hr⟩

/-- An instruction whose effect is to answer g[a] with a value has that value on its way. -/
theorem issue_answers {s : State} {info : Info} {a : Reg} {v : Word} {body : State → Res} (hi : Issues s info)
    (hb : let s' := s.setSlot s.cur (s.me.past info); body s' = .done (s'.addRet (Ret.plain (codeG a) v))) :
    ∃ t new, issue s info none body = .next t ∧ Claims.Effect s t (atPc s.me.arch (npc s info.len)) new ∧
      OnItsWay (codeG a) new (fun r => r.value = some v) := by
  have hs := slot_lt_of_issues hi
  obtain ⟨new, hnew, hway⟩ := addRet_plain (s.me.past info) a v none none none
  obtain ⟨t, ht, hc⟩ := issue_completes s info body { s.me.past info with returns := (s.me.past info).returns ++ new } new hi
    (by rw [hb, State.addRet, modMe_setSlot hs]; exact congrArg (fun m => Res.done (s.setSlot s.cur m)) hnew)
    ⟨rfl, fun _ _ => rfl⟩ (by simp) (by simp)
  rw [past_arch_eq_atPc] at hc
  exact ⟨t, new, ht, effect_of_completed hs hc, onItsWay_mono hway fun _ h => h.1⟩

theorem wbits_low (x : Word) (h : Nat) : wbits x h 0 = x.toNat % 2 ^ (h + 1) := by
  simp [wbits, bits]

-- QALT (R335, R232)

theorem find?_upFrom {p : Nat → Bool} {n : Nat} (hp : p n = true) : ∀ {k a : Nat}, a ≤ n → n < a + k →
    (∀ m, a ≤ m → m < n → p m = false) → (upFrom a k).find? p = some n := by
  intro k
  induction k with
  | zero => intro a h1 h2; omega
  | succ k ih =>
    intro a h1 h2 hmin
    rw [upFrom, List.find?_cons]
    by_cases ha : a = n
    · rw [ha, hp]
    · rw [hmin a (Nat.le_refl a) (by omega)]
      exact ih (by omega) (by omega) fun m hm => hmin m (by omega)

/-- R335: the mask of QALT, bit by bit. -/
theorem mask_bit (x : Word) {n : Nat} (hn : n < 16) : (x.toNat % 2 ^ 16 / 2 ^ n % 2 == 1) = x.getLsbD n := by
  rw [← BitVec.testBit_toNat, beq_eq_decide, ← Nat.testBit_eq_decide_div_mod_eq, Nat.testBit_mod_two_pow]
  simp [hn]

theorem mask_ne_zero {x : Word} {n : Nat} (hn : n < 16) (hx : x.getLsbD n = true) : x.toNat % 2 ^ 16 ≠ 0 := fun h0 => by
  rw [← mask_bit x hn, h0] at hx
  simp at hx

theorem exec_qalt {sb a b} (s : State) : exec (.qalt sb a b) s = execQalt sb a b s := rfl

theorem qalt_answers {s : State} (sb : Bool) {a b : Reg} {n : Nat} (hm : MayIssueAlone s [codeG b] [codeG a]) (hn : n < 16)
    (hbit : (s.g b).getLsbD n = true) (hready : s.me.qReady n = true)
    (hmin : ∀ m, m < n → (s.g b).getLsbD m = true → s.me.qReady m = false) :
    ∃ t new, exec (.qalt sb a b) s = .next t ∧ Claims.Effect s t (atPc s.me.arch (npc s 2)) new ∧
      OnItsWay (codeG a) new (fun r => r.value = some (w64 n)) := by
  have hs := slot_lt_alone hm
  have hfind : (upFrom 0 16).find? (fun k => (s.g b).toNat % 2 ^ 16 / 2 ^ k % 2 == 1 && s.me.qReady k) = some n := by
    refine find?_upFrom ?_ (Nat.zero_le n) (by omega) fun m _ hlt => ?_
    · rw [mask_bit _ hn, hbit, hready]; rfl
    · rw [mask_bit _ (by omega), Bool.and_eq_false_imp]
      exact hmin m hlt
  rw [exec_qalt]
  refine issue_answers (info := Info.synch sb 2 [codeG b] [codeG a] true 13 [s.g b]) hm ?_
  simp only [g_past _ _ hs, State.me_setSlot _ _ hs, qReady_of_frame (slotFrame_past _ _), wbits_low]
  rw [if_neg (mask_ne_zero hn hbit), hfind]

/-- R232: a mask without a register is ILLEGAL. -/
theorem qalt_of_empty_mask {s : State} (sb : Bool) {a b : Reg} (hm : MayIssueAlone s [codeG b] [codeG a])
    (h0 : (s.g b).toNat % 2 ^ 16 = 0) :
    ∃ w, exec (.qalt sb a b) s = .next (s.takeTrap s.cur .illegal w s.pc) := by
  rw [exec_qalt]
  refine ⟨(Instr.firstWord (.qalt sb a b)).setWidth 64,
    issue_trap s (Info.synch sb 2 [codeG b] [codeG a] true 13 [s.g b]) _ hm ?_⟩
  simp only [State.advance_eq, g_past _ _ (slot_lt_alone hm), wbits_low]
  rw [if_pos h0]

-- QSTAT and ROLE (R336, R345)

/-- What QSTAT and ROLE issue as: an instruction of a chunk whose result a redundant pair obtains from outside (R121). -/
def snapshotInfo (sb : Bool) (reads : List Nat) (a : Reg) : Info := { Info.chunked sb 2 reads [codeG a] with ext := true }

theorem exec_qstat {sb a q} (s : State) : exec (.qstat sb a q) s = execQstat sb a q s := rfl
theorem exec_role {sb a} (s : State) : exec (.role sb a) s = execRole sb a s := rfl

theorem qstat_completes {s : State} (sb : Bool) {a : Reg} {q : BitVec 4} (hm : MayIssue s [codeQ q] [codeG a]) :
    ∃ t, exec (.qstat sb a q) s = .next t ∧
      Completed s t sb (atPc (s.me.arch.setG a (s.qstat s.cur q.toNat)) (npc s 2)) [] := by
  rw [exec_qstat]
  refine issue_writes_g_of_issues (info := snapshotInfo sb [codeQ q] a) hm ?_
  simp only [State.setSlot_cur, qstat_setSlot (slot_lt hm) (slotFrame_past _ _) (Slot.past_status _ _)]

theorem role_completes {s : State} (sb : Bool) {a : Reg} (hm : MayIssue s [] [codeG a]) :
    ∃ t, exec (.role sb a) s = .next t ∧
      Completed s t sb (atPc (s.me.arch.setG a ((s.me.ids[18]?).getD 0)) (npc s 2)) [] := by
  rw [exec_role]
  refine issue_writes_g_of_issues (info := snapshotInfo sb [] a) hm ?_
  simp only [State.me_setSlot _ _ (slot_lt hm), ids_of_frame (slotFrame_past _ _)]

-- RECAST (R344, R101)

theorem exec_recast {sb a b c} (s : State) : exec (.recast sb a b c) s = execRecast sb a b c s := rfl

/-- R344, R101: the status that a RECAST of a core that exists has for its role and for what its slot has been answered. -/
def recastStatus (role : Nat) (resume : Option Resume) : Option Word :=
  if role = 0 ∨ 8 < role then some 3 else resume.map (·.value)

theorem recastStatus_of_no_role {role : Nat} (h : role = 0 ∨ 8 < role) (resume : Option Resume) :
    recastStatus role resume = some 3 := if_pos h
theorem recastStatus_of_answer {role : Nat} (h1 : 1 ≤ role) (h8 : role ≤ 8) (r : Resume) :
    recastStatus role (some r) = some r.value := if_neg (by omega)

theorem recast_answers {s : State} (sb : Bool) {a b c : Reg} {v : Word} (hm : MayIssueAlone s [codeG b, codeG c] [codeG a])
    (hcore : ((s.ctx s.myCtx).phys ((s.g b).toNat % 2 ^ 12)).isSome)
    (hv : recastStatus ((s.g c).toNat % 16) s.me.resume = some v) :
    ∃ t new, exec (.recast sb a b c) s = .next t ∧ Claims.Effect s t (atPc s.me.arch (npc s 3)) new ∧
      OnItsWay (codeG a) new (fun x => x.value = some v) := by
  have hs := slot_lt_alone hm
  obtain ⟨target, htarget⟩ := Option.isSome_iff_exists.1 hcore
  rw [exec_recast]
  refine issue_answers (info := Info.synch sb 3 [codeG b, codeG c] [codeG a] true 14 [s.g b, s.g c]) hm ?_
  have hctx : ∀ m k, (s.setSlot s.cur m).ctx k = s.ctx k := fun _ _ => rfl
  have hrole : wbits (s.g c) 3 0 = (s.g c).toNat % 16 := wbits_low ..
  have hid : wbits (s.g b) 11 0 = (s.g b).toNat % 2 ^ 12 := wbits_low ..
  simp only [g_past _ _ hs, State.me_setSlot _ _ hs, past_resume, myCtx_setSlot, hctx, hrole, hid, htarget,
    Bool.or_eq_true, decide_eq_true_eq]
  unfold recastStatus at hv
  split at hv
  · next hbad =>
    cases hv
    rw [if_pos hbad]
  · next hgood =>
    obtain ⟨r, hr, rfl⟩ := Option.map_eq_some_iff.1 hv
    rw [if_neg hgood, hr]

/-- Settles O14, instruction by instruction. -/
theorem channelStateReads : Obligations.ChannelStateReads := by
  intro s sb a b c q
  refine ⟨fun n => qalt_answers sb, qalt_of_empty_mask sb, qstat_completes sb, role_completes sb,
    fun hm hcore => ⟨fun r hr h1 h8 => ?_, fun hbad => ?_⟩⟩
  · exact recast_answers sb hm hcore (hr ▸ recastStatus_of_answer h1 h8 r)
  · exact recast_answers sb hm hcore (recastStatus_of_no_role hbad _)

end Sys2Proof.Proofs
end

section
/-!
PROOFS. Page 6: SRD and SWR read and write the registers of R108 by the mode of their slot (R109, R140, R274), and IDR the
identity registers (R375).
-/
namespace Sys2Proof.Proofs
open Sys2Proof.Machine Sys2Proof.Claims

theorem exec_srd {sb a i} (s : State) : exec (.srd sb a i) s = execSrd sb a i s := rfl
theorem exec_swr {sb a i} (s : State) : exec (.swr sb a i) s = execSwr sb a i s := rfl
theorem exec_idr {sb a b} (s : State) : exec (.idr sb a b) s = execIdr sb a b s := rfl

-- the registers and their values (R108)

/-- The table of the statement lists what the model reads. -/
theorem mem_sysValues_iff {s : State} {idx : Int} {v : Word} : (idx, v) ∈ sysValues s ↔ s.sysReg idx = some v := by
  have hcap : netcap = 0x1008401010 := by decide
  constructor
  · have h : ∀ p ∈ sysValues s, s.sysReg p.1 = some p.2 := by simp [sysValues, State.sysReg, hcap]
    exact h (idx, v)
  · intro h
    unfold State.sysReg at h
    split at h <;> cases h <;> simp [sysValues, hcap]

theorem sysReg_eq_none {s : State} {idx : Int} (h : ∀ p ∈ sysValues s, p.1 ≠ idx) : s.sysReg idx = none :=
  Option.eq_none_iff_forall_ne_some.2 fun v hv => h (idx, v) (mem_sysValues_iff.2 hv) rfl

theorem and_low_mask (n : Nat) (x : Word) : x &&& w64 (2 ^ n - 1) = w64 (x.toNat % 2 ^ n) := by
  apply BitVec.eq_of_getLsbD_eq
  intro i hi
  simp only [w64, BitVec.getLsbD_and, BitVec.getLsbD_ofNat, Nat.testBit_two_pow_sub_one, Nat.testBit_mod_two_pow,
    BitVec.testBit_toNat, hi, decide_true, Bool.true_and, Bool.and_comm]

/-- R315: the five flags of MSTAT written, as a number. -/
theorem mstat_flags_eq (m v : Word) :
    (m &&& ~~~(0x1F : Word)) ||| (v &&& 0x1F) = w64 (m.toNat / 32 * 32 + v.toNat % 32) := by
  have h := insert_eq m v 0 5
  simpa [w64, Nat.mod_one, Nat.add_comm] using h

-- what SWR writes (R108, R109, R222)

/-- The slot with its own part of an SWR written. -/
def swrSlot (m : Slot) (idx : Int) (v : Word) : Slot :=
  { m with arch := swrArch m.arch idx v, mstat := swrMstat m.mstat idx v }

/-- A change of a core beside its slots, and a write of one of them, in either order. -/
theorem modCore_setSlot (s : State) (i : SlotId) (m : Slot) (f : Core → Core)
    (hf : ∀ c, f (c.setSlot i.slot m) = (f c).setSlot i.slot m) :
    (s.setSlot i m).modCore i.core f = (s.modCore i.core f).setSlot i m := by
  simp [State.setSlot, State.modCore, hf]

theorem swrCore_of_user {s : State} (h : s.me.arch.sup = false) (idx : Int) (v : Word) : swrCore s idx v = s := if_pos h

theorem swrCore_of_slot {s : State} {idx : Int} (h : idx ∉ [0x1B, 0x1C, 0x20]) (v : Word) : swrCore s idx v = s := by
  simp only [List.mem_cons, List.not_mem_nil, or_false, not_or] at h
  simp [swrCore, h]

theorem swrSlot_of_readOnly {m : Slot} {idx : Int} (h : sysUserRo idx = true) (hu : m.arch.sup = false) (v : Word) :
    swrSlot m idx v = m := by
  simp only [sysUserRo, Bool.or_eq_true, beq_iff_eq, or_assoc] at h
  rcases h with rfl | rfl | rfl | rfl | rfl
  all_goals simp [swrSlot, swrArch, swrMstat, hu]

theorem setSysReg_of_readOnly {s : State} {idx : Int} (h : sysUserRo idx = true) (hu : s.me.arch.sup = false) (v : Word) :
    s.setSysReg idx v = s := if_pos (by rw [h, hu]; rfl)

/-- R108: a write of a register that the slot's mode may write, of the slot or of the core. -/
theorem setSysReg_of_mayWrite {s : State} (hs : s.cur.slot < 8) {m : Slot} (hsup : m.arch.sup = s.me.arch.sup) {idx : Int}
    (hmay : sysUserRo idx = true ∨ sysPriv idx = true → s.me.arch.sup = true) (v : Word) :
    (s.setSlot s.cur m).setSysReg idx v = (swrCore s idx v).setSlot s.cur (swrSlot m idx v) := by
  have hgo : (sysUserRo idx && !m.arch.sup) = false := by
    rw [hsup, Bool.and_eq_false_imp, Bool.not_eq_false']
    exact fun h => hmay (.inl h)
  have hcause : v &&& 0xFF = w64 (v.toNat % 256) := and_low_mask 8 v
  have hflags : v &&& 0x3F = w64 (v.toNat % 64) := and_low_mask 6 v
  have hfinj : v &&& 0x3FFFFF = w64 (v.toNat % 2 ^ 22) := and_low_mask 22 v
  unfold State.setSysReg
  rw [State.me_setSlot _ _ hs]
  simp only [hgo, Bool.false_eq_true, if_false]
  split
  -- XCAUSE, XVAL, XPC and XSTAT
  case h_1 | h_2 | h_3 | h_4 =>
    rw [swrCore_of_slot (by decide)]
    refine (modMe_setSlot hs m _).trans ?_
    simp only [swrSlot, swrArch, swrMstat, hsup, hmay (by decide), hcause]
    rfl
  -- PREEMPTDL, RECASTWAIT and FINJ
  case h_13 | h_14 | h_15 =>
    refine (modCore_setSlot s s.cur m _ fun _ => rfl).trans ?_
    simp only [swrCore, swrSlot, swrArch, swrMstat, hmay (by decide), Core.writeFinj, hfinj]
    rfl
  -- registers that no SWR writes
  case h_16 => simp_all [swrSlot, swrArch, swrMstat, swrCore]
  all_goals
    rw [swrCore_of_slot (by decide)]
    refine (modMe_setSlot hs m _).trans ?_
    simp only [swrSlot, swrArch, swrMstat, hflags, mstat_flags_eq]
    rfl

/-- R108, R109: an SWR writes its slot's part and its core's part, and nothing where its mode may only read. -/
theorem setSysReg_setSlot {s : State} (hs : s.cur.slot < 8) {m : Slot} (hsup : m.arch.sup = s.me.arch.sup)
    {idx : Int} (hp : sysPriv idx = true → s.me.arch.sup = true) (v : Word) :
    (s.setSlot s.cur m).setSysReg idx v = (swrCore s idx v).setSlot s.cur (swrSlot m idx v) := by
  by_cases hro : sysUserRo idx = true ∧ m.arch.sup = false
  · obtain ⟨hidx, hu⟩ := hro
    rw [swrCore_of_user (hsup ▸ hu), swrSlot_of_readOnly hidx hu]
    exact setSysReg_of_readOnly hidx (by rw [State.me_setSlot _ _ hs, hu]) v
  · refine setSysReg_of_mayWrite hs hsup (fun h => ?_) v
    rcases h with h | h
    · rw [← hsup]; simpa [h] using hro
    · exact hp h

theorem swrArch_atPc (r : Arch) (pc : Word) (idx : Int) (v : Word) :
    swrArch (atPc r pc) idx v = atPc (swrArch r idx v) pc := by
  unfold swrArch
  simp only [apply_ite (atPc · pc)]
  rfl

theorem slotFrame_swrSlot {m m' : Slot} (h : SlotFrame m m') (idx : Int) (v : Word) :
    SlotFrame { m with mstat := swrMstat m.mstat idx v } (swrSlot m' idx v) := by
  obtain ⟨hm, hc⟩ := h
  exact ⟨by rw [swrSlot, hm], hc⟩

-- what a register reads past the issue of an instruction

section
variable {m m' : Slot} (h : SlotFrame m m')
include h
theorem squashes_of_frame : m'.squashes = m.squashes := by rw [h.1]
theorem detlvl_of_frame : m'.detlvl = m.detlvl := by rw [h.1]
theorem mstat_of_frame : m'.mstat = m.mstat := by rw [h.1]
end

theorem past_xstat (m : Slot) (info : Info) : (m.past info).xstat = m.xstat := by
  simp only [Slot.xstat, Slot.past_arch, task_of_frame (slotFrame_past m info)]

@[simp] theorem setSlot_vbusy (c : Core) (n : Nat) (m : Slot) : (c.setSlot n m).vbusy = c.vbusy := rfl

theorem myCore_setSlot (s : State) (m : Slot) : (s.setSlot s.cur m).myCore = s.myCore.setSlot s.cur.slot m := by
  simp [State.myCore, core_setSlot]

theorem mstat_past (s : State) (info : Info) (h : s.cur.slot < 8) :
    (s.setSlot s.cur (s.me.past info)).mstat s.cur = s.mstat s.cur := by
  have hf := slotFrame_past s.me info
  simp only [State.mstat, State.slot_setSlot _ _ h, mstat_of_frame hf, task_of_frame hf, core_setSlot, if_true,
    Core.setSlot_checks, Core.setSlot_tens]
  rfl

/-- R108: no system register reads what the issue of an instruction changes of its slot. -/
theorem sysReg_past (s : State) (info : Info) (h : s.cur.slot < 8) (idx : Int) :
    (s.setSlot s.cur (s.me.past info)).sysReg idx = s.sysReg idx := by
  have hf := slotFrame_past s.me info
  simp only [State.sysReg, State.me_setSlot _ _ h, myCore_setSlot, State.setSlot_cur, mstat_past s info h, Slot.past_arch,
    past_xstat, squashes_of_frame hf, detlvl_of_frame hf, setSlot_vbusy, Core.setSlot_tenant, Core.setSlot_preemptdl,
    Core.setSlot_recastwait, Core.setSlot_finj, Core.setSlot_cyc, Core.setSlot_ncyc, State.die, State.setSlot_dies]

-- the state after an SWR

theorem swrCore_cur (s : State) (idx : Int) (v : Word) : (swrCore s idx v).cur = s.cur := by
  unfold swrCore; split_ifs <;> rfl
theorem swrCore_byte (s : State) (idx : Int) (v : Word) (k : Nat) : (swrCore s idx v).byte k = s.byte k := by
  unfold swrCore; split_ifs <;> rfl

theorem me_setSlot_swrCore {s : State} (hs : s.cur.slot < 8) (m : Slot) (idx : Int) (v : Word) :
    ((swrCore s idx v).setSlot s.cur m).me = m := by
  rw [State.me, State.setSlot_cur, swrCore_cur, State.slot_setSlot _ _ hs]

-- SRD and SWR (R274)

theorem sysCheck_eq_none {s : State} {idx : Int} {v : Word} (h : s.sysReg idx = some v)
    (hp : sysPriv idx = true → s.me.arch.sup = true) : s.sysCheck idx = none := by
  simpa [State.sysCheck, h] using hp

theorem sysCheck_of_none {s : State} {idx : Int} (h : s.sysReg idx = none) :
    s.sysCheck idx = some (.illegal, i64 idx) := by
  simp [State.sysCheck, h]

theorem sysPriv_iff {idx : Int} : sysPriv idx = true ↔ idx = 0x1B ∨ idx = 0x20 := by simp [sysPriv]

theorem sysCheck_of_user {s : State} {idx : Int} (h : idx = 0x1B ∨ idx = 0x20) (hu : s.me.arch.sup = false) :
    s.sysCheck idx = some (.priv, i64 idx) := by
  rcases h with rfl | rfl
  all_goals simp [State.sysCheck, State.sysReg, sysPriv, hu]

theorem sysSync_iff {idx : Int} : sysSync idx = true ↔
    idx ∈ [0x14, 0x15, 0x19, 0x1A, 0x1B, 0x1C, 0x20, 0x30, 0x31, 0x32] := by
  simp [sysSync, or_assoc]

/-- R274: the check of SRD and SWR comes before anything else. -/
theorem sys_traps {s : State} {i : ImmB} {c : Cause} {v : Word} (h : s.sysCheck (immVal i) = some (c, v)) (sb : Bool)
    (a : Reg) :
    exec (.srd sb a i) s = .next (s.takeTrap s.cur c v s.pc) ∧
      exec (.swr sb a i) s = .next (s.takeTrap s.cur c v s.pc) := by
  rw [exec_srd, execSrd, exec_swr, execSwr, h]
  exact ⟨rfl, rfl⟩

theorem srd_completes {s : State} (sb : Bool) {a : Reg} {i : ImmB} {v : Word} (hm : MayIssue s [] [codeG a])
    (hr : s.sysReg (immVal i) = some v) (hp : sysPriv (immVal i) = true → s.me.arch.sup = true) :
    ∃ t, exec (.srd sb a i) s = .next t ∧
      Completed s t sb (atPc (s.me.arch.setG a v) (npc s (1 + i.hi.length))) [] := by
  rw [exec_srd, execSrd, sysCheck_eq_none hr hp]
  refine issue_writes_g_of_issues
    (info := { Info.chunked sb (1 + i.hi.length) [] [codeG a] with ext := sysExt (immVal i) }) hm ?_
  simp only [sysReg_past s _ (slot_lt hm), hr, Option.getD_some]

/-- R274: what SWR issues as. -/
def swrInfo (sb : Bool) (a : Reg) (i : ImmB) (v : Word) : Info :=
  { Info.synch sb (1 + i.hi.length) [codeG a] [] false 3 [i64 (immVal i), v] with
    sync := sysSync (immVal i), both := !sysSync (immVal i) || immVal i == 0x015 }

theorem swr_finishes {s : State} (sb : Bool) {a : Reg} {i : ImmB} {v : Word} (hm : MayIssue s [codeG a] [])
    (hr : s.sysReg (immVal i) = some v) (hp : sysPriv (immVal i) = true → s.me.arch.sup = true)
    (hsync : sysSync (immVal i) = true → s.me.chunks = []) :
    exec (.swr sb a i) s = .next ((swrCore s (immVal i) (s.g a)).setSlot s.cur
      ((swrSlot (s.me.past (swrInfo sb a i (s.g a))) (immVal i) (s.g a)).finish (swrInfo sb a i (s.g a)))) := by
  have hs := slot_lt hm
  obtain ⟨hc, hseries⟩ := hm
  have hi : Issues s (swrInfo sb a i (s.g a)) := by
    refine ⟨hc, ?_⟩
    split
    · next h => exact hsync h
    · exact hseries
  have hsup : (s.me.past (swrInfo sb a i (s.g a))).arch.sup = s.me.arch.sup := by rw [Slot.past_arch]
  have hb : (s.advance (swrInfo sb a i (s.g a))).setSysReg (immVal i) ((s.advance (swrInfo sb a i (s.g a))).g a)
      = (swrCore s (immVal i) (s.g a)).setSlot s.cur
          (swrSlot (s.me.past (swrInfo sb a i (s.g a))) (immVal i) (s.g a)) := by
    rw [State.advance_eq, g_past _ _ hs, setSysReg_setSlot hs hsup hp]
  rw [exec_swr, execSwr, sysCheck_eq_none hr hp]
  refine (issue_done s (swrInfo sb a i (s.g a)) (fun u => .done (u.setSysReg (immVal i) (u.g a))) hi
    (congrArg Res.done hb)).trans ?_
  rw [State.complete, State.modSlot_eq, State.slot_setSlot _ _ hs, State.setSlot_setSlot]
  rfl

/-- A register that is written whole reads back as written. -/
theorem sysReg_written {s : State} {m : Slot} {idx : Int} {v pc : Word} (hs : s.cur.slot < 8)
    (hr : m.arch = atPc (swrArch s.me.arch idx v) pc)
    (h : idx ∈ [0x04, 0x05, 0x11, 0x16] ∨ s.me.arch.sup = true ∧ idx ∈ [0x01, 0x02, 0x1B, 0x1C]) :
    ((swrCore s idx v).setSlot s.cur m).sysReg idx = some v := by
  have hme := me_setSlot_swrCore hs m idx v
  have hcore : ((swrCore s idx v).setSlot s.cur m).myCore
      = ((swrCore s idx v).core s.cur.core).setSlot s.cur.slot m := by
    rw [State.myCore, State.setSlot_cur, swrCore_cur, core_setSlot, if_pos rfl]
  simp only [List.mem_cons, List.not_mem_nil, or_false] at h
  rcases h with (rfl | rfl | rfl | rfl) | ⟨hu, rfl | rfl | rfl | rfl⟩
  case inr.inr.inr.inl | inr.inr.inr.inr =>
    simp only [State.sysReg, hcore]
    simp [swrCore, hu, State.modCore]
  all_goals
    simp only [State.sysReg, hme, hr]
    simp [atPc, swrArch, *]

/-- R274: what an SWR that passes its check leaves of its slot and of the machine. -/
theorem swr_completes {s : State} (sb : Bool) {a : Reg} {i : ImmB} {w : Word} (hm : MayIssue s [codeG a] [])
    (hr : s.sysReg (immVal i) = some w) (hp : sysPriv (immVal i) = true → s.me.arch.sup = true)
    (hsync : sysSync (immVal i) = true → s.me.chunks = []) :
    let idx := immVal i
    ∃ t, exec (.swr sb a i) s = .next t ∧ t = (swrCore s idx (s.g a)).setMe t.me ∧
      SlotFrame { s.me with mstat := swrMstat s.me.mstat idx (s.g a) } t.me ∧
      t.me.arch = atPc (swrArch s.me.arch idx (s.g a)) (npc s (1 + i.hi.length)) ∧ t.me.returns = s.me.returns ∧
      (∀ k, t.byte k = s.byte k) ∧
      (idx ∈ [0x04, 0x05, 0x11, 0x16] ∨ s.me.arch.sup = true ∧ idx ∈ [0x01, 0x02, 0x1B, 0x1C] →
        (idx, s.g a) ∈ sysValues t) := by
  intro idx
  have hs := slot_lt hm
  have harch : (swrSlot (s.me.past (swrInfo sb a i (s.g a))) idx (s.g a)).arch
      = atPc (swrArch s.me.arch idx (s.g a)) (npc s (1 + i.hi.length)) := by
    rw [swrSlot, past_arch_eq_atPc, swrArch_atPc]; rfl
  refine ⟨_, swr_finishes sb hm hr hp hsync, ?_⟩
  rw [State.setMe_eq, swrCore_cur, me_setSlot_swrCore hs]
  refine ⟨rfl, ?_, ?_, ?_, fun k => ?_, fun hw => ?_⟩
  · exact slotFrame_trans (slotFrame_swrSlot (slotFrame_past _ _) idx _) (slotFrame_finish _ _)
  · rw [Slot.finish_arch, harch]
  · rw [Slot.finish_returns]; exact Slot.past_returns ..
  · rw [State.byte_setSlot, swrCore_byte]
  · exact mem_sysValues_iff.2 (sysReg_written hs (by rw [Slot.finish_arch, harch]) hw)

-- IDR (R375)

theorem idr_completes {s : State} (sb : Bool) {a b : Reg} (hb : b.toNat ≤ 20) (hm : MayIssue s [] [codeG a]) :
    ∃ t, exec (.idr sb a b) s = .next t ∧
      Completed s t sb (atPc (s.me.arch.setG a ((s.me.ids[b.toNat]?).getD 0)) (npc s 2)) [] := by
  rw [exec_idr, execIdr, if_neg (Nat.not_lt.2 hb)]
  refine issue_writes_g sb 2 hm rfl ?_
  rw [State.me_setSlot _ _ (slot_lt hm), ids_of_frame (slotFrame_past _ _)]

theorem idr_traps {s : State} (sb : Bool) (a : Reg) {b : Reg} (hb : 20 < b.toNat) :
    exec (.idr sb a b) s = .next (s.takeTrap s.cur .illegal (w64 b.toNat) s.pc) := by
  have hv : b.setWidth 64 = w64 b.toNat := (BitVec.ofNat_toNat ..).symm
  rw [exec_idr, execIdr, if_pos hb, hv]
  rfl

/-- Settles O12: an index of the table is read and written by the slot's mode, and any other fails the check. -/
theorem systemRegisterAccess : Obligations.SystemRegisterAccess := by
  intro s sb a b i
  refine ⟨fun p hmem hidx hsup => ?_, fun hno => sys_traps (sysCheck_of_none (sysReg_eq_none hno)) sb a,
    fun hu hidx => sys_traps (sysCheck_of_user hidx hu) sb a, idr_completes sb, idr_traps sb a⟩
  have hr : s.sysReg (immVal i) = some p.2 := mem_sysValues_iff.1 (hidx ▸ hmem)
  have hp : sysPriv (immVal i) = true → s.me.arch.sup = true := fun h => hsup (sysPriv_iff.1 h)
  exact ⟨fun hm => srd_completes sb hm hr hp,
    fun hm hsync => swr_completes sb hm hr hp fun h => hsync (sysSync_iff.1 h)⟩

end Sys2Proof.Proofs
end

section
/-!
PROOFS. Page 6: the assay image. ASEL, ABR, AREC and APF read a slot of the image past everything that the issue of an
instruction changes (R381), and keep their records with the open chunk or with a returning value (R176, R385).
-/
namespace Sys2Proof.Proofs
open Sys2Proof.Machine Sys2Proof.Claims

theorem exec_asel {h a adv i} (s : State) : exec (.asel h a adv i) s = execAsel h a adv i s := rfl
theorem exec_abr {h a c nz i} (s : State) : exec (.abr h a c nz i) s = execAbr h a c nz i s := rfl
theorem exec_arec {sb a i} (s : State) : exec (.arec sb a i) s = execArec sb a i s := rfl
theorem exec_apf {h a b c} (s : State) : exec (.apf h a b c) s = execApf h a b c s := rfl

-- an instruction that changes its own slot, with the state that follows written out

/-- What `Completed` says, between two values of the slot that acts. -/
theorem completed_of_finish {s : State} {info : Info} {m m2 : Slot} {new : List Ret} (hs : s.cur.slot < 8)
    (hf : SlotFrame m m2) (hr : m2.returns = m.returns ++ new) (hst : m2.status = m.status) :
    Completed (s.setSlot s.cur m) (s.setSlot s.cur (m2.finish info)) info.s m2.arch new := by
  have hme := State.me_setSlot s (m2.finish info) hs
  refine ⟨?_, ?_, ?_, ?_, ?_, fun k => rfl⟩
  · rw [hme, State.setMe_eq, State.setSlot_cur, State.setSlot_setSlot]
  all_goals rw [hme]
  · rw [State.me_setSlot _ _ hs]; exact slotFrame_trans hf (slotFrame_finish _ _)
  · rw [State.me_setSlot _ _ hs]; exact fun h => Slot.finish_status m2 info (hst ▸ h)
  · exact Slot.finish_arch ..
  · rw [Slot.finish_returns, hr, State.me_setSlot _ _ hs]

/-- The same as `issue_completes`, with the slot that follows written out. -/
theorem issue_completes_finish {s : State} {info : Info} {body : State → Res} {m2 : Slot} {new : List Ret}
    (h : Issues s info) (hb : body (s.setSlot s.cur (s.me.past info)) = .done (s.setSlot s.cur m2))
    (hf : SlotFrame (s.me.past info) m2) (hr : m2.returns = s.me.returns ++ new) (hst : m2.status = s.me.status) :
    ∃ t, issue s info none body = .next t ∧ Completed s t info.s m2.arch new ∧ t.me = m2.finish info := by
  obtain ⟨t, ht, hc⟩ := issue_completes s info body m2 new h hb hf hr hst
  have he := ht.symm.trans (issue_finish h hb)
  injection he with he
  exact ⟨t, ht, hc, by rw [he, State.me_setSlot _ _ (slot_lt_of_issues h)]⟩

/-- An instruction of any kind whose effect is to return a value to g[a] completes with it on its way. -/
theorem issue_returns_g_of_issues {s : State} {info : Info} {a : Reg} {v : Word} {due : Option Nat} {body : State → Res}
    (hi : Issues s info)
    (hb : let s' := s.setSlot s.cur (s.me.past info); body s' = .done (s'.returning (codeG a) v due)) :
    ∃ t new, issue s info none body = .next t ∧ Completed s t info.s (atPc s.me.arch (npc s info.len)) new ∧
      OnItsWay (codeG a) new (fun r => r.value = some v) := by
  obtain ⟨new, hnew, hway⟩ := returning_past s info (slot_lt_of_issues hi) a v due
  obtain ⟨t, ht, hc⟩ := issue_completes s _ body _ new hi (hb.trans (congrArg Res.done hnew))
    ⟨rfl, fun _ _ => rfl⟩ rfl (by simp)
  rw [past_arch_eq_atPc] at hc
  exact ⟨t, new, ht, hc, onItsWay_mono hway fun _ h => h.1⟩

-- the open chunk (R174, R175)

/-- R174, R175: either a chunk was open already, or a new one stands behind the others and has written nothing. -/
theorem openChunk_cases (m : Slot) : (m.openChunk.chunks = m.chunks ∧ ∃ c ∈ m.chunks, c.closed = false) ∨
    ∃ c, m.openChunk.chunks = m.chunks ++ [c] ∧ c.closed = false ∧ c.writes = [] := by
  by_cases h : m.chunks.any (fun c => !c.closed) = true
  · left
    refine ⟨by rw [Slot.openChunk, if_pos h], ?_⟩
    simpa using h
  · right
    rw [Slot.openChunk, if_neg h, Slot.startSeries_eq]
    exact ⟨_, rfl, rfl, rfl⟩

theorem exists_open_past (m : Slot) {info : Info} (h : info.sync = false) :
    ∃ c ∈ (m.past info).chunks, c.closed = false := by
  rw [past_chunks m h]
  rcases openChunk_cases m with ⟨he, hc⟩ | ⟨c, he, hc, -⟩
  · rw [he]; exact hc
  · exact ⟨c, by simp [he], hc⟩

/-- R174, R176: a chunk that opens hides no store of the slot. -/
theorem sees_past (m : Slot) {info : Info} (h : info.sync = false) (k : Nat) (v : Byte) :
    (m.past info).sees k v = m.sees k v := by
  have hcmp : (m.past info).cmp = m.cmp := by rw [(slotFrame_past m info).1]
  unfold Slot.sees
  rw [hcmp, past_chunks m h]
  rcases openChunk_cases m with ⟨he, -⟩ | ⟨c, he, -, hw⟩
  · rw [he]
  · simp [he, hw, tfind]

-- the slots of an image (R381)

/-- R381: a slot's kind and counts are read past everything that the issue of an instruction changes. -/
theorem assaySlot_setSlot {s : State} {m : Slot} (hs : s.cur.slot < 8) (hf : SlotFrame s.me m) (idx : Nat) :
    (s.setSlot s.cur m).assaySlot idx = s.assaySlot idx := by
  unfold State.assaySlot
  simp only [State.me_setSlot _ _ hs, task_of_frame hf, detlvl_of_frame hf, myCtx_setSlot]
  rfl

/-- R381: the check of an index that is no negative number. -/
theorem assayCheck_natCast (s : State) (idx : Nat) (kinds : List Nat) : s.assayCheck idx kinds
    = if (s.assaySlot idx).suits kinds then none else some (.illegal, w64 idx) := by
  simp only [State.assayCheck, Int.not_lt.2 (Int.natCast_nonneg idx), if_false, Int.toNat_natCast, i64_natCast]
  cases (s.assaySlot idx).suits kinds <;> rfl

-- ASEL (R382)

def aselInfo (h : Hdr) (a : Reg) (i : ImmB) : Info :=
  { Info.chunked h.s (lenP h.rgx i.hi.length) [] [codeG a] with ext := true }

section
variable {s : State} {a : Reg} {adv : BitVec 2} {i : ImmB} {idx : Nat} (h : Hdr) (hidx : immVal i = idx)
include hidx

theorem asel_of_slot (hm : MayIssue s [] [codeG a]) {kind c0 c1 : Nat} (hslot : s.assaySlot idx = .slot kind c0 c1)
    (hkind : kind = adviceKind adv.toNat) :
    ∃ t new, exec (.asel h a adv i) s = .next t ∧
      Completed s t h.s (atPc s.me.arch (npc s (lenP h.rgx i.hi.length))) new ∧
      OnItsWay (codeG a) new (fun r => r.value = some (w64 (advice adv.toNat c0 c1))) := by
  have hsuits : (s.assaySlot idx).suits [adviceKind adv.toNat] = true := by simp [hslot, hkind, AssaySlot.suits]
  rw [exec_asel, execAsel, hidx, assayCheck_natCast, if_pos hsuits]
  refine issue_returns_g_of_issues (info := aselInfo h a i) (due := none) hm ?_
  simp only [assaySlot_setSlot (slot_lt hm) (slotFrame_past _ _), Int.toNat_natCast, hslot]

theorem asel_of_noImage (hm : MayIssue s [] [codeG a]) (hslot : s.assaySlot idx = .noImage) :
    ∃ t new, exec (.asel h a adv i) s = .next t ∧
      Completed s t h.s (atPc s.me.arch (npc s (lenP h.rgx i.hi.length))) new ∧
      OnItsWay (codeG a) new (fun r => r.value = some (if adv = 0 then 0 else 1)) := by
  have hdef : w64 (adviceDefault adv.toNat) = if adv = 0 then 0 else 1 := by
    have h0 : adv.toNat = 0 ↔ adv = 0 := BitVec.toNat_eq (y := 0#2) |>.symm
    simp only [adviceDefault, h0]
    split <;> rfl
  rw [exec_asel, execAsel, hidx, assayCheck_natCast, hslot, ← hdef]
  refine issue_returns_g_of_issues (info := aselInfo h a i) (due := none) hm ?_
  simp only [assaySlot_setSlot (slot_lt hm) (slotFrame_past _ _), Int.toNat_natCast, hslot]

theorem asel_of_lost (hm : MayIssue s [] [codeG a]) {kind d : Nat} (hslot : s.assaySlot idx = .lost kind d)
    (hkind : kind = adviceKind adv.toNat) :
    exec (.asel h a adv i) s = .next (s.takeTrap s.cur .fenced (w64 (0x100 + d)) s.pc) := by
  have hsuits : (s.assaySlot idx).suits [adviceKind adv.toNat] = true := by simp [hslot, hkind, AssaySlot.suits]
  rw [exec_asel, execAsel, hidx, assayCheck_natCast, if_pos hsuits]
  refine issue_trap s (aselInfo h a i) _ hm ?_
  simp only [State.advance_eq, assaySlot_setSlot (slot_lt hm) (slotFrame_past _ _), Int.toNat_natCast, hslot]

theorem asel_traps (hsuits : (s.assaySlot idx).suits [adviceKind adv.toNat] = false) :
    exec (.asel h a adv i) s = .next (s.takeTrap s.cur .illegal (w64 idx) s.pc) := by
  rw [exec_asel, execAsel, hidx, assayCheck_natCast, hsuits]
  rfl
end

-- records kept with the open chunk (R176)

/-- The update of the task's image. -/
def addOf (s : State) (idx inc0 inc1 : Nat) : AssayAdd := ⟨(s.me.task.map (·.handle)).getD 0, idx, inc0, inc1⟩

/-- R176: the slot with an update kept with its open chunk; without an image nothing is recorded. -/
def recorded (s : State) (add : AssayAdd) (m : Slot) : Slot :=
  if s.assaySlot add.index = .noImage then m
  else m.modOpen (fun c => { c with assay := c.assay ++ [add] })

theorem slotFrame_recorded (s : State) (add : AssayAdd) (m : Slot) : SlotFrame m (recorded s add m) := by
  unfold recorded; split <;> exact ⟨rfl, fun _ _ => rfl⟩
@[simp] theorem recorded_arch (s : State) (add : AssayAdd) (m : Slot) : (recorded s add m).arch = m.arch := by
  unfold recorded; split <;> rfl
@[simp] theorem recorded_returns (s : State) (add : AssayAdd) (m : Slot) : (recorded s add m).returns = m.returns := by
  unfold recorded; split <;> rfl
@[simp] theorem recorded_status (s : State) (add : AssayAdd) (m : Slot) : (recorded s add m).status = m.status := by
  unfold recorded; split <;> rfl

theorem record_setSlot {s : State} {m : Slot} (hs : s.cur.slot < 8) (hf : SlotFrame s.me m) (idx inc0 inc1 : Nat) :
    (s.setSlot s.cur m).record idx inc0 inc1 = s.setSlot s.cur (recorded s (addOf s idx inc0 inc1) m) := by
  unfold State.record recorded addOf
  simp only [assaySlot_setSlot hs hf, State.me_setSlot _ _ hs, task_of_frame hf]
  split
  · rfl
  · exact modMe_setSlot hs m _

/-- R176: an update recorded by an instruction stands in a chunk after it. -/
theorem mem_assay_of_recorded {s : State} {add : AssayAdd} {m m2 : Slot} {info : Info} (hsync : info.sync = false)
    (himg : s.assaySlot add.index ≠ .noImage) (hopen : ∃ c ∈ m.chunks, c.closed = false)
    (h2 : m2.chunks = (recorded s add m).chunks) : ∃ k ∈ (m2.finish info).chunks, add ∈ k.assay := by
  obtain ⟨c, hc, hcl⟩ := hopen
  rw [finish_chunks _ hsync, countIn_chunks, h2, recorded, if_neg himg, Slot.modOpen_chunks, List.map_map]
  refine ⟨_, List.mem_map_of_mem hc, ?_⟩
  simp [hcl]

theorem setPc_setSlot {s : State} (hs : s.cur.slot < 8) (m : Slot) (pc : Word) :
    (s.setSlot s.cur m).setPc pc = s.setSlot s.cur { m with arch := atPc m.arch pc } :=
  modMe_setSlot hs m (fun m => { m with arch := atPc m.arch pc })

-- ABR (R383)

/-- R383: the test of BZ, of a register that is 0 or not. -/
def abrTakes (x : Word) (nz : Bool) : Bool := if nz then x != 0 else x == 0

theorem abrTakes_iff (x : Word) (nz : Bool) : abrTakes x nz = true ↔ (x = 0 ↔ nz = false) := by
  cases nz <;> simp [abrTakes]

/-- R383: the slot with ABR's test recorded, and its branch taken or not. -/
def abrSlot (s : State) (a : Reg) (nz : Bool) (i : ImmB) (idx : Nat) (m : Slot) : Slot :=
  let m := recorded s (addOf s idx 1 (abrTakes (s.g a) nz).toNat) m
  { m with arch := if abrTakes (s.g a) nz then atPc m.arch (branchTo s i) else m.arch }

theorem slotFrame_abrSlot (s : State) (a : Reg) (nz : Bool) (i : ImmB) (idx : Nat) (m : Slot) :
    SlotFrame m (abrSlot s a nz i idx m) := slotFrame_trans (slotFrame_recorded s _ m) ⟨rfl, fun _ _ => rfl⟩

def abrInfo (h : Hdr) (a c : Reg) (i : ImmB) : Info := Info.chunked h.s (lenP h.rgx i.hi.length) [codeG a, codeG c] []

theorem abr_finishes {s : State} (h : Hdr) {a c : Reg} (nz : Bool) (i : ImmB) (hm : MayIssue s [codeG a, codeG c] [])
    (hsuits : (s.assaySlot (s.g c).toNat).suits [1] = true) :
    ∃ t, exec (.abr h a c nz i) s = .next t ∧
      Completed s t h.s (abrSlot s a nz i (s.g c).toNat (s.me.past (abrInfo h a c i))).arch [] ∧
      t.me = (abrSlot s a nz i (s.g c).toNat (s.me.past (abrInfo h a c i))).finish (abrInfo h a c i) := by
  have hs := slot_lt hm
  have hf := slotFrame_past s.me (abrInfo h a c i)
  rw [exec_abr]
  refine issue_completes_finish (info := abrInfo h a c i) hm ?_ (slotFrame_abrSlot ..) (by simp [abrSlot]) (by simp [abrSlot])
  have htake : (if nz then s.g a != 0 else s.g a == 0) = abrTakes (s.g a) nz := rfl
  simp only [g_past _ _ hs, assaySlot_setSlot hs hf, kindBRANCH, hsuits, Bool.not_true, Bool.false_eq_true, if_false,
    record_setSlot hs hf, htake, abrSlot]
  split
  · rw [setPc_setSlot hs]; rfl
  · rfl

theorem abr_of_suits {s : State} (h : Hdr) {a c : Reg} (nz : Bool) (i : ImmB) (hm : MayIssue s [codeG a, codeG c] [])
    {idx : Nat} (hidx : idx = (s.g c).toNat) (hsuits : (s.assaySlot idx).suits [1] = true) :
    let tests : Prop := (s.g a = 0) ↔ nz = false
    let handle := (s.me.task.map (·.handle)).getD 0
    ∃ t, exec (.abr h a c nz i) s = .next t ∧
      (tests → Completed s t h.s (atPc s.me.arch (branchTo s i)) []) ∧
      (¬tests → Completed s t h.s (atPc s.me.arch (npc s (lenP h.rgx i.hi.length))) []) ∧
      ∀ c0 c1, s.assaySlot idx = .slot 1 c0 c1 → ∃ k ∈ t.me.chunks,
        (tests → (⟨handle, idx, 1, 1⟩ : AssayAdd) ∈ k.assay) ∧
        (¬tests → (⟨handle, idx, 1, 0⟩ : AssayAdd) ∈ k.assay) := by
  subst hidx
  intro tests handle
  obtain ⟨t, ht, hc, hme⟩ := abr_finishes h nz i hm hsuits
  have htests : tests ↔ abrTakes (s.g a) nz = true := (abrTakes_iff _ _).symm
  simp only [abrSlot, recorded_arch, past_arch_eq_atPc] at hc
  refine ⟨t, ht, fun hy => ?_, fun hn => ?_, fun c0 c1 hslot => ?_⟩
  · rwa [if_pos (htests.1 hy)] at hc
  · rwa [if_neg fun hx => hn (htests.2 hx)] at hc
  · obtain ⟨k, hk, hadd⟩ := mem_assay_of_recorded (s := s) (info := abrInfo h a c i)
      (m2 := abrSlot s a nz i (s.g c).toNat (s.me.past (abrInfo h a c i))) rfl
      (by simp [addOf, hslot]) (exists_open_past s.me rfl) rfl
    refine ⟨k, hme ▸ hk, fun hy => ?_, fun hn => ?_⟩
    · rwa [htests.1 hy] at hadd
    · rwa [Bool.eq_false_iff.2 fun hx => hn (htests.2 hx)] at hadd

theorem abr_traps {s : State} (h : Hdr) {a c : Reg} (nz : Bool) (i : ImmB) (hm : MayIssue s [codeG a, codeG c] [])
    (hsuits : (s.assaySlot (s.g c).toNat).suits [1] = false) :
    exec (.abr h a c nz i) s = .next (s.takeTrap s.cur .illegal (s.g c) s.pc) := by
  have hs := slot_lt hm
  rw [exec_abr]
  refine issue_trap s (abrInfo h a c i) _ hm ?_
  simp only [State.advance_eq, g_past _ _ hs, assaySlot_setSlot hs (slotFrame_past _ _), kindBRANCH, hsuits]
  rfl

-- AREC (R384)

/-- R384: what AREC records of a value in a slot of a kind. -/
theorem arec_inc_eq (kind : Nat) (x : Word) :
    (if kind = kindBRANCH then (if min x.toNat countMax = 0 then 0 else 1) else min x.toNat countMax)
      = min x.toNat (if kind = 1 then 1 else 2 ^ 32 - 1) := by
  unfold kindBRANCH countMax
  split_ifs <;> omega

def arecInfo (sb : Bool) (a : Reg) (i : ImmB) : Info := Info.chunked sb (2 + i.hi.length) [codeG a] []

/-- R384: what AREC records. -/
def arecAdd (s : State) (a : Reg) (idx : Nat) : AssayAdd :=
  addOf s idx 1 (min (s.g a).toNat (if (s.assaySlot idx).kind = 1 then 1 else 2 ^ 32 - 1))

theorem arec_finishes {s : State} (sb : Bool) {a : Reg} {i : ImmB} {idx : Nat} (hidx : immVal i = idx)
    (hm : MayIssue s [codeG a] []) (hsuits : (s.assaySlot idx).suits [1, 2, 3] = true) :
    ∃ t, exec (.arec sb a i) s = .next t ∧
      Completed s t sb (recorded s (arecAdd s a idx) (s.me.past (arecInfo sb a i))).arch [] ∧
      t.me = (recorded s (arecAdd s a idx) (s.me.past (arecInfo sb a i))).finish (arecInfo sb a i) := by
  have hs := slot_lt hm
  rw [exec_arec, execArec, hidx, assayCheck_natCast, kindBRANCH, kindLOAD, kindLOOP, if_pos hsuits]
  refine issue_completes_finish (info := arecInfo sb a i) hm ?_ (slotFrame_recorded ..) (by simp) (by simp)
  have hf := slotFrame_past s.me (arecInfo sb a i)
  simp only [g_past _ _ hs, assaySlot_setSlot hs hf, Int.toNat_natCast, record_setSlot hs hf, arecAdd, ← arec_inc_eq]
  rfl

theorem arec_of_suits {s : State} (sb : Bool) {a : Reg} {i : ImmB} {idx : Nat} (hidx : immVal i = idx)
    (hm : MayIssue s [codeG a] []) (hsuits : (s.assaySlot idx).suits [1, 2, 3] = true) :
    let handle := (s.me.task.map (·.handle)).getD 0
    ∃ t, exec (.arec sb a i) s = .next t ∧ Completed s t sb (atPc s.me.arch (npc s (2 + i.hi.length))) [] ∧
      ∀ kind c0 c1, s.assaySlot idx = .slot kind c0 c1 → ∃ k ∈ t.me.chunks,
        (⟨handle, idx, 1, min (s.g a).toNat (if kind = 1 then 1 else 2 ^ 32 - 1)⟩ : AssayAdd) ∈ k.assay := by
  intro handle
  obtain ⟨t, ht, hc, hme⟩ := arec_finishes sb hidx hm hsuits
  rw [recorded_arch, past_arch_eq_atPc] at hc
  refine ⟨t, ht, hc, fun kind c0 c1 hslot => ?_⟩
  obtain ⟨k, hk, hin⟩ := mem_assay_of_recorded (s := s) (info := arecInfo sb a i) (add := arecAdd s a idx)
    (m := s.me.past (arecInfo sb a i)) rfl (by simp [arecAdd, addOf, hslot]) (exists_open_past s.me rfl) rfl
  rw [arecAdd, hslot] at hin
  exact ⟨k, hme ▸ hk, hin⟩

theorem arec_traps {s : State} (sb : Bool) {a : Reg} {i : ImmB} {idx : Nat} (hidx : immVal i = idx)
    (hsuits : (s.assaySlot idx).suits [1, 2, 3] = false) :
    exec (.arec sb a i) s = .next (s.takeTrap s.cur .illegal (w64 idx) s.pc) := by
  rw [exec_arec, execArec, hidx, assayCheck_natCast, kindBRANCH, kindLOAD, kindLOOP, hsuits]
  rfl

-- what a load reads, past the issue of an instruction (R174, R269)

theorem placeOf_setSlot (s : State) (i : SlotId) (m : Slot) (ctx ga : Nat) (write : Bool) :
    (s.setSlot i m).placeOf ctx ga write = s.placeOf ctx ga write := by
  have hkey : ∀ home off, (s.setSlot i m).bmKey home ctx off = s.bmKey home ctx off := fun home off => by
    have hentry : ∀ vpn, ((s.setSlot i m).core home).entryFor ctx vpn = (s.core home).entryFor ctx vpn := fun vpn => by
      rw [core_setSlot]; split <;> rfl
    simp only [State.bmKey, hentry]
    rfl
  simp only [State.placeOf, hkey]
  rfl

/-- R172: the check of a write reads the slot's task, level and mode, and the holders at the home. -/
theorem capOk_past (s : State) (info : Info) (h : s.cur.slot < 8) (ga : Nat) :
    (s.setSlot s.cur (s.me.past info)).capOk ga = s.capOk ga := by
  have hf := slotFrame_past s.me info
  have hholder : ∀ ctx home hid, (s.setSlot s.cur (s.me.past info)).holderOf ctx home hid = s.holderOf ctx home hid :=
    fun ctx home hid => by unfold State.holderOf; rw [core_setSlot]; split <;> rfl
  simp only [State.capOk, State.mayWrite, State.me_setSlot _ _ h, detlvl_of_frame hf, task_of_frame hf, Slot.past_arch,
    hholder, State.setSlot_pkg]
  rfl

/-- R269: what of the state the checks of a scalar access read. -/
theorem scalarEa_congr {s u : State} (hctx : u.myCtx = s.myCtx) (hpkg : u.pkg = s.pkg) (habs : u.absolute = s.absolute)
    (hcoord : u.coordOk = s.coordOk) (hplace : u.placeOf = s.placeOf) (hcap : u.capOk = s.capOk)
    (hfence : u.fencedAt = s.fencedAt) : u.scalarEa = s.scalarEa := by
  funext base imm k rc write qual
  rw [State.scalarEa, State.scalarEa, hctx, hpkg, habs, hcoord, hplace, hcap, hfence]

theorem scalarEa_past (s : State) (info : Info) (h : s.cur.slot < 8) :
    (s.setSlot s.cur (s.me.past info)).scalarEa = s.scalarEa :=
  scalarEa_congr (myCtx_setSlot s s.cur _) rfl (funext fun x => absolute_past s info h x) rfl
    (by funext ctx ga write; exact placeOf_setSlot ..) (funext fun ga => capOk_past s info h ga) rfl

theorem loadNum_past {s : State} {info : Info} (hs : s.cur.slot < 8) (h : info.sync = false) (k n : Nat) :
    (s.setSlot s.cur (s.me.past info)).loadNum k n = s.loadNum k n := by
  simp only [State.loadNum, State.me_setSlot _ _ hs, sees_past _ h, State.byte_setSlot]

/-- A load of 8 bytes is the whole register. -/
theorem extend_eight (z : Bool) (v : Nat) : extend 8 z v = w64 v := by
  cases z
  · exact (congrArg i64 (sext_eq_bmod 64 v)).trans ((i64_bmod v).trans (i64_natCast v))
  · exact BitVec.eq_of_toNat_eq (by simp [extend, w64])

-- a value on its way, and the update that it makes (R104, R385)

/-- A plain returning value of g[a] as its slot keeps it. -/
def retOf (a : Reg) (v : Word) (due chunk src : Option Nat) : Ret :=
  { Ret.plain (codeG a) v with due := due, chunk := chunk, src := src }

theorem addRet_g0 (m : Slot) (v : Word) (due chunk src : Option Nat) : m.addRet (retOf 0 v due chunk src) = m := rfl

theorem retOf_reg (a : Reg) (v : Word) (due chunk src : Option Nat) : (retOf a v due chunk src).reg.toNat = codeG a := by
  have h := a.isLt
  rw [retOf, Ret.plain, BitVec.toNat_ofNat, codeG]; omega

theorem addRet_of_ne_g0 (m : Slot) {a : Reg} (ha : codeG a ≠ 0) (v : Word) (due chunk src : Option Nat) :
    m.addRet (retOf a v due chunk src)
      = { m with returns := m.returns ++ [{ retOf a v due chunk src with pos := m.openCount }] } := by
  have hs : (retOf a v due chunk src).silent = false :=
    Bool.eq_false_iff.2 fun h => ha (by rw [← retOf_reg a v due chunk src, reg_of_silent h]; rfl)
  rw [Slot.addRet, hs]; rfl

theorem addRet_untagged (m : Slot) (a : Reg) (v : Word) (due chunk src : Option Nat) :
    ∃ new, m.addRet (retOf a v due chunk src) = { m with returns := m.returns ++ new } ∧
      OnItsWay (codeG a) new (fun r => r.value = some v ∧ r.assay = none) := by
  by_cases ha : codeG a = 0
  · obtain rfl : a = 0 := BitVec.eq_of_toNat_eq ha
    exact ⟨[], by rw [addRet_g0, List.append_nil], .inl ⟨rfl, by simp⟩⟩
  · exact ⟨_, addRet_of_ne_g0 m ha .., .inr ⟨ha, _, rfl, retOf_reg a v due chunk src, rfl, rfl, rfl⟩⟩

/-- A list whose last entry is changed by its place. -/
theorem map_zipIdx_last {α : Type} (f : α → α) (l : List α) (x : α) :
    ((l ++ [x]).zipIdx).map (fun e => if e.2 + 1 == (l ++ [x]).length then f e.1 else e.1) = l ++ [f x] := by
  rw [List.zipIdx_append, List.map_append]
  congr 1
  · conv_rhs => rw [← List.zipIdx_map_fst 0 l]
    refine List.map_congr_left fun e he => ?_
    have := List.snd_lt_of_mem_zipIdx he
    simp; omega
  · simp

/-- R385: the value of APF is on its way with the update that it makes when it returns. -/
theorem tagAssay_addRet (m : Slot) (a : Reg) (v : Word) (due chunk src : Option Nat) (idx cyc : Nat) :
    ∃ new, (m.addRet (retOf a v due chunk src)).tagAssay m.returns.length idx cyc
        = { m with returns := m.returns ++ new } ∧
      OnItsWay (codeG a) new (fun r => r.value = some v ∧ r.assay = some (idx, cyc)) := by
  by_cases ha : codeG a = 0
  · obtain rfl : a = 0 := BitVec.eq_of_toNat_eq ha
    rw [addRet_g0, Slot.tagAssay, if_neg (Nat.lt_irrefl _)]
    exact ⟨[{ Ret.plain 0 0 with assay := some (idx, cyc), chunk := m.openNo, pos := m.openCount }], rfl,
      .inl ⟨rfl, by simp [Ret.plain]⟩⟩
  · rw [addRet_of_ne_g0 m ha, Slot.tagAssay, if_pos (by simp)]
    refine ⟨[{ retOf a v due chunk src with pos := m.openCount, assay := some (idx, cyc), chunk := m.openNo }],
      ?_, .inr ⟨ha, _, rfl, retOf_reg a v due chunk src, rfl, rfl, rfl⟩⟩
    exact congrArg (fun rs => { m with returns := rs })
      (map_zipIdx_last (fun r : Ret => { r with assay := some (idx, cyc), chunk := m.openNo }) m.returns _)

-- the effect of a load (R177, R191, R270)

/-- R177, R191: the slot with a line entered in its open chunk's read signature, and what was released there observed. -/
def readSlot (s : State) (k : Nat) (m : Slot) : Slot :=
  { m.modOpen (fun c => { c with reads := setInsert c.reads (lineOf k) }) with
    seen := setUnion m.seen (tget s.relAt [] (unitOf k)) }

theorem slotFrame_readSlot {m m' : Slot} (h : SlotFrame m m') (s : State) (k : Nat) :
    SlotFrame { m with seen := setUnion m.seen (tget s.relAt [] (unitOf k)) } (readSlot s k m') := by
  have hseen := seen_of_frame h
  obtain ⟨hm, hc⟩ := h
  exact ⟨by rw [readSlot, hseen, hm]; rfl, hc⟩

theorem observe_reads_setSlot {s : State} (hs : s.cur.slot < 8) (k : Nat) (m : Slot) :
    ((s.setSlot s.cur m).reads k).observe s.cur (unitOf k) = s.setSlot s.cur (readSlot s k m) := by
  rw [State.reads, modMe_setSlot hs]
  simp [State.observe, hs, readSlot]

/-- R270: the slot with the value of a load on its way to g[a], after its latency from the slot's own LM. -/
def loadedSlot (s : State) (k : Nat) (a : Reg) (v : Word) (m : Slot) : Slot :=
  let m := readSlot s k m
  m.addRet (retOf a v (if paSpace k == spLM && paCore k == s.cur.core then some (s.myCore.cyc.toNat + 10) else none)
    m.openNo (some (keyPlace k)))

/-- R270: what a plain load comes to, by where its address leads. The definition is unfolded as a whole, not at its arguments:
the kernel would evaluate the address. -/
theorem loadPlain_eq (u : State) (pc : Word) (f : LoadForm) (base : Word) (imm : Int) (rc : Bool) :
    (∀ k ga, u.scalarEa base imm f.size rc false false = .ok (.here k, ga) → u.loadPlain pc f base imm rc
      = .done (((u.reads k).observe u.cur (unitOf k)).returning f.dest (f.value (u.loadNum k f.size))
          (if paSpace k == spLM && paCore k == u.cur.core then some (u.myCore.cyc.toNat + 10) else none)
          (some (keyPlace k)))) ∧
    ∀ c v, u.scalarEa base imm f.size rc false false = .error (c, v) → u.loadPlain pc f base imm rc = .trap c v := by
  have hdef : @State.loadPlain = @State.loadPlain := rfl
  conv_rhs at hdef => delta State.loadPlain
  rw [hdef]
  beta_reduce
  refine ⟨fun k ga hea => ?_, fun c v hea => ?_⟩
  all_goals rw [hea]

/-- R270: a load of 8 bytes of the own package. -/
theorem loadPlain_doubleword {s : State} (hs : s.cur.slot < 8) {m : Slot} {base : Word} {k ga : Nat}
    (hea : (s.setSlot s.cur m).scalarEa base 0 8 false false false = .ok (.here k, ga)) (pc : Word) (a : Reg) :
    (s.setSlot s.cur m).loadPlain pc ⟨codeG a, 8, false⟩ base 0 false
      = .done (s.setSlot s.cur (loadedSlot s k a (w64 ((s.setSlot s.cur m).loadNum k 8)) m)) := by
  obtain ⟨hhere, -⟩ := loadPlain_eq (s.setSlot s.cur m) pc ⟨codeG a, 8, false⟩ base 0 false
  rw [hhere k ga hea, LoadForm.value, extend_eight, State.setSlot_cur, observe_reads_setSlot hs, State.returning,
    State.addRet, modMe_setSlot hs, State.me_setSlot _ _ hs, myCore_cyc_setSlot]
  rfl

-- APF (R385)

/-- R385: the slot with the value of APF on its way, marked for the slot of the image if there is one. -/
def apfSlot (s : State) (k : Nat) (a : Reg) (idx : Nat) (m : Slot) : Slot :=
  let l := loadedSlot s k a (w64 (s.loadNum k 8)) m
  if s.assaySlot idx = .noImage then l else l.tagAssay m.returns.length idx s.myCore.cyc.toNat

theorem apfSlot_eq (s : State) (k : Nat) (a : Reg) (idx : Nat) (m : Slot) :
    ∃ new, apfSlot s k a idx m = { readSlot s k m with returns := m.returns ++ new } ∧
      OnItsWay (codeG a) new (fun r => r.value = some (w64 (s.loadNum k 8)) ∧
        r.assay = if s.assaySlot idx = .noImage then none else some (idx, s.myCore.cyc.toNat)) := by
  unfold apfSlot loadedSlot
  simp only
  split
  · exact addRet_untagged (readSlot s k m) ..
  · exact tagAssay_addRet (readSlot s k m) ..

def apfInfo (h : Hdr) (a b c : Reg) : Info :=
  { Info.chunked h.s (lenP h.rgx 0) [codeG b, codeG c] [codeG a] with ext := true }

theorem apf_finishes {s : State} (h : Hdr) {a b c : Reg} {k ga : Nat} (hm : MayIssue s [codeG b, codeG c] [codeG a])
    (hsuits : (s.assaySlot (s.g c).toNat).suits [2] = true)
    (hea : s.scalarEa (s.g b) 0 8 false false false = .ok (.here k, ga)) :
    exec (.apf h a b c) s = .next (s.setSlot s.cur
      ((apfSlot s k a (s.g c).toNat (s.me.past (apfInfo h a b c))).finish (apfInfo h a b c))) := by
  have hs := slot_lt hm
  have hf := slotFrame_past s.me (apfInfo h a b c)
  rw [← scalarEa_past s (apfInfo h a b c) hs] at hea
  have hload := loadPlain_doubleword hs hea s.pc a
  rw [loadNum_past hs rfl] at hload
  rw [exec_apf]
  refine issue_finish (info := apfInfo h a b c) hm ?_
  simp only [g_past _ _ hs, assaySlot_setSlot hs hf, kindLOAD, hsuits, Bool.not_true, Bool.false_eq_true, if_false, hload,
    State.me_setSlot _ _ hs, modMe_setSlot hs, myCore_cyc_setSlot, apfSlot]
  split <;> rfl

theorem apf_of_here {s : State} (h : Hdr) {a b c : Reg} {k ga : Nat} (hm : MayIssue s [codeG b, codeG c] [codeG a])
    (hsuits : (s.assaySlot (s.g c).toNat).suits [2] = true)
    (hea : s.scalarEa (s.g b) 0 8 false false false = .ok (.here k, ga)) :
    ∃ t new, exec (.apf h a b c) s = .next t ∧
      Completed (s.observe s.cur (unitOf k)) t h.s (atPc s.me.arch (npc s (lenP h.rgx 0))) new ∧
      OnItsWay (codeG a) new (fun r => r.value = some (w64 (s.loadNum k 8)) ∧
        r.assay = if s.assaySlot (s.g c).toNat = .noImage then none else some ((s.g c).toNat, s.myCore.cyc.toNat)) := by
  obtain ⟨new, hnew, hway⟩ := apfSlot_eq s k a (s.g c).toNat (s.me.past (apfInfo h a b c))
  refine ⟨_, new, apf_finishes h hm hsuits hea, ?_, hway⟩
  have hf := slotFrame_readSlot (slotFrame_past s.me (apfInfo h a b c)) s k
  have hc := completed_of_finish (info := apfInfo h a b c) (m2 := apfSlot s k a (s.g c).toNat (s.me.past (apfInfo h a b c)))
    (new := new) (slot_lt hm) (by rw [hnew]; exact slotFrame_trans hf ⟨rfl, fun _ _ => rfl⟩)
    (by rw [hnew]; simp) (by rw [hnew]; simp [readSlot])
  have harch : (apfSlot s k a (s.g c).toNat (s.me.past (apfInfo h a b c))).arch = atPc s.me.arch (npc s (lenP h.rgx 0)) := by
    rw [hnew]; exact past_arch_eq_atPc ..
  rw [harch] at hc
  exact hc

theorem apf_of_error {s : State} (h : Hdr) {a b c : Reg} {cause : Cause} {v : Word}
    (hm : MayIssue s [codeG b, codeG c] [codeG a]) (hsuits : (s.assaySlot (s.g c).toNat).suits [2] = true)
    (hea : s.scalarEa (s.g b) 0 8 false false false = .error (cause, v)) :
    exec (.apf h a b c) s = .next (s.takeTrap s.cur cause v s.pc) := by
  have hs := slot_lt hm
  rw [← scalarEa_past s (apfInfo h a b c) hs] at hea
  obtain ⟨-, herr⟩ := loadPlain_eq (s.setSlot s.cur (s.me.past (apfInfo h a b c))) s.pc ⟨codeG a, 8, false⟩ (s.g b)
    0 false
  rw [exec_apf]
  refine issue_trap s (apfInfo h a b c) _ hm ?_
  simp only [State.advance_eq, g_past _ _ hs, assaySlot_setSlot hs (slotFrame_past _ _), kindLOAD, hsuits, Bool.not_true,
    Bool.false_eq_true, if_false, herr cause v hea]

theorem apf_traps {s : State} (h : Hdr) {a b c : Reg} (hm : MayIssue s [codeG b, codeG c] [codeG a])
    (hsuits : (s.assaySlot (s.g c).toNat).suits [2] = false) :
    exec (.apf h a b c) s = .next (s.takeTrap s.cur .illegal (s.g c) s.pc) := by
  have hs := slot_lt hm
  rw [exec_apf]
  refine issue_trap s (apfInfo h a b c) _ hm ?_
  simp only [State.advance_eq, g_past _ _ hs, assaySlot_setSlot hs (slotFrame_past _ _), kindLOAD, hsuits]
  rfl

/-- Settles O24, instruction by instruction. -/
theorem assayInstructions : Obligations.AssayInstructions := by
  intro s sb h a b c adv nz i idx
  refine ⟨fun hidx hm => ⟨fun _ _ _ => asel_of_slot h hidx hm, asel_of_noImage h hidx hm,
      fun _ _ => asel_of_lost h hidx hm⟩,
    asel_traps h, fun hm hidx => ?_, arec_of_suits sb, arec_traps sb, fun hm hidx => ?_⟩
  all_goals subst hidx
  · exact ⟨abr_of_suits h nz i hm rfl, abr_traps h nz i hm⟩
  · exact ⟨fun _ _ => apf_of_here h hm, fun _ _ => apf_of_error h hm, apf_traps h hm⟩

end Sys2Proof.Proofs
end
